-- ==== Sys2Proof/Word.lean ====
section
/-! DEFINITION. The word types of the machine and their plainest arithmetic (spec 00 R4, R5). -/
namespace Sys2Proof

/-- A byte, the smallest addressable unit (R4). -/
abbrev Byte := BitVec 8
/-- A 32-bit word. -/
abbrev W32 := BitVec 32
/-- A 64-bit doubleword: the width of a general register. -/
abbrev W64 := BitVec 64
/-- A 64-byte vector register (R5). -/
abbrev V512 := BitVec 512
/-- The 256 data bits of a flit (R5). -/
abbrev W256 := BitVec 256

/-- The bit field `w[lo + n - 1 : lo]` of a natural number. -/
def bits (w lo n : Nat) : Nat := w / 2 ^ lo % 2 ^ n

/-- Bit `i` of a natural number. -/
def bit (w i : Nat) : Bool := w / 2 ^ i % 2 == 1

/-- One if the flag holds, else zero. -/
def b2n (b : Bool) : Nat := if b then 1 else 0

end Sys2Proof
end

