-- ==== Sys2Proof/Syntax.lean ====
section
/-! DEFINITION. The instructions and events of the machine: one constructor of `Instr` for each row of
spec/opcode_table.json. Core words and switch words carry the fields of R31-R54; the events carry what the
row's event names (a tile, a launch, a written value, a choice the manual leaves open). -/
namespace Sys2Proof

/-- A 5-bit register field: g0-g31 or v0-v31 (R32). -/
abbrev Reg := Fin 32
/-- A mask register m0-m7 or a handle h0-h7 (R32). -/
abbrev Reg8 := Fin 8
/-- An accumulator block a0-a15 (R32). -/
abbrev AccNo := Fin 16
/-- A tile of the panel: compute die 0-199 times 144 plus the tile index 0-143 (R2, R3). -/
abbrev TileNo := Fin 28800
/-- A compute die, or a cache die (R2, R226). -/
abbrev DieNo := Fin 200
/-- A tile index on a die or a place on it (R393). -/
abbrev Spot := Fin 144

/-- The type codes 0-B of R68. -/
inductive VType
  | f32 | bf16 | f16 | b8 | i8 | n8 | i16 | n16 | i32 | n32 | i64 | n64
deriving DecidableEq, Repr, Inhabited

/-- The access sizes .b .h .w .d (R5, R39). -/
inductive Size
  | b | h | w | d
deriving DecidableEq, Repr, Inhabited

/-- The shift kinds of `shi.k` (R38). -/
inductive ShiftKind
  | shl | shr | sra | rot
deriving DecidableEq, Repr, Inhabited

/-- The branch conditions of R38. -/
inductive Cond
  | eq | ne | lt | ge | ltN | geN
deriving DecidableEq, Repr, Inhabited

/-- The atomic operations of R40 and R250. -/
inductive AmoOp
  | add | min | max | minN | maxN | and | or | xor | swap | cas | fadd
deriving DecidableEq, Repr, Inhabited

/-- The ordering bits of an amo (R40). -/
inductive Order
  | plain | acq | rel | ar
deriving DecidableEq, Repr, Inhabited

/-- The operand selectors of the matrix unit (R45). -/
inductive MatSel
  | bf16 | f16 | b8 | i8 | n8
deriving DecidableEq, Repr, Inhabited

/-- The store formats of mst (R45). -/
inductive StFmt
  | f32 | bf16 | f16
deriving DecidableEq, Repr, Inhabited

/-- The source selectors of a switch word (R53). -/
inductive Src
  | none | n | e | s | w | d0 | d1 | d2 | d3 | x | f
deriving DecidableEq, Repr, Inhabited

/-- The eight outputs of a switch word, each with its source (R52). -/
structure Route where
  n : Src
  e : Src
  s : Src
  w : Src
  c0 : Src
  c1 : Src
  c2 : Src
  l : Src
deriving DecidableEq, Repr, Inhabited

/-- Which hart an access or a fault record belongs to. -/
inductive HartId
  | strand (t : TileNo) (k : Fin 8)
  | engine (t : TileNo)
  | mgmt (d : DieNo)
deriving DecidableEq, Repr

/-- Where an uncorrectable error is found (R366). -/
inductive ErrSite
  | localMem (t : TileNo) (addr : Nat)
  | accumulator (t : TileNo) (addr : Nat)
  | line (pa : Nat)
  /-- The residue of a register of a hart, or of its tile's accumulators, by its number in R365. -/
  | register (h : HartId) (r : Fin 80)
deriving DecidableEq, Repr

/-- A correctable-error counter (R440): of a compute die (local memory, accumulators) or a cache die
(slices, HBM). -/
inductive CounterSite
  | dieLocal (d : DieNo)
  | dieAcc (d : DieNo)
  | cacheSlice (c : DieNo)
  | cacheHbm (c : DieNo)
deriving DecidableEq, Repr

/-- A frame of the Sniros Link Protocol (R414). -/
structure Frame where
  ver : Nat
  kindOf : Nat
  rst : Bool
  seq : Nat
  status : Nat
  kind : Nat
  len : Nat
  flow : Nat
  offset : Nat
  incr : W64
  data : List Byte
deriving DecidableEq, Repr, Inhabited

/-- A boot image: its header's fields, the header's bytes without its signature fields, body and signatures (R436). -/
structure BootImage where
  magic : Nat
  stage : Nat
  svn : Nat
  /-- The body length that the header states. -/
  len : Nat
  rsaKey : List Byte
  slhKey : List Byte
  header : List Byte
  body : List Byte
  rsaSig : List Byte
  slhSig : List Byte
deriving DecidableEq, Repr, Inhabited

/-- A piece of a tile's state that the Rhizoid chain holds (R374, R378): a register of a strand; a byte of the tile area that
R446 arranges (the other state of strands, queues, barriers, side table); a byte of a memory; a part of the switch, the
matrix unit or the tile engine, in the order in which R374 lists them, a field of it where it has several; a held access or a
handle of a hart (strands 0-7, the engine 8); an entry of the translation cache; the requests at the die's Sorus sampler; a
register of the collective engine, the sampler or the management hart. -/
inductive ChainItem
  | g (k : Fin 8) (r : Reg)
  | v (k : Fin 8) (r : Reg)
  | m (k : Fin 8) (r : Reg8)
  | area (off : Nat)
  | localMem (addr : Nat)
  | accumulator (addr : Nat)
  | code (addr : Nat)
  | switchCode (addr : Nat)
  | switchReg (i : Fin 8)
  | switchMode (i : Fin 10)
  | port (p : Fin 4) (i : Nat)
  | portCount (p : Fin 4)
  | latch (l : Fin 2) (i : Nat)
  | latchState (l : Fin 2)
  | latchPos (l : Fin 2) (i : Fin 6)
  | matrixOrder (i : Fin 5)
  | matrixRun (i : Fin 6)
  | matrixOp (n : Fin 9) (i : Fin 11)
  | tag (b : AccNo)
  | engineG (r : Reg)
  | engineReg (i : Fin 12)
  | engineUnit (i : Fin 9)
  | engineQueue (i : Fin 5)
  | engineDesc (i : Fin 64)
  | engineShared (i : Fin 6)
  | held (u : Fin 9) (i : Fin 11)
  | handle (u : Fin 9) (n : Reg8) (i : Fin 8)
  | tlb (n : Fin 64) (i : Fin 8)
  | sampler (i : Nat)
  | dieReg (u : Fin 3) (i : Fin 39)
deriving DecidableEq, Repr

/-- What a JTAG instruction does (R442): boundary scan, or a private instruction that reads or writes a piece of a tile's
state through the Rhizoid chain (R378, R439). -/
inductive JtagOp
  | boundaryScan
  | chainRead (t : TileNo) (i : ChainItem)
  | chainWrite (t : TileNo) (i : ChainItem) (v : Nat)
deriving DecidableEq, Repr

/-- The instructions (196 core words and 11 switch words) and the events of the machine. -/
inductive Instr
  -- major 0x01, alu (R37, R102-R104)
  | add (d a b : Reg) | sub (d a b : Reg) | and (d a b : Reg) | or (d a b : Reg) | xor (d a b : Reg)
  | andn (d a b : Reg) | shl (d a b : Reg) | shr (d a b : Reg) | sra (d a b : Reg) | rot (d a b : Reg)
  | min (d a b : Reg) | max (d a b : Reg) | minN (d a b : Reg) | maxN (d a b : Reg)
  | addw (d a b : Reg) | subw (d a b : Reg)
  | clz (d a : Reg) | ctz (d a : Reg) | popc (d a : Reg)
  | sextB (d a : Reg) | sextH (d a : Reg) | sextW (d a : Reg)
  | zextB (d a : Reg) | zextH (d a : Reg) | zextW (d a : Reg)
  | bfx (d a b : Reg) | bfi (d a b : Reg) | sel (d a b : Reg)
  | mul (d a b : Reg) | mulh (d a b : Reg) | mulhN (d a b : Reg)
  | div (d a b : Reg) | divN (d a b : Reg) | rem (d a b : Reg) | remN (d a b : Reg)
  | seq (d a b : Reg) | sne (d a b : Reg) | slt (d a b : Reg) | sltN (d a b : Reg)
  | sle (d a b : Reg) | sleN (d a b : Reg)
  -- immediate forms (R38, R105)
  | addi (d a : Reg) (imm : BitVec 16) | andi (d a : Reg) (imm : BitVec 16)
  | ori (d a : Reg) (imm : BitVec 16) | xori (d a : Reg) (imm : BitVec 16)
  | shi (k : ShiftKind) (d a : Reg) (n : Fin 64)
  | ldi (d : Reg) (imm : BitVec 16) | ldih (d a : Reg) (imm : BitVec 16)
  | slti (d a : Reg) (imm : BitVec 16) | sltiN (d a : Reg) (imm : BitVec 16)
  -- control (R106-R113)
  | j (off : BitVec 26) | jal (off : BitVec 26)
  | b (c : Cond) (a b : Reg) (off : BitVec 13)
  | jalr (d a : Reg) (imm : BitVec 16)
  | loop (k : Fin 2) (a : Reg) (body : Fin 8192)
  | loopi (k : Fin 2) (n : Fin 4096) (body : Fin 8192)
  -- loads and stores (R39, R114, R242, R248)
  | ldl (z : Size) (sx : Bool) (d a : Reg) (imm : BitVec 11)
  | stl (z : Size) (d a : Reg) (imm : BitVec 11)
  | ld (z : Size) (rx acq : Bool) (d a : Reg) (imm : BitVec 11)
  | st (z : Size) (rx rel : Bool) (d a : Reg) (imm : BitVec 11)
  | ldh (z : Size) (rx acq : Bool) (d : Reg) (h : Reg8) (i : Reg) (imm : BitVec 7)
  | sth (z : Size) (rx rel : Bool) (d : Reg) (h : Reg8) (i : Reg) (imm : BitVec 7)
  -- atomics and handles (R40, R41)
  | amo (op : AmoOp) (dbl loc : Bool) (ord : Order) (d a b : Reg)
  | xlat (h : Reg8) (a b : Reg) | xrel (h : Reg8)
  -- vector floating point (R128-R130)
  | vaddFp (t : VType) (d a b : Reg) (x : Reg8) | vsubFp (t : VType) (d a b : Reg) (x : Reg8)
  | vmulFp (t : VType) (d a b : Reg) (x : Reg8) | vminFp (t : VType) (d a b : Reg) (x : Reg8)
  | vmaxFp (t : VType) (d a b : Reg) (x : Reg8) | vabsFp (t : VType) (d a : Reg) (x : Reg8)
  | vneg (t : VType) (d a : Reg) (x : Reg8) | vcpysgn (t : VType) (d a b : Reg) (x : Reg8)
  | vfma (t : VType) (d a b : Reg) (x : Reg8) | vfms (t : VType) (d a b : Reg) (x : Reg8)
  | vfnma (t : VType) (d a b : Reg) (x : Reg8) | vfnms (t : VType) (d a b : Reg) (x : Reg8)
  -- vector integer (R131)
  | vaddInt (t : VType) (d a b : Reg) (x : Reg8) | vsubInt (t : VType) (d a b : Reg) (x : Reg8)
  | vmulInt (t : VType) (d a b : Reg) (x : Reg8) | vmulh (t : VType) (d a b : Reg) (x : Reg8)
  | vminInt (t : VType) (d a b : Reg) (x : Reg8) | vmaxInt (t : VType) (d a b : Reg) (x : Reg8)
  | vand (t : VType) (d a b : Reg) (x : Reg8) | vor (t : VType) (d a b : Reg) (x : Reg8)
  | vxor (t : VType) (d a b : Reg) (x : Reg8) | vshl (t : VType) (d a b : Reg) (x : Reg8)
  | vshr (t : VType) (d a b : Reg) (x : Reg8) | vsra (t : VType) (d a b : Reg) (x : Reg8)
  | vabsInt (t : VType) (d a : Reg) (x : Reg8)
  -- compares (R132)
  | veq (t : VType) (md : Reg8) (a b : Reg) (x : Reg8) | vne (t : VType) (md : Reg8) (a b : Reg) (x : Reg8)
  | vlt (t : VType) (md : Reg8) (a b : Reg) (x : Reg8) | vle (t : VType) (md : Reg8) (a b : Reg) (x : Reg8)
  | vunord (t : VType) (md : Reg8) (a b : Reg) (x : Reg8)
  -- permutes (R134)
  | vsel (t : VType) (d a b : Reg) (x : Reg8) | vswp (t : VType) (d a : Reg) (x : Reg8)
  | vperm (t : VType) (d a b : Reg) (x : Reg8) | vslup (t : VType) (d a b : Reg) (x : Reg8)
  | vsldn (t : VType) (d a b : Reg) (x : Reg8) | vzipl (t : VType) (d a b : Reg) (x : Reg8)
  | vziph (t : VType) (d a b : Reg) (x : Reg8) | vuzpe (t : VType) (d a b : Reg) (x : Reg8)
  | vuzpo (t : VType) (d a b : Reg) (x : Reg8) | vbcast (t : VType) (d a b : Reg) (x : Reg8)
  -- reductions (R90-R92, R136)
  | vrsum (t : VType) (d a : Reg) (x : Reg8) | vrmax (t : VType) (d a : Reg) (x : Reg8)
  | vrmin (t : VType) (d a : Reg) (x : Reg8) | vrsumi (t : VType) (d a : Reg) (x : Reg8)
  -- conversions (R137, R138)
  | vcvt (dt st : VType) (d a : Reg) (x : Reg8) | vcvtSat (dt st : VType) (d a : Reg) (x : Reg8)
  | vcvtRtz (dt st : VType) (d a : Reg) (x : Reg8)
  -- special functions (R143-R151)
  | vrsq (d a : Reg) (x : Reg8) | vrcp (d a : Reg) (x : Reg8) | vredh (d a : Reg) (x : Reg8)
  | vquad (d a : Reg) (x : Reg8) | vsin (d a : Reg) (x : Reg8) | vcos (d a : Reg) (x : Reg8)
  | vexp2 (d a : Reg) (x : Reg8) | vlog2 (d a : Reg) (x : Reg8) | vsqrt (d a : Reg) (x : Reg8)
  -- vector memory (R139-R142)
  | vldL (d a : Reg) (imm : BitVec 11) | vldG (rx acq : Bool) (d a : Reg) (imm : BitVec 11)
  | vstL (d a : Reg) (imm : BitVec 11) | vstG (rx rel : Bool) (d a : Reg) (imm : BitVec 11)
  | vgathW (d a b : Reg) (x : Reg8) | vscatW (d a b : Reg) (x : Reg8)
  | vgathH (d a b : Reg) (x : Reg8) | vscatH (d a b : Reg) (x : Reg8)
  | vgathB (d a b : Reg) (x : Reg8) | vscatB (d a b : Reg) (x : Reg8)
  -- masks (R133)
  | mand (d a b : Reg8) | mor (d a b : Reg8) | mxor (d a b : Reg8) | mnot (d a : Reg8)
  | mpopc (d : Reg) (a : Reg8) | mfirst (d : Reg) (a : Reg8) | mset (d : Reg8) (a : Reg)
  | mget (d : Reg) (a : Reg8)
  -- vector immediate and move (R135)
  | vldi (t : VType) (d : Reg) (imm : BitVec 10) (x : Reg8) | vmovg (t : VType) (d a : Reg) (x : Reg8)
  | vext (t : VType) (d a b : Reg) | vins (t : VType) (d a b : Reg)
  -- matrix (R44, R205-R211)
  | mma (c : AccNo) (a : Reg) (fa fb : MatSel) (l : Fin 2) (fw hd z : Bool)
  | mms (c : AccNo) (a : Reg) (fa fb : MatSel) (l : Fin 2) (fw hd z : Bool)
  | mlb (a : Reg) (l : Fin 2) | mlarm (l : Fin 2) (fw : Bool) | mlfree (l : Fin 2)
  | mrow (c : AccNo) (v : Reg) (row : Fin 32) (half : Bool)
  | mwrow (c : AccNo) (v : Reg) (row : Fin 32) (half : Bool)
  | mst (c : AccNo) (a : Reg) (f : StFmt) | mzero (c : AccNo)
  | mwait | mhdr (d : Reg) (l : Fin 2) | mtag (c : AccNo) (a : Reg)
  -- streams (R164-R190)
  | sbind (vec : Bool) (k : Fin 8) | sfree (vec : Bool) (k : Fin 8)
  | speek (d : Reg) (k : Fin 8) | scnt (d : Reg) (k : Fin 8)
  | sinj (a b : Reg) | side (a b : Reg) | sclr (a : Reg)
  | sresume | sresumeSkip | sstat (d : Reg)
  -- stage barriers (R171)
  | sbinit (a : Reg) (n : Fin 32) | sbexp (a : Reg) (n : Fin 32)
  | sbarr (n : Fin 32) | sbwait (a : Reg) (n : Fin 32)
  -- engine kick (R289, R290)
  | ekick (a : Reg) | embox (d : Reg) | ewait
  -- csr and trap (R118, R361, R362)
  | csrr (d : Reg) (c : Fin 4096) | csrw (d a : Reg) (c : Fin 4096)
  | csrs (d a : Reg) (c : Fin 4096) | csrc (d a : Reg) (c : Fin 4096)
  | trap (code : Fin 4096) | eret
  -- engine-only (R297)
  | emove (d a : Reg) | estrd (d a : Reg) | egath (d a : Reg) | escat (d a : Reg)
  | estream (d a : Reg) | edrain (d a : Reg) | ered (d a : Reg) | esamp (d a : Reg) | esort (d a : Reg)
  -- switch words (R54, R178)
  | sroute (estop : Bool) (count : Fin 4096) (r : Route)
  | srtw (k : Fin 8) | sjump (t : Fin 2048)
  | sloop (c : Fin 2) (n : Fin 4096) | sbnz (c : Fin 2) (t : Fin 2048)
  | sxor (estop : Bool) (count : Fin 4096) (a b : Src) (r : Route)
  | sdec (estop : Bool) (count : Fin 4096) (a : Src) (r : Route)
  | ssig (k : Fin 8) | sskip (estop : Bool) (count : Fin 4096) (a : Src)
  | shalt | snop (count : Fin 4096)
  -- events that the machine itself brings about
  | matrixInstructionBegin (t : TileNo)
  | matrixInstructionEnd (t : TileNo)
  | asyncTrapDelivery (t : TileNo) (k : Fin 8)
  | yieldExpiry (t : TileNo) (k : Fin 8)
  | dividerFree (t : TileNo)
  | overrun (lnum rank : Nat)
  | overrunDeadline (lnum rank : Nat)
  | accessComplete (h : HartId) (choice : Nat)
  | translationWalk (h : HartId)
  | faultRecordWrite (d : DieNo)
  | watchPendingPush (c : DieNo) (n : Fin 16)
  | engineJobStart (t : TileNo)
  | engineJobEnd (t : TileNo)
  | collectiveComplete (lnum coll : Nat)
  | sorusRequestStart (d : DieNo)
  | sorusRequestEnd (d : DieNo)
  | slotLoadEnd (i : Fin 32)
  | groupPlace (standing : Option (Fin 32)) (choice : Nat)
  | groupStart (lnum rank : Nat)
  | groupFinish (lnum rank : Nat)
  | quantumExpiry (lnum rank : Nat)
  | freeze (lnum rank : Nat)
  | restore (lnum rank : Nat)
  | seamCreditReturn (c : DieNo) (q : Fin 4) (l : Fin 12)
  | ringPost (p : Fin 32) (r : Fin 16) (v : W64)
  | retransmitTimeout (p : Fin 32) (peer : Fin 16)
  | clusterCommandEnd (d : DieNo) (k : Fin 4)
  | railTimeout (d : DieNo) (k : Fin 4)
  | illegalInstruction (w : W32)
  | illegalSwitchWord (w : W64)
  | hostRead (m : Fin 4) (pa n : Nat)
  | hostWrite (m : Fin 4) (pa : Nat) (data : List Byte)
  | attestationRequest (nonce : List Byte) (hpa : Nat)
  | queueInboxWrite (t : TileNo) (k : Fin 8) (h e : Bool) (data : W256)
  | kick (t : TileNo) (w : W64)
  | accumulatorWindowAccess (t : TileNo) (off n : Nat) (wr : Option V512)
  | barrierWindowArrive (t : TileNo) (n : Fin 32)
  | barrierWindowDeliver (t : TileNo) (n : Fin 32) (v : W64)
  | clusterRestore (d : DieNo) (k : Fin 4) (aw : Bool)
  | ungate (d : DieNo) (k : Fin 4) (aw : Bool)
  -- events that the host, other devices, firmware or the environment bring about, or that a rule names as one step
  | fqreply (d : DieNo) (v : W64)
  | fqheadWrite (d : DieNo) (v : W64)
  | watchEnableWrite (c : DieNo) (n : Fin 16) (v : W64)
  | launchRecordRead
  | doorbell (q : Fin 64) (v : W64)
  | qcfgWrite (q : Fin 64) (v : W64)
  | dctlWrite (v : W64)
  | cancel (v : W64)
  | timelineCounterWrite (n : Fin 4096) (v : W64)
  | timelineCounterIncrement (n : Fin 4096) (v : W64)
  | launchActivate
  | slotLoad (i : Fin 32)
  | slotUnload (i : Fin 32)
  | seamSelectorWrite (c : DieNo) (q : Fin 4) (l : Fin 12) (v : W64)
  | seamCrcResend (c : DieNo) (q : Fin 4) (l : Fin 12)
  | seamLaneFail (c : DieNo) (q : Fin 4) (l : Fin 12)
  | dynamicLinkFail
  | uncorrectableError (site : ErrSite)
  | irqenWrite (v : W64)
  | irqcauseClear (v : W64)
  | dataFrameReceive (p : Fin 32) (peer : Fin 16) (bytes : List Byte)
  | ackFrameReceive (p : Fin 32) (peer : Fin 16) (bytes padding : List Byte)
  | peerReset (p : Fin 32) (peer : Fin 16) (v : W64)
  | fcsError (p : Fin 32)
  | pbudgetWrite (v : W64)
  | allowanceRecompute
  | coolantLimit (inletMilliC flowMlPerMin : Nat)
  | thermalTrip (milliC : Nat)
  | quiesce (d : DieNo) (k : Fin 4) (aw : Bool)
  | save (d : DieNo) (k : Fin 4) (aw : Bool)
  | gate (d : DieNo) (k : Fin 4) (aw : Bool)
  | autowakeSet (d : DieNo) (k : Fin 4) (aw : Bool)
  | clctlInvalidCommand (d : DieNo) (k : Fin 4)
  | clsaveWrite (d : DieNo) (k : Fin 4) (v : W64)
  | clwake (d : DieNo) (k : Fin 4) (v : W64)
  | powerOnBoot
  | recoveryImageLoad (img : BootImage)
  | mrExtend (i : Fin 8) (digest : List Byte)
  | keyRegenerate (n : Fin 128)
  | panelReset
  | smbusStatusRead
  | jtagInstruction (op : JtagOp)
  | debugHalt (d : DieNo)
  | debugResume (d : DieNo)
  | debugEnableWrite (d : DieNo) (v : W64)
  | dbgresume (d : DieNo) (v : W64)
  | errorCounterClear (site : CounterSite)
  | registerWrite (pa : Nat) (v : W64)
  | revocation (ctx : Fin 256) (va : W64) (leafPa : Nat) (leaf : W64)
  | ethernetLinkChange (p : Fin 32) (up : Bool)
  | ucieModuleLinkChange (m : Fin 4) (up : Bool)
  -- core words without operand fields: control (R121, R29) and fences (R41, R252)
  | nop | retire | yield | brk
  | fenceT | fenceD | fenceM | fenceP | fenceS
deriving DecidableEq, Repr

end Sys2Proof
end

