-- ==== Sys2Proof/WellFormed.lean ====
section
/-! DEFINITION. What a term of `Instr` must meet beyond its types to be an instruction that some word
encodes: the limits of R38, R39, R40, R42, R43, R45 and R54. -/
namespace Sys2Proof

/-- Types admitted by the floating ops of R42: codes 0-2, and 3 (b8) subject to FMT8 (R17, R126). -/
def VType.isFpOp : VType → Bool
  | .f32 | .bf16 | .f16 | .b8 => true
  | _ => false

/-- Types admitted by the integer ops of R42: codes 4-B, and 3 (b8) subject to FMT8. -/
def VType.isIntOp : VType → Bool
  | .f32 | .bf16 | .f16 => false
  | _ => true

/-- A source an sxor, sdec or sskip may name: codes 1-8 and 10 (R54). -/
def Src.isPort : Src → Bool
  | .none | .x => false
  | _ => true

/-- The outputs of a route with their sources. -/
def Route.list (r : Route) : List Src := [r.n, r.e, r.s, r.w, r.c0, r.c1, r.c2, r.l]

/-- A route names at least one output (R54). -/
def Route.nonempty (r : Route) : Bool := r.list.any (· != .none)

/-- A route names the coder output X somewhere (R54). -/
def Route.usesX (r : Route) : Bool := r.list.any (· == .x)

/-- Operand selectors of 16-bit elements (R45). -/
def MatSel.is16 : MatSel → Bool
  | .bf16 | .f16 => true
  | _ => false

/-- The selector limits of mma and mms (R45): both 16-bit or both 8-bit, and both 0 in header mode. -/
def matSelsOk (fa fb : MatSel) (hd : Bool) : Bool :=
  (fa.is16 == fb.is16) && (!hd || (fa == .bf16 && fb == .bf16))

/-- The instruction is one that R31-R54 allow; an event always is. -/
def Instr.wf : Instr → Bool
  | .loop _ _ body => body.val != 0
  | .loopi _ _ body => body.val != 0
  | .ldl z sx _ _ _ => !(z == .d && sx)
  | .amo op dbl _ _ _ _ _ => !(op == .fadd && dbl)
  | .vaddFp t _ _ _ _ | .vsubFp t _ _ _ _ | .vmulFp t _ _ _ _ | .vminFp t _ _ _ _
  | .vmaxFp t _ _ _ _ | .vcpysgn t _ _ _ _ | .vfma t _ _ _ _ | .vfms t _ _ _ _
  | .vfnma t _ _ _ _ | .vfnms t _ _ _ _ | .vunord t _ _ _ _ => t.isFpOp
  | .vabsFp t _ _ _ | .vneg t _ _ _ | .vrsum t _ _ _ => t.isFpOp
  | .vaddInt t _ _ _ _ | .vsubInt t _ _ _ _ | .vmulInt t _ _ _ _ | .vmulh t _ _ _ _
  | .vminInt t _ _ _ _ | .vmaxInt t _ _ _ _ | .vand t _ _ _ _ | .vor t _ _ _ _
  | .vxor t _ _ _ _ | .vshl t _ _ _ _ | .vshr t _ _ _ _ | .vsra t _ _ _ _ => t.isIntOp
  | .vabsInt t _ _ _ | .vrsumi t _ _ _ => t.isIntOp
  | .vldi t _ _ _ => t.isIntOp
  | .mma _ _ fa fb _ _ hd _ | .mms _ _ fa fb _ _ hd _ => matSelsOk fa fb hd
  | .sroute _ _ r => r.nonempty && !r.usesX
  | .sxor _ _ p q r => r.nonempty && p.isPort && q.isPort && p != q
  | .sdec _ _ p r => r.nonempty && p.isPort
  | .sskip _ _ p => p.isPort
  | _ => true

end Sys2Proof
end

