-- ==== Sys2Proof/Decode.lean ====
section
/-! DEFINITION. Decoding of core words (R31-R51) and switch words (R52-R55), total, rejecting by name, and the
encoder of well-formed instructions, both from the encoding tables of spec 02. Words are natural numbers: bit 0
is the least significant bit of the word as it stands in memory, little-endian (R4, R12, R52). -/
namespace Sys2Proof

/-- Why a word is rejected (R49, R55). -/
inductive DecodeError
  /-- The major opcode (or the switch op) is unassigned. -/
  | unassigned
  /-- A func, op, condition, size, space, ordering, type or format value is not admitted. -/
  | badOp
  /-- A field reserved for the instruction is nonzero. -/
  | reserved
  /-- A register or immediate field is beyond its limit. -/
  | limit
  /-- Fewer bytes than one word. -/
  | short
deriving DecidableEq, Repr

/-- The type code of R68. -/
def VType.code : VType → Nat
  | .f32 => 0 | .bf16 => 1 | .f16 => 2 | .b8 => 3 | .i8 => 4 | .n8 => 5
  | .i16 => 6 | .n16 => 7 | .i32 => 8 | .n32 => 9 | .i64 => 10 | .n64 => 11

/-- The type of a code; codes C-F are illegal (R68). -/
def VType.ofCode (c : Nat) : Option VType :=
  match c with
  | 0 => some .f32 | 1 => some .bf16 | 2 => some .f16 | 3 => some .b8 | 4 => some .i8 | 5 => some .n8
  | 6 => some .i16 | 7 => some .n16 | 8 => some .i32 | 9 => some .n32 | 10 => some .i64 | 11 => some .n64
  | _ => none

/-- The size code of R39. -/
def Size.code : Size → Nat
  | .b => 0 | .h => 1 | .w => 2 | .d => 3

/-- The size of a two-bit code (R39). -/
def Size.ofCode (c : Nat) : Size :=
  match c % 4 with
  | 0 => .b | 1 => .h | 2 => .w | _ => .d

/-- The condition code of R38. -/
def Cond.code : Cond → Nat
  | .eq => 0 | .ne => 1 | .lt => 2 | .ge => 3 | .ltN => 4 | .geN => 5

/-- The condition of a code; 110 and 111 are illegal (R38). -/
def Cond.ofCode (c : Nat) : Option Cond :=
  match c with
  | 0 => some .eq | 1 => some .ne | 2 => some .lt | 3 => some .ge | 4 => some .ltN | 5 => some .geN
  | _ => none

/-- The shift kind code of R38. -/
def ShiftKind.code : ShiftKind → Nat
  | .shl => 0 | .shr => 1 | .sra => 2 | .rot => 3

/-- The shift kind of a two-bit code (R38). -/
def ShiftKind.ofCode (c : Nat) : ShiftKind :=
  match c % 4 with
  | 0 => .shl | 1 => .shr | 2 => .sra | _ => .rot

/-- The atomic operation code f[4:0] of R40. -/
def AmoOp.code : AmoOp → Nat
  | .add => 0 | .min => 1 | .max => 2 | .minN => 3 | .maxN => 4 | .and => 5 | .or => 6 | .xor => 7
  | .swap => 8 | .cas => 9 | .fadd => 10

/-- The atomic operation of a code; 11-31 are illegal (R40). -/
def AmoOp.ofCode (c : Nat) : Option AmoOp :=
  match c with
  | 0 => some .add | 1 => some .min | 2 => some .max | 3 => some .minN | 4 => some .maxN | 5 => some .and
  | 6 => some .or | 7 => some .xor | 8 => some .swap | 9 => some .cas | 10 => some .fadd
  | _ => none

/-- The ordering code f[6:5] of R40. -/
def Order.code : Order → Nat
  | .plain => 0 | .acq => 1 | .rel => 2 | .ar => 3

/-- The ordering of a two-bit code (R40). -/
def Order.ofCode (c : Nat) : Order :=
  match c % 4 with
  | 0 => .plain | 1 => .acq | 2 => .rel | _ => .ar

/-- The operand selector code of R45. -/
def MatSel.code : MatSel → Nat
  | .bf16 => 0 | .f16 => 1 | .b8 => 2 | .i8 => 3 | .n8 => 4

/-- The operand selector of a code (R45). -/
def MatSel.ofCode (c : Nat) : Option MatSel :=
  match c with
  | 0 => some .bf16 | 1 => some .f16 | 2 => some .b8 | 3 => some .i8 | 4 => some .n8
  | _ => none

/-- The store format code of R45. -/
def StFmt.code : StFmt → Nat
  | .f32 => 0 | .bf16 => 1 | .f16 => 2

/-- The store format of a code (R45). -/
def StFmt.ofCode (c : Nat) : Option StFmt :=
  match c with
  | 0 => some .f32 | 1 => some .bf16 | 2 => some .f16
  | _ => none

/-- The source selector code of R53. -/
def Src.code : Src → Nat
  | .none => 0 | .n => 1 | .e => 2 | .s => 3 | .w => 4 | .d0 => 5 | .d1 => 6 | .d2 => 7 | .d3 => 8
  | .x => 9 | .f => 10

/-- The source of a selector; 11-15 are illegal (R53). -/
def Src.ofCode (c : Nat) : Option Src :=
  match c with
  | 0 => some .none | 1 => some .n | 2 => some .e | 3 => some .s | 4 => some .w | 5 => some .d0
  | 6 => some .d1 | 7 => some .d2 | 8 => some .d3 | 9 => some .x | 10 => some .f
  | _ => none

/-- A 5-bit register field at bit `lo`. -/
def regAt (w lo : Nat) : Reg := ⟨w / 2 ^ lo % 32, Nat.mod_lt _ (by decide)⟩
/-- A 3-bit register field at bit `lo`. -/
def reg8At (w lo : Nat) : Reg8 := ⟨w / 2 ^ lo % 8, Nat.mod_lt _ (by decide)⟩
/-- A field of `n` bits at bit `lo` as a bit vector. -/
def fieldAt (w lo n : Nat) : BitVec n := BitVec.ofNat n (w / 2 ^ lo)

/-- The binary ops of major 0x01 by f (R37). -/
def aluBinary (f : Nat) : Option (Reg → Reg → Reg → Instr) :=
  match f with
  | 0x00 => some .add
  | 0x01 => some .sub
  | 0x02 => some .and
  | 0x03 => some .or
  | 0x04 => some .xor
  | 0x05 => some .andn
  | 0x06 => some .shl
  | 0x07 => some .shr
  | 0x08 => some .sra
  | 0x09 => some .rot
  | 0x0A => some .min
  | 0x0B => some .max
  | 0x0C => some .minN
  | 0x0D => some .maxN
  | 0x0E => some .addw
  | 0x0F => some .subw
  | 0x19 => some .bfx
  | 0x1A => some .bfi
  | 0x1B => some .sel
  | 0x20 => some .mul
  | 0x21 => some .mulh
  | 0x22 => some .mulhN
  | 0x23 => some .div
  | 0x24 => some .divN
  | 0x25 => some .rem
  | 0x26 => some .remN
  | 0x28 => some .seq
  | 0x29 => some .sne
  | 0x2A => some .slt
  | 0x2B => some .sltN
  | 0x2C => some .sle
  | 0x2D => some .sleN
  | _ => none

/-- The unary ops of major 0x01 by f (R37). -/
def aluUnary (f : Nat) : Option (Reg → Reg → Instr) :=
  match f with
  | 0x10 => some .clz
  | 0x11 => some .ctz
  | 0x12 => some .popc
  | 0x13 => some .sextB
  | 0x14 => some .sextH
  | 0x15 => some .sextW
  | 0x16 => some .zextB
  | 0x17 => some .zextH
  | 0x18 => some .zextW
  | _ => none

/-- The two-source ops of major 0x20 by f[3:0] (R42). -/
def vec20Binary (f : Nat) : Option (VType → Reg → Reg → Reg → Reg8 → Instr) :=
  match f with
  | 0x00 => some .vaddFp
  | 0x01 => some .vsubFp
  | 0x02 => some .vmulFp
  | 0x03 => some .vminFp
  | 0x04 => some .vmaxFp
  | 0x07 => some .vcpysgn
  | _ => none

/-- The two-source ops of major 0x21 by f[3:0] (R42). -/
def vec21Binary (f : Nat) : Option (VType → Reg → Reg → Reg → Reg8 → Instr) :=
  match f with
  | 0x00 => some .vfma
  | 0x01 => some .vfms
  | 0x02 => some .vfnma
  | 0x03 => some .vfnms
  | _ => none

/-- The two-source ops of major 0x22 by f[3:0] (R42). -/
def vec22Binary (f : Nat) : Option (VType → Reg → Reg → Reg → Reg8 → Instr) :=
  match f with
  | 0x00 => some .vaddInt
  | 0x01 => some .vsubInt
  | 0x02 => some .vmulInt
  | 0x03 => some .vmulh
  | 0x04 => some .vminInt
  | 0x05 => some .vmaxInt
  | 0x06 => some .vand
  | 0x07 => some .vor
  | 0x08 => some .vxor
  | 0x09 => some .vshl
  | 0x0A => some .vshr
  | 0x0B => some .vsra
  | _ => none

/-- The two-source ops of major 0x24 by f[3:0] (R42). -/
def vec24Binary (f : Nat) : Option (VType → Reg → Reg → Reg → Reg8 → Instr) :=
  match f with
  | 0x00 => some .vsel
  | 0x02 => some .vperm
  | 0x03 => some .vslup
  | 0x04 => some .vsldn
  | 0x05 => some .vzipl
  | 0x06 => some .vziph
  | 0x07 => some .vuzpe
  | 0x08 => some .vuzpo
  | 0x09 => some .vbcast
  | _ => none

/-- The one-source ops of major 0x20 by f[3:0] (R42). -/
def vec20Unary (f : Nat) : Option (VType → Reg → Reg → Reg8 → Instr) :=
  match f with
  | 0x05 => some .vabsFp
  | 0x06 => some .vneg
  | _ => none

/-- The one-source ops of major 0x22 by f[3:0] (R42). -/
def vec22Unary (f : Nat) : Option (VType → Reg → Reg → Reg8 → Instr) :=
  match f with
  | 0x0C => some .vabsInt
  | _ => none

/-- The one-source ops of major 0x24 by f[3:0] (R42). -/
def vec24Unary (f : Nat) : Option (VType → Reg → Reg → Reg8 → Instr) :=
  match f with
  | 0x01 => some .vswp
  | _ => none

/-- The one-source ops of major 0x25 by f[3:0] (R42). -/
def vec25Unary (f : Nat) : Option (VType → Reg → Reg → Reg8 → Instr) :=
  match f with
  | 0x00 => some .vrsum
  | 0x01 => some .vrmax
  | 0x02 => some .vrmin
  | 0x03 => some .vrsumi
  | _ => none

/-- The compares of major 0x23 by f[3:0] (R42). -/
def vecCompare (f : Nat) : Option (VType → Reg8 → Reg → Reg → Reg8 → Instr) :=
  match f with
  | 0x00 => some .veq
  | 0x01 => some .vne
  | 0x02 => some .vlt
  | 0x03 => some .vle
  | 0x04 => some .vunord
  | _ => none

/-- The conversions of major 0x26 by f[3:0] (R42). -/
def vecConvert (f : Nat) : Option (VType → VType → Reg → Reg → Reg8 → Instr) :=
  match f with
  | 0x00 => some .vcvt
  | 0x01 => some .vcvtSat
  | 0x02 => some .vcvtRtz
  | _ => none

/-- The special functions of major 0x27 by f[3:0] (R42). -/
def vecSpecial (f : Nat) : Option (Reg → Reg → Reg8 → Instr) :=
  match f with
  | 0x00 => some .vrsq
  | 0x01 => some .vrcp
  | 0x02 => some .vredh
  | 0x03 => some .vquad
  | 0x04 => some .vsin
  | 0x05 => some .vcos
  | 0x06 => some .vexp2
  | 0x07 => some .vlog2
  | 0x08 => some .vsqrt
  | _ => none

/-- The gathers and scatters of major 0x2A by f[3:0] (R43). -/
def gatherScatter (f : Nat) : Option (Reg → Reg → Reg → Reg8 → Instr) :=
  match f with
  | 0x00 => some .vgathW
  | 0x01 => some .vscatW
  | 0x02 => some .vgathH
  | 0x03 => some .vscatH
  | 0x04 => some .vgathB
  | 0x05 => some .vscatB
  | _ => none

/-- The engine-only instructions of major 0x3E by f (R48, R297). -/
def engineOnly (f : Nat) : Option (Reg → Reg → Instr) :=
  match f with
  | 0x00 => some .emove
  | 0x01 => some .estrd
  | 0x02 => some .egath
  | 0x03 => some .escat
  | 0x04 => some .estream
  | 0x05 => some .edrain
  | 0x06 => some .ered
  | 0x07 => some .esamp
  | 0x08 => some .esort
  | _ => none

/-- Reject with `e` unless `c` holds. -/
def need (c : Bool) (e : DecodeError) (k : Except DecodeError Instr) : Except DecodeError Instr :=
  if c then k else .error e

/-- Reject an absent table entry as a bad op. -/
def orBad {α : Type} (o : Option α) (k : α → Except DecodeError Instr) : Except DecodeError Instr :=
  match o with
  | some a => k a
  | none => .error .badOp

/-- Major 0x01 (R37). -/
def decodeAlu (w : Nat) : Except DecodeError Instr :=
  need (bits w 8 3 == 0) .reserved <|
  match aluBinary (bits w 0 8) with
  | some c => .ok (c (regAt w 21) (regAt w 16) (regAt w 11))
  | none =>
    orBad (aluUnary (bits w 0 8)) fun c =>
    need (bits w 11 5 == 0) .reserved <| .ok (c (regAt w 21) (regAt w 16))

/-- Major 0x06, shi (R38). -/
def decodeShi (w : Nat) : Except DecodeError Instr :=
  need (bits w 10 6 == 0 && bits w 6 2 == 0) .reserved <|
  .ok (.shi (.ofCode (bits w 8 2)) (regAt w 21) (regAt w 16) ⟨w % 64, Nat.mod_lt _ (by decide)⟩)

/-- Major 0x17, ctl (R38, R29). -/
def decodeCtl (w : Nat) : Except DecodeError Instr :=
  need (bits w 8 18 == 0) .reserved <|
  match bits w 0 8 with
  | 0 => .ok .nop
  | 1 => .ok .retire
  | 2 => .ok .yield
  | 3 => .ok .brk
  | _ => .error .badOp

/-- Majors 0x18-0x1B (R39). -/
def decodeMem (major w : Nat) : Except DecodeError Instr :=
  let z := Size.ofCode (bits w 14 2)
  let f13 := bit w 13
  let d := regAt w 21
  let a := regAt w 16
  let imm := fieldAt w 0 11
  match major with
  | 0x18 => need (bits w 11 2 == 0) .badOp <| need (!(z == .d && f13)) .badOp <| .ok (.ldl z f13 d a imm)
  | 0x19 => need (bits w 11 2 == 0) .badOp <| need (!f13) .badOp <| .ok (.stl z d a imm)
  | 0x1A => need (!bit w 12) .badOp <| .ok (.ld z f13 (bit w 11) d a imm)
  | _ => need (!bit w 11) .badOp <| .ok (.st z f13 (bit w 12) d a imm)

/-- Major 0x1C, handle forms (R39). -/
def decodeHandle (w : Nat) : Except DecodeError Instr :=
  let z := Size.ofCode (bits w 11 2)
  if bit w 7 then
    need (!bit w 8) .badOp <|
    .ok (.sth z (bit w 10) (bit w 9) (regAt w 21) (reg8At w 18) (regAt w 13) (fieldAt w 0 7))
  else
    need (!bit w 9) .badOp <|
    .ok (.ldh z (bit w 10) (bit w 8) (regAt w 21) (reg8At w 18) (regAt w 13) (fieldAt w 0 7))

/-- Major 0x1D, amo (R40). -/
def decodeAmo (w : Nat) : Except DecodeError Instr :=
  need (bits w 9 2 == 0) .reserved <|
  orBad (AmoOp.ofCode (bits w 0 5)) fun op =>
  need (!(op == .fadd && bit w 8)) .badOp <|
  .ok (.amo op (bit w 8) (bit w 7) (.ofCode (bits w 5 2)) (regAt w 21) (regAt w 16) (regAt w 11))

/-- Major 0x1E, sync (R41). -/
def decodeSync (w : Nat) : Except DecodeError Instr :=
  match bits w 0 8 with
  | 0 => need (bits w 8 18 == 0) .reserved <| .ok .fenceT
  | 1 => need (bits w 8 18 == 0) .reserved <| .ok .fenceD
  | 2 => need (bits w 8 18 == 0) .reserved <| .ok .fenceM
  | 3 => need (bits w 8 18 == 0) .reserved <| .ok .fenceP
  | 4 => need (bits w 8 18 == 0) .reserved <| .ok .fenceS
  | 5 =>
    need (bits w 8 3 == 0) .reserved <| need (bits w 24 2 == 0) .limit <|
    .ok (.xlat (reg8At w 21) (regAt w 16) (regAt w 11))
  | 6 => need (bits w 8 13 == 0) .reserved <| need (bits w 24 2 == 0) .limit <| .ok (.xrel (reg8At w 21))
  | _ => .error .badOp

/-- Vector ops with two sources (R42): the type must be admitted by `ok`. -/
def decodeVBin (tbl : Nat → Option (VType → Reg → Reg → Reg → Reg8 → Instr)) (ok : VType → Bool) (w : Nat)
    (other : Except DecodeError Instr) : Except DecodeError Instr :=
  match tbl (bits w 0 4) with
  | some c =>
    orBad (VType.ofCode (bits w 4 4)) fun t =>
    need (ok t) .badOp <| .ok (c t (regAt w 21) (regAt w 16) (regAt w 11) (reg8At w 8))
  | none => other

/-- Vector ops with one source, b zero (R42). -/
def decodeVUn (tbl : Nat → Option (VType → Reg → Reg → Reg8 → Instr)) (ok : VType → Bool) (w : Nat) :
    Except DecodeError Instr :=
  orBad (tbl (bits w 0 4)) fun c =>
  orBad (VType.ofCode (bits w 4 4)) fun t =>
  need (ok t) .badOp <| need (bits w 11 5 == 0) .reserved <|
  .ok (c t (regAt w 21) (regAt w 16) (reg8At w 8))

/-- Major 0x23, compares (R42): the mask stands in d[23:21]. -/
def decodeCompare (w : Nat) : Except DecodeError Instr :=
  orBad (vecCompare (bits w 0 4)) fun c =>
  orBad (VType.ofCode (bits w 4 4)) fun t =>
  need (bits w 0 4 != 4 || t.isFpOp) .badOp <| need (bits w 24 2 == 0) .limit <|
  .ok (c t (reg8At w 21) (regAt w 16) (regAt w 11) (reg8At w 8))

/-- Major 0x25, reductions (R42): vrsum floating, vrsumi integer, vrmax and vrmin both. -/
def decodeReduce (w : Nat) : Except DecodeError Instr :=
  decodeVUn vec25Unary
    (fun t => if bits w 0 4 == 0 then t.isFpOp else if bits w 0 4 == 3 then t.isIntOp else true) w

/-- Major 0x26, conversions (R42). -/
def decodeConvert (w : Nat) : Except DecodeError Instr :=
  orBad (vecConvert (bits w 0 4)) fun c =>
  orBad (VType.ofCode (bits w 4 4)) fun dt =>
  orBad (VType.ofCode (bits w 11 4)) fun st =>
  need (!bit w 15) .reserved <| .ok (c dt st (regAt w 21) (regAt w 16) (reg8At w 8))

/-- Major 0x27, special functions (R42): type 0, b zero. -/
def decodeSpecial (w : Nat) : Except DecodeError Instr :=
  orBad (vecSpecial (bits w 0 4)) fun c =>
  need (bits w 4 4 == 0) .badOp <| need (bits w 11 5 == 0) .reserved <|
  .ok (c (regAt w 21) (regAt w 16) (reg8At w 8))

/-- Majors 0x28 and 0x29 (R39): sz is the space. -/
def decodeVMem (store : Bool) (w : Nat) : Except DecodeError Instr :=
  let d := regAt w 21
  let a := regAt w 16
  let imm := fieldAt w 0 11
  match bits w 14 2 with
  | 0 =>
    need (bits w 11 3 == 0) .badOp <| .ok (if store then .vstL d a imm else .vldL d a imm)
  | 1 =>
    if store then need (!bit w 11) .badOp <| .ok (.vstG (bit w 13) (bit w 12) d a imm)
    else need (!bit w 12) .badOp <| .ok (.vldG (bit w 13) (bit w 11) d a imm)
  | _ => .error .badOp

/-- Major 0x2A, gathers and scatters (R43). -/
def decodeGather (w : Nat) : Except DecodeError Instr :=
  orBad (gatherScatter (bits w 0 4)) fun c =>
  need (bits w 4 4 == 0) .reserved <| .ok (c (regAt w 21) (regAt w 16) (regAt w 11) (reg8At w 8))

/-- Major 0x2B, masks (R43). -/
def decodeMask (w : Nat) : Except DecodeError Instr :=
  need (bits w 4 4 == 0 && bits w 8 3 == 0) .reserved <|
  let md := bits w 24 2 == 0
  let ma := bits w 19 2 == 0
  let mb := bits w 14 2 == 0
  let b0 := bits w 11 5 == 0
  match bits w 0 4 with
  | 0 => need (md && ma && mb) .limit <| .ok (.mand (reg8At w 21) (reg8At w 16) (reg8At w 11))
  | 1 => need (md && ma && mb) .limit <| .ok (.mor (reg8At w 21) (reg8At w 16) (reg8At w 11))
  | 2 => need (md && ma && mb) .limit <| .ok (.mxor (reg8At w 21) (reg8At w 16) (reg8At w 11))
  | 3 => need (md && ma) .limit <| need b0 .reserved <| .ok (.mnot (reg8At w 21) (reg8At w 16))
  | 4 => need ma .limit <| need b0 .reserved <| .ok (.mpopc (regAt w 21) (reg8At w 16))
  | 5 => need ma .limit <| need b0 .reserved <| .ok (.mfirst (regAt w 21) (reg8At w 16))
  | 6 => need md .limit <| need b0 .reserved <| .ok (.mset (reg8At w 21) (regAt w 16))
  | 7 => need ma .limit <| need b0 .reserved <| .ok (.mget (regAt w 21) (reg8At w 16))
  | _ => .error .badOp

/-- Major 0x2C, vector immediate and move (R43). -/
def decodeVMove (w : Nat) : Except DecodeError Instr :=
  match bits w 0 4 with
  | 0 =>
    orBad (VType.ofCode (bits w 4 4)) fun t => need t.isIntOp .badOp <|
    .ok (.vldi t (regAt w 21) (fieldAt w 11 10) (reg8At w 8))
  | 1 =>
    orBad (VType.ofCode (bits w 4 4)) fun t => need (bits w 11 5 == 0) .reserved <|
    .ok (.vmovg t (regAt w 21) (regAt w 16) (reg8At w 8))
  | 2 =>
    orBad (VType.ofCode (bits w 4 4)) fun t => need (bits w 8 3 == 0) .reserved <|
    .ok (.vext t (regAt w 21) (regAt w 16) (regAt w 11))
  | 3 =>
    orBad (VType.ofCode (bits w 4 4)) fun t => need (bits w 8 3 == 0) .reserved <|
    .ok (.vins t (regAt w 21) (regAt w 16) (regAt w 11))
  | _ => .error .badOp

/-- A latch field (R31). -/
def latchAt (w : Nat) : Fin 2 := ⟨w / 2 ^ 8 % 2, Nat.mod_lt _ (by decide)⟩
/-- An accumulator field (R31). -/
def accAt (w : Nat) : AccNo := ⟨w / 2 ^ 22 % 16, Nat.mod_lt _ (by decide)⟩

/-- Major 0x30, mma and mms (R44, R45). -/
def decodeMma (w : Nat) : Except DecodeError Instr :=
  orBad (MatSel.ofCode (bits w 13 4)) fun fa =>
  orBad (MatSel.ofCode (bits w 9 4)) fun fb =>
  need (matSelsOk fa fb (bit w 6)) .badOp <|
  match bits w 0 5 with
  | 0 => .ok (.mma (accAt w) (regAt w 17) fa fb (latchAt w) (bit w 7) (bit w 6) (bit w 5))
  | 1 => .ok (.mms (accAt w) (regAt w 17) fa fb (latchAt w) (bit w 7) (bit w 6) (bit w 5))
  | _ => .error .badOp

/-- Major 0x31, latch instructions (R44). -/
def decodeLatch (w : Nat) : Except DecodeError Instr :=
  need (bits w 22 4 == 0 && bits w 9 8 == 0 && bits w 5 2 == 0) .reserved <|
  match bits w 0 5 with
  | 0 => need (!bit w 7) .reserved <| .ok (.mlb (regAt w 17) (latchAt w))
  | 1 => need (bits w 17 5 == 0) .reserved <| .ok (.mlarm (latchAt w) (bit w 7))
  | 2 => need (bits w 17 5 == 0 && !bit w 7) .reserved <| .ok (.mlfree (latchAt w))
  | _ => .error .badOp

/-- Major 0x32, accumulator moves (R44, R45). -/
def decodeAccMove (w : Nat) : Except DecodeError Instr :=
  match bits w 0 5 with
  | 0 => need (bits w 5 6 == 0) .reserved <| .ok (.mrow (accAt w) (regAt w 17) (regAt w 12) (bit w 11))
  | 1 => need (bits w 5 6 == 0) .reserved <| .ok (.mwrow (accAt w) (regAt w 17) (regAt w 12) (bit w 11))
  | 2 =>
    need (bits w 5 8 == 0) .reserved <|
    orBad (StFmt.ofCode (bits w 13 4)) fun f => .ok (.mst (accAt w) (regAt w 17) f)
  | 3 => need (bits w 5 17 == 0) .reserved <| .ok (.mzero (accAt w))
  | _ => .error .badOp

/-- Major 0x33, matrix control (R44). -/
def decodeMatCtl (w : Nat) : Except DecodeError Instr :=
  match bits w 0 5 with
  | 0 => need (bits w 5 21 == 0) .reserved <| .ok .mwait
  | 1 => need (bits w 22 4 == 0 && bits w 9 8 == 0 && bits w 5 3 == 0) .reserved <|
         .ok (.mhdr (regAt w 17) (latchAt w))
  | 2 => need (bits w 5 12 == 0) .reserved <| .ok (.mtag (accAt w) (regAt w 17))
  | _ => .error .badOp

/-- Major 0x38, streams (R46). -/
def decodeStream (w : Nat) : Except DecodeError Instr :=
  let k := reg8At w 8
  let d0 := bits w 21 5 == 0
  let a0 := bits w 16 5 == 0
  let b0 := bits w 11 5 == 0
  let x0 := bits w 8 3 == 0
  match bits w 0 8 with
  | 0 => need (d0 && a0) .reserved <| need (bits w 12 4 == 0) .limit <| .ok (.sbind (bit w 11) k)
  | 1 => need (d0 && a0) .reserved <| need (bits w 12 4 == 0) .limit <| .ok (.sfree (bit w 11) k)
  | 2 => need (a0 && b0) .reserved <| .ok (.speek (regAt w 21) k)
  | 3 => need (a0 && b0) .reserved <| .ok (.scnt (regAt w 21) k)
  | 4 => need (d0 && x0) .reserved <| .ok (.sinj (regAt w 16) (regAt w 11))
  | 5 => need (d0 && x0) .reserved <| .ok (.side (regAt w 16) (regAt w 11))
  | 6 => need (d0 && b0 && x0) .reserved <| .ok (.sclr (regAt w 16))
  | 7 => need (d0 && a0 && x0) .reserved <| need (bits w 12 4 == 0) .limit <|
         .ok (if bit w 11 then .sresumeSkip else .sresume)
  | 8 => need (a0 && b0 && x0) .reserved <| .ok (.sstat (regAt w 21))
  | _ => .error .badOp

/-- Major 0x39, stage barriers (R46). -/
def decodeBarrier (w : Nat) : Except DecodeError Instr :=
  let d0 := bits w 21 5 == 0
  let x0 := bits w 8 3 == 0
  match bits w 0 8 with
  | 0 => need (d0 && x0) .reserved <| .ok (.sbinit (regAt w 16) (regAt w 11))
  | 1 => need (d0 && x0) .reserved <| .ok (.sbexp (regAt w 16) (regAt w 11))
  | 2 => need (d0 && x0 && bits w 16 5 == 0) .reserved <| .ok (.sbarr (regAt w 11))
  | 3 => need (d0 && x0) .reserved <| .ok (.sbwait (regAt w 16) (regAt w 11))
  | _ => .error .badOp

/-- Major 0x3A, engine kick (R46). -/
def decodeKick (w : Nat) : Except DecodeError Instr :=
  let d0 := bits w 21 5 == 0
  let a0 := bits w 16 5 == 0
  let r0 := bits w 8 8 == 0
  match bits w 0 8 with
  | 0 => need (d0 && r0) .reserved <| .ok (.ekick (regAt w 16))
  | 1 => need (a0 && r0) .reserved <| .ok (.embox (regAt w 21))
  | 2 => need (d0 && a0 && r0) .reserved <| .ok .ewait
  | _ => .error .badOp

/-- The csr or code field of format S (R31). -/
def csrAt (w : Nat) : Fin 4096 := ⟨w / 2 ^ 4 % 4096, Nat.mod_lt _ (by decide)⟩

/-- Major 0x3C, csr (R47). -/
def decodeCsr (w : Nat) : Except DecodeError Instr :=
  match bits w 0 4 with
  | 0 => need (bits w 16 5 == 0) .reserved <| .ok (.csrr (regAt w 21) (csrAt w))
  | 1 => .ok (.csrw (regAt w 21) (regAt w 16) (csrAt w))
  | 2 => .ok (.csrs (regAt w 21) (regAt w 16) (csrAt w))
  | 3 => .ok (.csrc (regAt w 21) (regAt w 16) (csrAt w))
  | _ => .error .badOp

/-- Major 0x3D, trap (R47, R361, R362). -/
def decodeTrap (w : Nat) : Except DecodeError Instr :=
  match bits w 0 4 with
  | 0 => need (bits w 16 10 == 0) .reserved <| .ok (.trap (csrAt w))
  | 1 => need (bits w 4 22 == 0) .reserved <| .ok .eret
  | _ => .error .badOp

/-- Major 0x3E, engine-only (R48, R297): b and x zero. -/
def decodeEngine (w : Nat) : Except DecodeError Instr :=
  orBad (engineOnly (bits w 0 8)) fun c =>
  need (bits w 8 8 == 0) .reserved <| .ok (c (regAt w 21) (regAt w 16))

/-- A body of a loop (R38): nonzero. -/
def bodyAt (w : Nat) : Fin 8192 := ⟨w % 8192, Nat.mod_lt _ (by decide)⟩

/-- A level field (R31). -/
def levelAt (w : Nat) : Fin 2 := ⟨w / 2 ^ 25 % 2, Nat.mod_lt _ (by decide)⟩

/-- Decode a 32-bit core word (R31-R51). -/
def decodeCore (w : Nat) : Except DecodeError Instr :=
  let d := regAt w 21
  let a := regAt w 16
  let imm := fieldAt w 0 16
  match bits w 26 6 with
  | 0x01 => decodeAlu w
  | 0x02 => .ok (.addi d a imm)
  | 0x03 => .ok (.andi d a imm)
  | 0x04 => .ok (.ori d a imm)
  | 0x05 => .ok (.xori d a imm)
  | 0x06 => decodeShi w
  | 0x07 => need (bits w 16 5 == 0) .reserved <| .ok (.ldi d imm)
  | 0x08 => .ok (.ldih d a imm)
  | 0x09 => .ok (.slti d a imm)
  | 0x0A => .ok (.sltiN d a imm)
  | 0x10 => .ok (.j (fieldAt w 0 26))
  | 0x11 => .ok (.jal (fieldAt w 0 26))
  | 0x12 => orBad (Cond.ofCode (bits w 13 3)) fun c => .ok (.b c d a (fieldAt w 0 13))
  | 0x14 => .ok (.jalr d a imm)
  | 0x15 =>
    need (bits w 21 4 == 0 && bits w 13 3 == 0) .reserved <| need (bits w 0 13 != 0) .limit <|
    .ok (.loop (levelAt w) a (bodyAt w))
  | 0x16 =>
    need (bits w 0 13 != 0) .limit <|
    .ok (.loopi (levelAt w) ⟨w / 2 ^ 13 % 4096, Nat.mod_lt _ (by decide)⟩ (bodyAt w))
  | 0x17 => decodeCtl w
  | 0x18 => decodeMem 0x18 w
  | 0x19 => decodeMem 0x19 w
  | 0x1A => decodeMem 0x1A w
  | 0x1B => decodeMem 0x1B w
  | 0x1C => decodeHandle w
  | 0x1D => decodeAmo w
  | 0x1E => decodeSync w
  | 0x20 => decodeVBin vec20Binary VType.isFpOp w (decodeVUn vec20Unary VType.isFpOp w)
  | 0x21 => decodeVBin vec21Binary VType.isFpOp w (.error .badOp)
  | 0x22 => decodeVBin vec22Binary VType.isIntOp w (decodeVUn vec22Unary VType.isIntOp w)
  | 0x23 => decodeCompare w
  | 0x24 => decodeVBin vec24Binary (fun _ => true) w (decodeVUn vec24Unary (fun _ => true) w)
  | 0x25 => decodeReduce w
  | 0x26 => decodeConvert w
  | 0x27 => decodeSpecial w
  | 0x28 => decodeVMem false w
  | 0x29 => decodeVMem true w
  | 0x2A => decodeGather w
  | 0x2B => decodeMask w
  | 0x2C => decodeVMove w
  | 0x30 => decodeMma w
  | 0x31 => decodeLatch w
  | 0x32 => decodeAccMove w
  | 0x33 => decodeMatCtl w
  | 0x38 => decodeStream w
  | 0x39 => decodeBarrier w
  | 0x3A => decodeKick w
  | 0x3C => decodeCsr w
  | 0x3D => decodeTrap w
  | 0x3E => decodeEngine w
  | _ => .error .unassigned

/-- The route field of a switch word (R52): selectors 11-15 are illegal (R53). -/
def routeAt (w : Nat) : Option Route := do
  let n ← Src.ofCode (bits w 0 4)
  let e ← Src.ofCode (bits w 4 4)
  let s ← Src.ofCode (bits w 8 4)
  let ww ← Src.ofCode (bits w 12 4)
  let c0 ← Src.ofCode (bits w 16 4)
  let c1 ← Src.ofCode (bits w 20 4)
  let c2 ← Src.ofCode (bits w 24 4)
  let l ← Src.ofCode (bits w 28 4)
  some ⟨n, e, s, ww, c0, c1, c2, l⟩

/-- The count field of a switch word (R52). -/
def countAt (w : Nat) : Fin 4096 := ⟨w / 2 ^ 44 % 4096, Nat.mod_lt _ (by decide)⟩

/-- A target word index in aux[10:0] (R54). -/
def targetAt (w : Nat) : Fin 2048 := ⟨w / 2 ^ 32 % 2048, Nat.mod_lt _ (by decide)⟩

/-- A signal in aux[2:0] (R54). -/
def signalAt (w : Nat) : Fin 8 := ⟨w / 2 ^ 32 % 8, Nat.mod_lt _ (by decide)⟩

/-- A loop counter in flags bit 0 (R54). -/
def counterAt (w : Nat) : Fin 2 := ⟨w / 2 ^ 56 % 2, Nat.mod_lt _ (by decide)⟩

/-- Decode a 64-bit switch word (R52-R55). -/
def decodeSwitch (w : Nat) : Except DecodeError Instr :=
  let flag := bit w 56
  let cnt0 := bits w 44 12 == 0
  let aux0 := bits w 32 12 == 0
  let r0 := bits w 0 32 == 0
  let f0 := !flag
  need (bits w 57 2 == 0) .reserved <|
  match bits w 59 5 with
  | 0 =>
    orBad (routeAt w) fun r => need (r.nonempty && !r.usesX) .badOp <| need aux0 .reserved <|
    .ok (.sroute flag (countAt w) r)
  | 1 => need (f0 && cnt0 && r0 && bits w 35 9 == 0) .reserved <| .ok (.srtw (signalAt w))
  | 2 => need (f0 && cnt0 && r0 && bits w 43 1 == 0) .reserved <| .ok (.sjump (targetAt w))
  | 3 => need (aux0 && r0) .reserved <| .ok (.sloop (counterAt w) (countAt w))
  | 4 => need (cnt0 && r0 && bits w 43 1 == 0) .reserved <| .ok (.sbnz (counterAt w) (targetAt w))
  | 5 =>
    orBad (routeAt w) fun r =>
    orBad (Src.ofCode (bits w 32 4)) fun a =>
    orBad (Src.ofCode (bits w 36 4)) fun b =>
    need (r.nonempty && a.isPort && b.isPort && a != b) .badOp <| need (bits w 40 4 == 0) .reserved <|
    .ok (.sxor flag (countAt w) a b r)
  | 6 =>
    orBad (routeAt w) fun r =>
    orBad (Src.ofCode (bits w 32 4)) fun a =>
    need (r.nonempty && a.isPort) .badOp <| need (bits w 36 8 == 0) .reserved <|
    .ok (.sdec flag (countAt w) a r)
  | 7 => need (f0 && cnt0 && r0 && bits w 35 9 == 0) .reserved <| .ok (.ssig (signalAt w))
  | 8 =>
    orBad (Src.ofCode (bits w 32 4)) fun a => need a.isPort .badOp <|
    need (r0 && bits w 36 8 == 0) .reserved <| .ok (.sskip flag (countAt w) a)
  | 9 => need (f0 && cnt0 && aux0 && r0) .reserved <| .ok .shalt
  | 10 => need (f0 && aux0 && r0) .reserved <| .ok (.snop (countAt w))
  | _ => .error .unassigned

/-- The little-endian value of bytes (R4). -/
def leVal : List Byte → Nat
  | [] => 0
  | b :: bs => b.toNat + 256 * leVal bs

/-- The `n` little-endian bytes of a value (R4). -/
def leBytes : Nat → Nat → List Byte
  | 0, _ => []
  | n + 1, v => BitVec.ofNat 8 v :: leBytes n (v / 256)

/-- Decode the core word at the head of a byte list, and the rest. -/
def decodeBytes (bs : List Byte) : Except DecodeError (Instr × List Byte) :=
  if bs.length < 4 then .error .short
  else match decodeCore (leVal (bs.take 4)) with
    | .ok i => .ok (i, bs.drop 4)
    | .error e => .error e

/-- Decode the switch word at the head of a byte list, and the rest. -/
def decodeSwitchBytes (bs : List Byte) : Except DecodeError (Instr × List Byte) :=
  if bs.length < 8 then .error .short
  else match decodeSwitch (leVal (bs.take 8)) with
    | .ok i => .ok (i, bs.drop 8)
    | .error e => .error e

/-- The instruction the decoder reads from the bytes of a word numbered as the opcode table numbers it:
more than 32 bits is a switch word. -/
def decodeTableWord (nbits w : Nat) : Option Instr :=
  if nbits ≤ 32 then
    match decodeBytes (leBytes 4 w) with
    | .ok (i, _) => some i
    | .error _ => none
  else
    match decodeSwitchBytes (leBytes 8 w) with
    | .ok (i, _) => some i
    | .error _ => none

/-! ### The encoder -/

/-- Format R (R31). -/
def encR (major d a b x f : Nat) : Nat :=
  major * 2 ^ 26 + d * 2 ^ 21 + a * 2 ^ 16 + b * 2 ^ 11 + x * 2 ^ 8 + f

/-- Format R of a vector op: f[7:4] the type, f[3:0] the op (R33). -/
def encV (major d a b x t op : Nat) : Nat := encR major d a b x (t * 16 + op)

/-- Format I (R31). -/
def encI (major d a imm : Nat) : Nat := major * 2 ^ 26 + d * 2 ^ 21 + a * 2 ^ 16 + imm

/-- Format M (R31). -/
def encM (major d a sz f13 ord imm : Nat) : Nat :=
  major * 2 ^ 26 + d * 2 ^ 21 + a * 2 ^ 16 + sz * 2 ^ 14 + f13 * 2 ^ 13 + ord * 2 ^ 11 + imm

/-- Format H (R31). -/
def encH (d h i sz rx ord st imm : Nat) : Nat :=
  0x1C * 2 ^ 26 + d * 2 ^ 21 + h * 2 ^ 18 + i * 2 ^ 13 + sz * 2 ^ 11 + rx * 2 ^ 10 + ord * 2 ^ 8 + st * 2 ^ 7 + imm

/-- Format MX (R31). -/
def encMX (major acc a fa fb lt fw hd z op : Nat) : Nat :=
  major * 2 ^ 26 + acc * 2 ^ 22 + a * 2 ^ 17 + fa * 2 ^ 13 + fb * 2 ^ 9 + lt * 2 ^ 8 + fw * 2 ^ 7 + hd * 2 ^ 6 +
    z * 2 ^ 5 + op

/-- Format S (R31). -/
def encS (major d a csr op : Nat) : Nat := major * 2 ^ 26 + d * 2 ^ 21 + a * 2 ^ 16 + csr * 2 ^ 4 + op

/-- A switch word (R52). -/
def encSw (op flags count aux route : Nat) : Nat :=
  op * 2 ^ 59 + flags * 2 ^ 56 + count * 2 ^ 44 + aux * 2 ^ 32 + route

/-- The route field (R52). -/
def Route.code (r : Route) : Nat :=
  r.n.code + r.e.code * 2 ^ 4 + r.s.code * 2 ^ 8 + r.w.code * 2 ^ 12 + r.c0.code * 2 ^ 16 + r.c1.code * 2 ^ 20 +
    r.c2.code * 2 ^ 24 + r.l.code * 2 ^ 28

/-- The word of a core or switch instruction; an event has none and answers 0. -/
def encode : Instr → Nat
  | .add d a b => encR 0x01 d.val a.val b.val 0 0x00
  | .sub d a b => encR 0x01 d.val a.val b.val 0 0x01
  | .and d a b => encR 0x01 d.val a.val b.val 0 0x02
  | .or d a b => encR 0x01 d.val a.val b.val 0 0x03
  | .xor d a b => encR 0x01 d.val a.val b.val 0 0x04
  | .andn d a b => encR 0x01 d.val a.val b.val 0 0x05
  | .shl d a b => encR 0x01 d.val a.val b.val 0 0x06
  | .shr d a b => encR 0x01 d.val a.val b.val 0 0x07
  | .sra d a b => encR 0x01 d.val a.val b.val 0 0x08
  | .rot d a b => encR 0x01 d.val a.val b.val 0 0x09
  | .min d a b => encR 0x01 d.val a.val b.val 0 0x0A
  | .max d a b => encR 0x01 d.val a.val b.val 0 0x0B
  | .minN d a b => encR 0x01 d.val a.val b.val 0 0x0C
  | .maxN d a b => encR 0x01 d.val a.val b.val 0 0x0D
  | .addw d a b => encR 0x01 d.val a.val b.val 0 0x0E
  | .subw d a b => encR 0x01 d.val a.val b.val 0 0x0F
  | .bfx d a b => encR 0x01 d.val a.val b.val 0 0x19
  | .bfi d a b => encR 0x01 d.val a.val b.val 0 0x1A
  | .sel d a b => encR 0x01 d.val a.val b.val 0 0x1B
  | .mul d a b => encR 0x01 d.val a.val b.val 0 0x20
  | .mulh d a b => encR 0x01 d.val a.val b.val 0 0x21
  | .mulhN d a b => encR 0x01 d.val a.val b.val 0 0x22
  | .div d a b => encR 0x01 d.val a.val b.val 0 0x23
  | .divN d a b => encR 0x01 d.val a.val b.val 0 0x24
  | .rem d a b => encR 0x01 d.val a.val b.val 0 0x25
  | .remN d a b => encR 0x01 d.val a.val b.val 0 0x26
  | .seq d a b => encR 0x01 d.val a.val b.val 0 0x28
  | .sne d a b => encR 0x01 d.val a.val b.val 0 0x29
  | .slt d a b => encR 0x01 d.val a.val b.val 0 0x2A
  | .sltN d a b => encR 0x01 d.val a.val b.val 0 0x2B
  | .sle d a b => encR 0x01 d.val a.val b.val 0 0x2C
  | .sleN d a b => encR 0x01 d.val a.val b.val 0 0x2D
  | .clz d a => encR 0x01 d.val a.val 0 0 0x10
  | .ctz d a => encR 0x01 d.val a.val 0 0 0x11
  | .popc d a => encR 0x01 d.val a.val 0 0 0x12
  | .sextB d a => encR 0x01 d.val a.val 0 0 0x13
  | .sextH d a => encR 0x01 d.val a.val 0 0 0x14
  | .sextW d a => encR 0x01 d.val a.val 0 0 0x15
  | .zextB d a => encR 0x01 d.val a.val 0 0 0x16
  | .zextH d a => encR 0x01 d.val a.val 0 0 0x17
  | .zextW d a => encR 0x01 d.val a.val 0 0 0x18
  | .addi d a imm => encI 0x02 d.val a.val imm.toNat
  | .andi d a imm => encI 0x03 d.val a.val imm.toNat
  | .ori d a imm => encI 0x04 d.val a.val imm.toNat
  | .xori d a imm => encI 0x05 d.val a.val imm.toNat
  | .ldih d a imm => encI 0x08 d.val a.val imm.toNat
  | .slti d a imm => encI 0x09 d.val a.val imm.toNat
  | .sltiN d a imm => encI 0x0A d.val a.val imm.toNat
  | .vaddFp t d a b x => encV 0x20 d.val a.val b.val x.val t.code 0x00
  | .vsubFp t d a b x => encV 0x20 d.val a.val b.val x.val t.code 0x01
  | .vmulFp t d a b x => encV 0x20 d.val a.val b.val x.val t.code 0x02
  | .vminFp t d a b x => encV 0x20 d.val a.val b.val x.val t.code 0x03
  | .vmaxFp t d a b x => encV 0x20 d.val a.val b.val x.val t.code 0x04
  | .vcpysgn t d a b x => encV 0x20 d.val a.val b.val x.val t.code 0x07
  | .vfma t d a b x => encV 0x21 d.val a.val b.val x.val t.code 0x00
  | .vfms t d a b x => encV 0x21 d.val a.val b.val x.val t.code 0x01
  | .vfnma t d a b x => encV 0x21 d.val a.val b.val x.val t.code 0x02
  | .vfnms t d a b x => encV 0x21 d.val a.val b.val x.val t.code 0x03
  | .vaddInt t d a b x => encV 0x22 d.val a.val b.val x.val t.code 0x00
  | .vsubInt t d a b x => encV 0x22 d.val a.val b.val x.val t.code 0x01
  | .vmulInt t d a b x => encV 0x22 d.val a.val b.val x.val t.code 0x02
  | .vmulh t d a b x => encV 0x22 d.val a.val b.val x.val t.code 0x03
  | .vminInt t d a b x => encV 0x22 d.val a.val b.val x.val t.code 0x04
  | .vmaxInt t d a b x => encV 0x22 d.val a.val b.val x.val t.code 0x05
  | .vand t d a b x => encV 0x22 d.val a.val b.val x.val t.code 0x06
  | .vor t d a b x => encV 0x22 d.val a.val b.val x.val t.code 0x07
  | .vxor t d a b x => encV 0x22 d.val a.val b.val x.val t.code 0x08
  | .vshl t d a b x => encV 0x22 d.val a.val b.val x.val t.code 0x09
  | .vshr t d a b x => encV 0x22 d.val a.val b.val x.val t.code 0x0A
  | .vsra t d a b x => encV 0x22 d.val a.val b.val x.val t.code 0x0B
  | .vsel t d a b x => encV 0x24 d.val a.val b.val x.val t.code 0x00
  | .vperm t d a b x => encV 0x24 d.val a.val b.val x.val t.code 0x02
  | .vslup t d a b x => encV 0x24 d.val a.val b.val x.val t.code 0x03
  | .vsldn t d a b x => encV 0x24 d.val a.val b.val x.val t.code 0x04
  | .vzipl t d a b x => encV 0x24 d.val a.val b.val x.val t.code 0x05
  | .vziph t d a b x => encV 0x24 d.val a.val b.val x.val t.code 0x06
  | .vuzpe t d a b x => encV 0x24 d.val a.val b.val x.val t.code 0x07
  | .vuzpo t d a b x => encV 0x24 d.val a.val b.val x.val t.code 0x08
  | .vbcast t d a b x => encV 0x24 d.val a.val b.val x.val t.code 0x09
  | .vabsFp t d a x => encV 0x20 d.val a.val 0 x.val t.code 0x05
  | .vneg t d a x => encV 0x20 d.val a.val 0 x.val t.code 0x06
  | .vabsInt t d a x => encV 0x22 d.val a.val 0 x.val t.code 0x0C
  | .vswp t d a x => encV 0x24 d.val a.val 0 x.val t.code 0x01
  | .vrsum t d a x => encV 0x25 d.val a.val 0 x.val t.code 0x00
  | .vrmax t d a x => encV 0x25 d.val a.val 0 x.val t.code 0x01
  | .vrmin t d a x => encV 0x25 d.val a.val 0 x.val t.code 0x02
  | .vrsumi t d a x => encV 0x25 d.val a.val 0 x.val t.code 0x03
  | .veq t md a b x => encV 0x23 md.val a.val b.val x.val t.code 0x00
  | .vne t md a b x => encV 0x23 md.val a.val b.val x.val t.code 0x01
  | .vlt t md a b x => encV 0x23 md.val a.val b.val x.val t.code 0x02
  | .vle t md a b x => encV 0x23 md.val a.val b.val x.val t.code 0x03
  | .vunord t md a b x => encV 0x23 md.val a.val b.val x.val t.code 0x04
  | .vcvt dt st d a x => encV 0x26 d.val a.val st.code x.val dt.code 0x00
  | .vcvtSat dt st d a x => encV 0x26 d.val a.val st.code x.val dt.code 0x01
  | .vcvtRtz dt st d a x => encV 0x26 d.val a.val st.code x.val dt.code 0x02
  | .vrsq d a x => encV 0x27 d.val a.val 0 x.val 0 0x00
  | .vrcp d a x => encV 0x27 d.val a.val 0 x.val 0 0x01
  | .vredh d a x => encV 0x27 d.val a.val 0 x.val 0 0x02
  | .vquad d a x => encV 0x27 d.val a.val 0 x.val 0 0x03
  | .vsin d a x => encV 0x27 d.val a.val 0 x.val 0 0x04
  | .vcos d a x => encV 0x27 d.val a.val 0 x.val 0 0x05
  | .vexp2 d a x => encV 0x27 d.val a.val 0 x.val 0 0x06
  | .vlog2 d a x => encV 0x27 d.val a.val 0 x.val 0 0x07
  | .vsqrt d a x => encV 0x27 d.val a.val 0 x.val 0 0x08
  | .vgathW d a b x => encV 0x2A d.val a.val b.val x.val 0 0x00
  | .vscatW d a b x => encV 0x2A d.val a.val b.val x.val 0 0x01
  | .vgathH d a b x => encV 0x2A d.val a.val b.val x.val 0 0x02
  | .vscatH d a b x => encV 0x2A d.val a.val b.val x.val 0 0x03
  | .vgathB d a b x => encV 0x2A d.val a.val b.val x.val 0 0x04
  | .vscatB d a b x => encV 0x2A d.val a.val b.val x.val 0 0x05
  | .emove d a => encR 0x3E d.val a.val 0 0 0x00
  | .estrd d a => encR 0x3E d.val a.val 0 0 0x01
  | .egath d a => encR 0x3E d.val a.val 0 0 0x02
  | .escat d a => encR 0x3E d.val a.val 0 0 0x03
  | .estream d a => encR 0x3E d.val a.val 0 0 0x04
  | .edrain d a => encR 0x3E d.val a.val 0 0 0x05
  | .ered d a => encR 0x3E d.val a.val 0 0 0x06
  | .esamp d a => encR 0x3E d.val a.val 0 0 0x07
  | .esort d a => encR 0x3E d.val a.val 0 0 0x08
  | .shi k d a n => encI 0x06 d.val a.val (k.code * 2 ^ 8 + n.val)
  | .ldi d imm => encI 0x07 d.val 0 imm.toNat
  | .j off => 0x10 * 2 ^ 26 + off.toNat
  | .jal off => 0x11 * 2 ^ 26 + off.toNat
  | .b c a b off => 0x12 * 2 ^ 26 + a.val * 2 ^ 21 + b.val * 2 ^ 16 + c.code * 2 ^ 13 + off.toNat
  | .jalr d a imm => encI 0x14 d.val a.val imm.toNat
  | .loop k a body => 0x15 * 2 ^ 26 + k.val * 2 ^ 25 + a.val * 2 ^ 16 + body.val
  | .loopi k n body => 0x16 * 2 ^ 26 + k.val * 2 ^ 25 + n.val * 2 ^ 13 + body.val
  | .nop => encR 0x17 0 0 0 0 0
  | .retire => encR 0x17 0 0 0 0 1
  | .yield => encR 0x17 0 0 0 0 2
  | .brk => encR 0x17 0 0 0 0 3
  | .ldl z sx d a imm => encM 0x18 d.val a.val z.code (b2n sx) 0 imm.toNat
  | .stl z d a imm => encM 0x19 d.val a.val z.code 0 0 imm.toNat
  | .ld z rx acq d a imm => encM 0x1A d.val a.val z.code (b2n rx) (b2n acq) imm.toNat
  | .st z rx rel d a imm => encM 0x1B d.val a.val z.code (b2n rx) (b2n rel * 2) imm.toNat
  | .ldh z rx acq d h i imm => encH d.val h.val i.val z.code (b2n rx) (b2n acq) 0 imm.toNat
  | .sth z rx rel d h i imm => encH d.val h.val i.val z.code (b2n rx) (b2n rel * 2) 1 imm.toNat
  | .amo op dbl loc ord d a b =>
    encR 0x1D d.val a.val b.val (b2n dbl) (b2n loc * 2 ^ 7 + ord.code * 2 ^ 5 + op.code)
  | .fenceT => encR 0x1E 0 0 0 0 0
  | .fenceD => encR 0x1E 0 0 0 0 1
  | .fenceM => encR 0x1E 0 0 0 0 2
  | .fenceP => encR 0x1E 0 0 0 0 3
  | .fenceS => encR 0x1E 0 0 0 0 4
  | .xlat h a b => encR 0x1E h.val a.val b.val 0 5
  | .xrel h => encR 0x1E h.val 0 0 0 6
  | .vldL d a imm => encM 0x28 d.val a.val 0 0 0 imm.toNat
  | .vldG rx acq d a imm => encM 0x28 d.val a.val 1 (b2n rx) (b2n acq) imm.toNat
  | .vstL d a imm => encM 0x29 d.val a.val 0 0 0 imm.toNat
  | .vstG rx rel d a imm => encM 0x29 d.val a.val 1 (b2n rx) (b2n rel * 2) imm.toNat
  | .mand d a b => encR 0x2B d.val a.val b.val 0 0
  | .mor d a b => encR 0x2B d.val a.val b.val 0 1
  | .mxor d a b => encR 0x2B d.val a.val b.val 0 2
  | .mnot d a => encR 0x2B d.val a.val 0 0 3
  | .mpopc d a => encR 0x2B d.val a.val 0 0 4
  | .mfirst d a => encR 0x2B d.val a.val 0 0 5
  | .mset d a => encR 0x2B d.val a.val 0 0 6
  | .mget d a => encR 0x2B d.val a.val 0 0 7
  | .vldi t d imm x => encV 0x2C d.val (imm.toNat / 32) (imm.toNat % 32) x.val t.code 0
  | .vmovg t d a x => encV 0x2C d.val a.val 0 x.val t.code 1
  | .vext t d a b => encV 0x2C d.val a.val b.val 0 t.code 2
  | .vins t d a b => encV 0x2C d.val a.val b.val 0 t.code 3
  | .mma c a fa fb l fw hd z => encMX 0x30 c.val a.val fa.code fb.code l.val (b2n fw) (b2n hd) (b2n z) 0
  | .mms c a fa fb l fw hd z => encMX 0x30 c.val a.val fa.code fb.code l.val (b2n fw) (b2n hd) (b2n z) 1
  | .mlb a l => encMX 0x31 0 a.val 0 0 l.val 0 0 0 0
  | .mlarm l fw => encMX 0x31 0 0 0 0 l.val (b2n fw) 0 0 1
  | .mlfree l => encMX 0x31 0 0 0 0 l.val 0 0 0 2
  | .mrow c v row half => 0x32 * 2 ^ 26 + c.val * 2 ^ 22 + v.val * 2 ^ 17 + row.val * 2 ^ 12 + b2n half * 2 ^ 11
  | .mwrow c v row half =>
    0x32 * 2 ^ 26 + c.val * 2 ^ 22 + v.val * 2 ^ 17 + row.val * 2 ^ 12 + b2n half * 2 ^ 11 + 1
  | .mst c a f => encMX 0x32 c.val a.val f.code 0 0 0 0 0 2
  | .mzero c => encMX 0x32 c.val 0 0 0 0 0 0 0 3
  | .mwait => encMX 0x33 0 0 0 0 0 0 0 0 0
  | .mhdr d l => encMX 0x33 0 d.val 0 0 l.val 0 0 0 1
  | .mtag c a => encMX 0x33 c.val a.val 0 0 0 0 0 0 2
  | .sbind v k => encR 0x38 0 0 (b2n v) k.val 0
  | .sfree v k => encR 0x38 0 0 (b2n v) k.val 1
  | .speek d k => encR 0x38 d.val 0 0 k.val 2
  | .scnt d k => encR 0x38 d.val 0 0 k.val 3
  | .sinj a b => encR 0x38 0 a.val b.val 0 4
  | .side a b => encR 0x38 0 a.val b.val 0 5
  | .sclr a => encR 0x38 0 a.val 0 0 6
  | .sresume => encR 0x38 0 0 0 0 7
  | .sresumeSkip => encR 0x38 0 0 1 0 7
  | .sstat d => encR 0x38 d.val 0 0 0 8
  | .sbinit a n => encR 0x39 0 a.val n.val 0 0
  | .sbexp a n => encR 0x39 0 a.val n.val 0 1
  | .sbarr n => encR 0x39 0 0 n.val 0 2
  | .sbwait a n => encR 0x39 0 a.val n.val 0 3
  | .ekick a => encR 0x3A 0 a.val 0 0 0
  | .embox d => encR 0x3A d.val 0 0 0 1
  | .ewait => encR 0x3A 0 0 0 0 2
  | .csrr d c => encS 0x3C d.val 0 c.val 0
  | .csrw d a c => encS 0x3C d.val a.val c.val 1
  | .csrs d a c => encS 0x3C d.val a.val c.val 2
  | .csrc d a c => encS 0x3C d.val a.val c.val 3
  | .trap code => encS 0x3D 0 0 code.val 0
  | .eret => encS 0x3D 0 0 0 1
  | .sroute e n r => encSw 0 (b2n e) n.val 0 r.code
  | .srtw k => encSw 1 0 0 k.val 0
  | .sjump t => encSw 2 0 0 t.val 0
  | .sloop c n => encSw 3 c.val n.val 0 0
  | .sbnz c t => encSw 4 c.val 0 t.val 0
  | .sxor e n a b r => encSw 5 (b2n e) n.val (a.code + b.code * 16) r.code
  | .sdec e n a r => encSw 6 (b2n e) n.val a.code r.code
  | .ssig k => encSw 7 0 0 k.val 0
  | .sskip e n a => encSw 8 (b2n e) n.val a.code 0
  | .shalt => encSw 9 0 0 0 0
  | .snop n => encSw 10 0 n.val 0 0
  | _ => 0

/-- The instruction is a switch word (R54). -/
def Instr.isSwitch : Instr → Bool
  | .sroute .. | .srtw .. | .sjump .. | .sloop .. | .sbnz .. | .sxor .. | .sdec .. | .ssig .. | .sskip ..
  | .shalt | .snop .. => true
  | _ => false

/-- The instruction is a core word (R31-R51). -/
def Instr.isCore : Instr → Bool
  | .add .. | .sub .. | .and .. | .or .. | .xor .. | .andn .. | .shl .. | .shr .. | .sra .. | .rot .. | .min ..
  | .max .. | .minN .. | .maxN .. | .addw .. | .subw .. | .clz .. | .ctz .. | .popc .. | .sextB .. | .sextH ..
  | .sextW .. | .zextB .. | .zextH .. | .zextW .. | .bfx .. | .bfi .. | .sel .. | .mul .. | .mulh ..
  | .mulhN .. | .div .. | .divN .. | .rem .. | .remN .. | .seq .. | .sne .. | .slt .. | .sltN .. | .sle ..
  | .sleN .. | .addi .. | .andi .. | .ori .. | .xori .. | .shi .. | .ldi .. | .ldih .. | .slti .. | .sltiN ..
  | .j .. | .jal .. | .b .. | .jalr .. | .loop .. | .loopi .. | .ldl .. | .stl .. | .ld .. | .st .. | .ldh ..
  | .sth .. | .amo .. | .xlat .. | .xrel .. | .vaddFp .. | .vsubFp .. | .vmulFp .. | .vminFp .. | .vmaxFp ..
  | .vabsFp .. | .vneg .. | .vcpysgn .. | .vfma .. | .vfms .. | .vfnma .. | .vfnms .. | .vaddInt ..
  | .vsubInt .. | .vmulInt .. | .vmulh .. | .vminInt .. | .vmaxInt .. | .vand .. | .vor .. | .vxor ..
  | .vshl .. | .vshr .. | .vsra .. | .vabsInt .. | .veq .. | .vne .. | .vlt .. | .vle .. | .vunord ..
  | .vsel .. | .vswp .. | .vperm .. | .vslup .. | .vsldn .. | .vzipl .. | .vziph .. | .vuzpe .. | .vuzpo ..
  | .vbcast .. | .vrsum .. | .vrmax .. | .vrmin .. | .vrsumi .. | .vcvt .. | .vcvtSat .. | .vcvtRtz ..
  | .vrsq .. | .vrcp .. | .vredh .. | .vquad .. | .vsin .. | .vcos .. | .vexp2 .. | .vlog2 .. | .vsqrt ..
  | .vldL .. | .vldG .. | .vstL .. | .vstG .. | .vgathW .. | .vscatW .. | .vgathH .. | .vscatH .. | .vgathB ..
  | .vscatB .. | .mand .. | .mor .. | .mxor .. | .mnot .. | .mpopc .. | .mfirst .. | .mset .. | .mget ..
  | .vldi .. | .vmovg .. | .vext .. | .vins .. | .mma .. | .mms .. | .mlb .. | .mlarm .. | .mlfree ..
  | .mrow .. | .mwrow .. | .mst .. | .mzero .. | .mwait | .mhdr .. | .mtag .. | .sbind .. | .sfree ..
  | .speek .. | .scnt .. | .sinj .. | .side .. | .sclr .. | .sresume | .sresumeSkip | .sstat .. | .sbinit ..
  | .sbexp .. | .sbarr .. | .sbwait .. | .ekick .. | .embox .. | .ewait | .csrr .. | .csrw .. | .csrs ..
  | .csrc .. | .trap .. | .eret | .emove .. | .estrd .. | .egath .. | .escat .. | .estream .. | .edrain ..
  | .ered .. | .esamp .. | .esort .. | .nop | .retire | .yield | .brk | .fenceT | .fenceD | .fenceM | .fenceP
  | .fenceS => true
  | _ => false

end Sys2Proof
end

