-- ==== Sys2Proof/Machine/State.lean ====
section
/-! DEFINITION. The state of the panel as plain data: everything the manual gives the machine (00-19), with the
few fields of the model's own that INVENTORY.md lists, and the state right after power-on. Times kept in a tile
are values of that tile's CYCLE (R16, R18), so they stand still while the tile's clock does. -/
namespace Sys2Proof.Machine

/-- The machine never stops with a fault: every instruction word, operand value and coincidence of events has a
defined outcome (R9), and a failed access is a trap, a failed write or an error completion (R221). Nothing raises
one; that is safe. -/
inductive Fault
deriving DecidableEq, Repr

/-- Why an instruction has no meaning here. -/
inductive Refusal
  /-- Raised by an arm of `exec` for an instruction whose meaning is not written yet. Safe: the run stops. -/
  | notModelled (mnemonic : String)
deriving DecidableEq, Repr

/-- The outcome of an instruction. -/
abbrev Out (σ : Type) := Host.Outcome σ Fault Refusal

/-- A sparse table: keys strictly rising; an absent key reads as the table's default. -/
abbrev Tab (α : Type) := List (Nat × α)

/-- A byte memory: (address, byte) pairs, addresses strictly rising, no byte equal to the byte an unlisted
address reads as (zero). -/
abbrev Mem := List Host.Cell

/-! ### Harts -/

/-- Who makes an access over the network, and waits at the edge of a cluster that is not ACTIVE (R432). -/
inductive Waiter
  | access (h : HartId) (id : Nat)
  | engine (t : TileNo)
  | event (i : Instr)
deriving DecidableEq, Repr

/-- A translation handle (R245). -/
structure Handle where
  valid : Bool := false
  w : Bool := false
  pb : Nat := 0
  len : Nat := 0
  /-- The virtual base it was taken at, and the page it was taken from (base and size in bytes). -/
  vbase : W64 := 0
  page : Nat := 0
  pageSize : Nat := 0
  ctx : Nat := 0
deriving DecidableEq, Repr, Inhabited

/-- What an outstanding access does at its target. -/
inductive AccKind
  | load
  | store (data : List Byte)
  | amo (op : AmoOp) (v c : Nat) (rm : Nat)
deriving DecidableEq, Repr

/-- Where an access's data goes (R165, R243). -/
inductive Dest
  | none
  | g (r : Reg)
  | v (r : Reg)
  /-- Words of output queue `k` that were reserved under `id`. -/
  | queue (k : Fin 8) (id : Nat)
deriving DecidableEq, Repr

/-- An entry of a stream queue (R162). -/
structure QEntry where
  word : W64
  h : Bool
  e : Bool
  pos : Nat
  /-- The cycle from which the drain may see it (R165, R177). -/
  from_ : Nat
  /-- The access whose completion supplies the word. -/
  pending : Option Nat
deriving DecidableEq, Repr, Inhabited

/-- An access that has issued and not completed (R243, R259). -/
structure Access where
  id : Nat
  /-- Address of the instruction and the access's virtual address (R221). -/
  pc : W64
  va : W64
  pa : Nat
  n : Nat
  kind : AccKind
  dest : Dest
  relaxed : Bool
  /-- No later access of the party issues before it completes (R263). -/
  acquire : Bool
  /-- The words it popped at issue, by queue, and SSTAT before: given back when its instruction traps (R165). -/
  popped : List (Fin 8 × List QEntry) := []
  sstat : W64 := 0
  /-- The target is not HBM: no later instruction of the strand issues until it completes (R222). -/
  blocking : Bool
  handle : Option (Fin 8)
  ctx : Nat
  /-- Performed at its target, its completion withheld until every ring entry named here, as port, ring and entry, has
  its status (R412); and what it answers. -/
  post : Option (List (Nat × Nat × Nat)) := none
  answer : List Byte := []
  /-- The cycle of the machine in which it reaches its target: a free, finite time (R275). -/
  due : Nat := 0
  /-- It stands at its target and waits there (R221, R373). -/
  waits : Bool := false
  /-- A delivery of an engine: the barrier it counts against (R301), and the units of PROGRESS it finishes (R293). -/
  bar : Option (Fin 32) := none
  units : Nat := 0
  /-- A delivery to the engine's own local memory by a local address. -/
  loc : Bool := false
deriving DecidableEq, Repr

/-- The kinds of a faulting walk (R368). -/
inductive WalkFault
  | notPresent | protection | replicaWrite | keyMismatch | malformed
deriving DecidableEq, Repr

/-- How far the translation of a held access has come (R235, R236, R304). -/
inductive HeldPhase
  /-- The walk is still to be made. -/
  | walk
  /-- The walk faulted; its record is still to be written (R367). -/
  | record (kind : WalkFault)
  /-- The record stands in the fault queue of die `die` as `seq`; a reply is awaited (R369). -/
  | reply (kind : WalkFault) (seq die : Nat)
deriving DecidableEq, Repr

/-- An access held in translation (R235). -/
structure Held where
  va : W64
  wr : Bool
  phase : HeldPhase
  /-- The key of the record of an earlier fault of the same access, across a freeze, and of its latest record, as die
  and sequence number (R368, R371). -/
  oldKey : Option (Nat × Nat) := none
  lastKey : Option (Nat × Nat) := none
  /-- The kind of the latest record (R236). -/
  lastKind : WalkFault := .notPresent
  /-- The cycle of the machine in which its walk is made: a free, finite time (R275). -/
  due : Nat := 0
deriving DecidableEq, Repr

/-- An amo on the tile's own local memory that has issued (R250): what it does, where its old value goes, its instruction, the
cycle it issued in, and the one in which it has its bank for the first of two cycles. -/
structure LocalAmo where
  op : AmoOp
  n : Nat
  addr : Nat
  v : Nat
  c : Nat
  rm : Nat
  dest : Dest
  pc : W64
  since : Nat
  start : Nat
deriving DecidableEq, Repr

/-- The state every core hart has: a strand, a tile engine, a management hart (R14, R282, R424). -/
structure Regs where
  g : Vector W64 32 := Vector.replicate 32 0
  pc : W64 := 0
  lc : Vector W64 2 := Vector.replicate 2 0
  lb : Vector W64 2 := Vector.replicate 2 0
  le : Vector W64 2 := Vector.replicate 2 0
  h : Vector Handle 8 := Vector.replicate 8 {}
  issued : W64 := 0
  /-- The scoreboard: the cycle from which each general register may be read (R98, R100). -/
  gReady : Vector Nat 32 := Vector.replicate 32 0
  /-- The cycle by which every result and flag of the instructions issued so far is written (R118). -/
  resultsFrom : Nat := 0
  /-- Not ready before this cycle after a yield (R121). -/
  yieldUntil : Nat := 0
  /-- No further access or push issues before this cycle (R115). -/
  accessFrom : Nat := 0
  accesses : List Access := []
  held : Option Held := none
  amo : Option LocalAmo := none
  /-- Registers whose residue does not match, by the numbers of R365: g 0-31, v 32-63 (R122, R153). -/
  residue : List Nat := []
deriving DecidableEq, Repr, Inhabited

/-- The run state of a strand (R446). -/
inductive RunState
  | notStarted | active | retired | halted
deriving DecidableEq, Repr, Inhabited

/-- A running sinj (R189). -/
structure Sinj where
  addr : Nat
  n : Nat
  done : Nat
  dest : Nat
  markH : Bool
  markE : Bool
deriving DecidableEq, Repr

/-- A gather or scatter under way (R142): its element size, the lanes still to be served with their addresses, a scatter's
source or the lanes gathered so far, where a gather's result goes, and the cycle it issued in; its instruction, and the bad
word that a granule has met (R153). -/
structure Gather where
  store : Bool
  size : Nat
  lanes : List (Nat × Nat)
  data : V512
  dest : Dest
  since : Nat
  pc : W64 := 0
  bad : Option W64 := none
deriving DecidableEq, Repr

/-- A strand (R14, R16, R357). -/
structure Strand where
  r : Regs := {}
  v : Vector V512 32 := Vector.replicate 32 0
  m : Vector W64 8 := (Vector.replicate 8 0).set 0 (BitVec.allOnes 64)
  vReady : Vector Nat 32 := Vector.replicate 32 0
  mReady : Vector Nat 8 := Vector.replicate 8 0
  rmode : BitVec 2 := 0
  fflags : BitVec 5 := 0
  fmt8 : BitVec 8 := 0
  sstat : W64 := 0
  epc : W64 := 0
  ecause : W64 := 0
  eval : W64 := 0
  etvec : W64 := 0xFFFFFFFF
  inh : Bool := false
  swpend : Bool := false
  ovrpend : Bool := false
  overran : Bool := false
  run : RunState := .notStarted
  /-- Waiting for its matrix instruction to complete (R161). -/
  matrixWait : Bool := false
  sinj : Option Sinj := none
  gather : Option Gather := none
deriving DecidableEq, Repr, Inhabited

/-! ### Streams, barriers, switch -/

/-- The binding of a queue pair: the strand, and whether as a vector register (R164). -/
structure Bind where
  strand : Fin 8
  vec : Bool
deriving DecidableEq, Repr, Inhabited

/-- A stage barrier (R170). -/
structure Barrier where
  count : Nat := 0
  remain : Nat := 0
  phase : Bool := false
  bytes : Int := 0
deriving DecidableEq, Repr, Inhabited

/-- A flit with its marks and the cycle from which it may move (R174, R177). -/
structure Flit where
  data : W256 := 0
  h : Bool := false
  e : Bool := false
  from_ : Nat := 0
deriving DecidableEq, Repr, Inhabited

/-- An input port buffer of a switch, and the cycle of its last removal (R174, R176). -/
structure PortBuf where
  buf : List Flit := []
  lastPop : Option Nat := none
deriving DecidableEq, Repr, Inhabited

/-- The run state of a switch (R174, R188). -/
inductive SwRun
  | running | waiting | stopped | halted
deriving DecidableEq, Repr, Inhabited

/-- The decode mode of sdec (R185). -/
inductive DecMode
  | pass
  /-- Decoding flit `j` of `len` flits with side entry `entry` in use. -/
  | decode (entry : Fin 64) (j len flow partner : Nat)
  /-- The entry of key `(kf, ks)` in use was cleared after `j` flits: the next repetition stops, or, once sresume has
  restarted the word (`retry`), looks the key up again (R190). -/
  | lost (j len flow partner kf ks : Nat) (retry : Bool)
deriving DecidableEq, Repr, Inhabited

/-- The tile switch (R174). -/
structure Switch where
  spc : Nat := 0
  rep : Nat := 0
  cnt : Vector Nat 2 := Vector.replicate 2 0
  sph : Vector Bool 8 := Vector.replicate 8 false
  run : SwRun := .running
  fault : W64 := 0
  inj : Nat := 0
  mode : DecMode := .pass
  n : PortBuf := {}
  e : PortBuf := {}
  s : PortBuf := {}
  w : PortBuf := {}
  /-- Block length at a DECODE_MISS stop (R189, R190). -/
  missLen : Nat := 0
  /-- Flits that sresume.skip has still to discard (R190). -/
  skip : Nat := 0
deriving DecidableEq, Repr, Inhabited

/-- A side-information entry (R180). -/
structure SideEntry where
  flow : Nat := 0
  seq : Nat := 0
  addr : Nat := 0
  len : Nat := 0
  valid : Bool := false
deriving DecidableEq, Repr, Inhabited

/-! ### Matrix unit -/

/-- The states of an operand latch (R198). -/
inductive LatchState
  | free | armed | filling | full | forwarding
deriving DecidableEq, Repr, Inhabited

/-- An operand latch (R198-R200). -/
structure Latch where
  st : LatchState := .free
  ring : Bool := false
  flits : List Flit := []
  size : Nat := 0
  byMlb : Bool := false
  /-- Flits that have left on F while forwarding, and the cycle the forwarding began (R200). -/
  fwd : Nat := 0
  fwdBegin : Nat := 0
  /-- The consuming instruction still executes (R198). -/
  inUse : Bool := false
  /-- The cycle from which a change made in the cycle before counts (R198). -/
  since : Nat := 0
deriving DecidableEq, Repr, Inhabited

/-- An issued matrix instruction with the operands it took at issue (R201). -/
structure MatOp where
  strand : Fin 8
  instr : Instr
  pc : W64
  a : W64
  v : V512
  rm : Nat
  fmt8 : Nat
  /-- The words it popped at issue and SSTAT before, given back when it traps, and where its result goes (R165). -/
  popped : List (Fin 8 × List QEntry)
  sstat : W64
  dest : Dest
deriving DecidableEq, Repr

/-- The executing matrix instruction, from cycle `start` for `dur` cycles, the local bytes it has read, and the bytes that an
mst's granules have replaced, newest first (R203, R213). -/
structure MatRun where
  op : MatOp
  start : Nat
  dur : Nat
  fwd : Bool
  read : List Byte
  undo : List (Nat × List Byte) := []
deriving DecidableEq, Repr

/-- The matrix unit of a tile (R192-R213). -/
structure Matrix where
  latch : Vector Latch 2 := Vector.replicate 2 {}
  /-- Armed latches, earliest armed first (R199). -/
  armOrder : List (Fin 2) := []
  /-- Latches whose blocks leave on F, first to leave first, and the cycle of the last departure (R200). -/
  fwdOrder : List (Fin 2) := []
  lastF : Option Nat := none
  queue : List MatOp := []
  run : Option MatRun := none
  /-- No instruction begins before this cycle (R201, R213, R426). -/
  beginFrom : Nat := 0
  /-- Window accesses that wait for an accumulator block, with its number (R193). -/
  accWait : List (Waiter × Nat) := []
  atag : Vector (BitVec 16) 16 := Vector.replicate 16 0
  tagv : Vector Bool 16 := Vector.replicate 16 false
  step : Vector (BitVec 8) 16 := Vector.replicate 16 0
  /-- MSTAT as it stood at the end of the last cycle (R212). -/
  seen : W64 := 0
deriving DecidableEq, Repr, Inhabited

/-! ### Tile engine -/

/-- The state of a tile engine (R293). -/
inductive EngState
  | idle | running | waiting | error
deriving DecidableEq, Repr, Inhabited

/-- A request handed to a shared engine (R282, R308, R314). -/
inductive Shared
  | none
  /-- The contribution has been handed over to the collective with this identity. -/
  | collective (id : Nat)
  | sorusWaiting
  /-- The Sorus sampler serves the request; once computed, its result bytes and gd. -/
  | sorusRunning (out : Option (List Byte × Nat))
  /-- The result of collective `id` is being delivered. -/
  | writing (id : Nat) (out : List Byte)
  /-- Finished with error code `err`, EFAULT `efault` and result `gd`. -/
  | answered (err : Nat) (efault : W64) (gd : Nat)
deriving DecidableEq, Repr

/-- A tile engine hart with its job queue, mailbox and state (R282-R293). -/
structure Engine where
  r : Regs := {}
  state : EngState := .idle
  /-- The kick word of the running job and its descriptor as read at start (R289). -/
  job : Option W64 := none
  desc : List Byte := []
  /-- Another descriptor that the running instruction names, with its address, once read (R297). -/
  other : Option (Nat × List Byte) := none
  progress : Nat := 0
  /-- Units the running instruction has issued, those it has finished among them (R293, R304). -/
  next : Nat := 0
  /-- Bytes read for the unit in hand, and how many of them this attempt has used already (R304, R310). -/
  buf : List Byte := []
  used : Nat := 0
  /-- Read-ahead data: position of the piece, source address, bytes (R303). -/
  ahead : List (Nat × W64 × List Byte) := []
  /-- An edrain has taken its last flit (R300). -/
  last : Bool := false
  /-- gd of the engine-only instruction (R292). -/
  result : W64 := 0
  /-- The job is ending with this code and EFAULT (R292). -/
  ending : Option (Nat × W64) := none
  queue : List W64 := []
  done : Nat := 0
  kicks : Nat := 0
  tag : Nat := 0
  err : Nat := 0
  errorBit : Bool := false
  idleBit : Bool := true
  efault : W64 := 0
  shared : Shared := .none
  /-- Handles to be taken again after a restore (R284). -/
  retake : List (Fin 8) := []
deriving DecidableEq, Repr

/-! ### Tile -/

/-- A translation-cache entry (R234). -/
structure TlbEntry where
  ctx : Nat
  page : Nat
  size : Nat
  pa : Nat
  w : Bool
  dirty : Bool
  pinned : Bool
deriving DecidableEq, Repr

/-- What a tile knows of the group it holds (R16, R223). -/
structure Group where
  lnum : Nat
  rank : Nat
  /-- Tile index within the region, and the region: die, origin tile, width and height. -/
  index : Nat
  origin : Nat
  w : Nat
  h : Nat
  args : W64
  gidx : Nat × Nat × Nat
  gdim : Nat × Nat × Nat
  ctx : Nat
  dur : Nat
  mask : BitVec 8
  gang : Bool
  standing : Bool
  latency : Bool
  det : Bool
deriving DecidableEq, Repr, Inhabited

/-- A party that wants a bank (R265). -/
inductive BankParty
  | switch
  | strand (k : Fin 8)
  | engine
  | window (w : Waiter)
deriving DecidableEq, Repr

/-- A party that waits for a bank: since which cycle, and the cycle it last asked in (R117, R265). -/
structure BankWait where
  party : BankParty
  bank : Fin 16
  since : Nat
  asked : Nat
deriving DecidableEq, Repr

/-- A tile (R10). -/
structure Tile where
  group : Option Group := none
  /-- The clock runs (R27, R373). -/
  running : Bool := false
  /-- The group has been stopped for a freeze (R373). -/
  stopped : Bool := false
  cycle : Nat := 0
  rotation : Fin 8 := 7
  strands : Vector Strand 8 := Vector.ofFn fun k => { r := { pc := BitVec.ofNat 64 (4 * k.val) } }
  lm : Mem := []
  acc : Mem := []
  imem : Mem := []
  smem : Mem := []
  inQ : Vector (List QEntry) 8 := Vector.replicate 8 []
  outQ : Vector (List QEntry) 8 := Vector.replicate 8 []
  /-- Position the next word pushed to an output queue takes (R163). -/
  outPos : Vector (Fin 4) 8 := Vector.replicate 8 0
  binds : Vector (Option Bind) 8 := Vector.replicate 8 none
  bars : Vector Barrier 32 := Vector.replicate 32 {}
  sw : Switch := {}
  side : Vector SideEntry 64 := Vector.replicate 64 {}
  /-- Numbers of the valid side entries, oldest first (R181). -/
  sideOrder : List (Fin 64) := []
  mx : Matrix := {}
  /-- Cycles of the current 64-cycle window in which an instruction issued (R426). -/
  windowIssues : Nat := 0
  /-- The divider is busy before this cycle (R101). -/
  dividerUntil : Nat := 0
  /-- Each bank is held before this cycle (R265). -/
  bankUntil : Vector Nat 16 := Vector.replicate 16 0
  /-- Who waits for a bank (R265). -/
  bankWait : List BankWait := []
  /-- The cycle and address of the matrix unit's latest claim of a bank (R203), and the amos through the window that have had
the first of their two cycles: since which cycle they want the bank, and which cycle that was (R250). -/
  matrixAt : Option (Nat × Nat) := none
  amoAt : List (Waiter × Nat × Nat) := []
  /-- The cycle in which the switch holds a bank for its decoding read, and the address it reads (R185, R265). -/
  decodeAt : Option (Nat × Nat) := none
  /-- Ranges that strands and the matrix unit have written in this cycle (R182). -/
  wrote : List (Nat × Nat) := []
  /-- Accumulator blocks that have served a window access in this cycle (R265). -/
  accServed : List Nat := []
  /-- 32-bit words of local memory and of the accumulators with an uncorrectable error (R366). -/
  badLm : List Nat := []
  badAcc : List Nat := []
  /-- Accumulators whose residue does not match (R213, R365). -/
  accResidue : List Nat := []
  /-- The tile's windows have been taken out of its group's context for a freeze: an access that waits here fails
  (R373 step 3). -/
  unmapped : Bool := false
  tlb : List TlbEntry := []
  eng : Engine := {}
deriving DecidableEq, Repr

/-! ### Dies -/

/-- The management hart of a compute die (R424). -/
structure Mgmt where
  r : Regs := {}
  running : Bool := false
  cycle : Nat := 0
  mhval : W64 := 0
  mhstat : W64 := 0
deriving DecidableEq, Repr

/-- A cluster of a compute die (R429). -/
structure Cluster where
  cmd : Nat := 0
  autowake : Bool := false
  /-- 0 ACTIVE, 1 QUIESCED, 2 SAVED, 3 GATED, 4 POWERED. -/
  st : Nat := 0
  busy : Option Nat := none
  err : Nat := 0
  errv : Bool := false
  wakereq : Bool := false
  /-- A wake request has not been looked at yet, and the waiting accesses that have made theirs (R432). -/
  wake : Bool := false
  asked : List Waiter := []
  trans : Nat := 0
  rslot : Nat := 0
  pbase : Nat := 0
  /-- An automatic UNGATE is followed by RESTORE (R429), and the dispatcher cycle in which the cluster last became QUIESCED
  (R433). -/
  restoreNext : Bool := false
  quietAt : Nat := 0
deriving DecidableEq, Repr

/-- A request at the Sorus sampler of a die: the tile whose engine made it (R309). -/
abbrev SorusReq := Nat

/-- A fault waiting for room in the fault queue, as its 256-bit record without its sequence number (R367). -/
structure PendingRecord where
  hart : HartId
  record : Nat
deriving DecidableEq, Repr

/-- The die controller of a compute die (R220). -/
structure Die where
  fqTail : Nat := 0
  fqHead : Nat := 0
  fqNextSeq : Nat := 0
  fq : Tab Nat := []
  /-- Context and launch number of every record written, by its sequence number (R370). -/
  fqKeys : Tab (Nat × Nat) := []
  faultWait : List PendingRecord := []
  /-- Microcode that firmware has written since boot stage 2 loaded the image of R285; none: that image. -/
  microcode : Option Mem := none
  /-- The management hart's program as firmware has written it since boot stage 2 loaded one (R424, R436); none: that one. -/
  progMem : Option Mem := none
  mgmt : Mgmt := {}
  clusters : Vector Cluster 4 := Vector.replicate 4 {}
  duty : Nat := 64
  issueCap : Nat := 64
  pread : Nat := 0
  /-- Consecutive recomputations at the floor above the allowance, at most 2; the die is held there; a group has left it or
  finished since the last recomputation (R428). -/
  floorCount : Nat := 0
  floorHeld : Bool := false
  floorLeft : Bool := false
  /-- Correctable errors of local memory and accumulators (R440). -/
  errLocal : Nat := 0
  errAcc : Nat := 0
  dbgen : Bool := false
  halt : Bool := false
  halted : Bool := false
  sorusQ : List SorusReq := []
  sorusRun : Option SorusReq := none
  /-- The registers of the collective engine's hart and the Sorus sampler's (R282), which have no stated reset value: zero. DESIGN
  CHOICE, log 102. -/
  coll : Regs := {}
  sorus : Regs := {}
deriving DecidableEq, Repr

/-- A change of a leaf that waits for accesses translated before it (R237): the context and address, and the accesses that
are still outstanding. -/
structure Revoking where
  ctx : Nat
  va : Nat
  left : List (HartId × Nat)
deriving DecidableEq, Repr

/-- A page that the loader or firmware moves (R237, R241): its context, base and size, the slot of its leaf and the leaf it
will have, the old and the new frame, and the accesses translated before that are still outstanding. -/
structure Move where
  ctx : Nat
  page : Nat
  size : Nat
  slot : Nat
  leaf : Nat
  old : Nat
  new : Nat
  left : List (HartId × Nat)
deriving DecidableEq, Repr

/-- A watch trigger (R253). -/
structure Watch where
  line : Nat := 0
  val : W64 := 0
  mask : W64 := 0
  recno : Nat := 0
  queue : Nat := 0
  en : Bool := false
  oneshot : Bool := false
  any : Bool := false
  first : Nat := 0
  last : Nat := 0
  ctx : Nat := 0
  pending : Bool := false
  overflow : Bool := false
  fires : Nat := 0
  /-- Firings on their way to the queue (the model's own). -/
  due : Nat := 0
deriving DecidableEq, Repr, Inhabited

/-- A seam selector and the lane it drives (R395, R397). -/
structure Selector where
  en : Bool := false
  side : Nat := 0
  lane : Nat := 0
  term : Bool := false
  credit : Nat := 0
  flits : Nat := 0
  /-- Flits in the lane, oldest first, and cycles at which a credit comes back. -/
  path : List Flit := []
  returns : List Nat := []
  /-- Resends in a row, and the cycle in which the flit resent last arrives (R416, R417). -/
  resends : Nat := 0
  resentTo : Nat := 0
deriving DecidableEq, Repr, Inhabited

/-- The control block of a cache die (R220). -/
structure CacheDie where
  watches : Vector Watch 16 := Vector.replicate 16 {}
  sels : Vector Selector 48 := Vector.replicate 48 {}
  errSlice : Nat := 0
  errHbm : Nat := 0
deriving DecidableEq, Repr

/-! ### Hub: dispatcher, host link, ports, power, root of trust -/

/-- A launch queue (R319). -/
structure LQueue where
  qbase : Nat := 0
  size : Nat := 0
  qhead : Nat := 0
  qtail : Nat := 0
  en : Bool := false
  det : Bool := false
  prio : Nat := 0
  latclass : Nat := 0
  slot : Nat := 0xFF
  eth : Bool := false
  quant : Nat := 0
  port : Nat := 0
  flow : Nat := 0
  bellerr : Bool := false
  stlost : Bool := false
  refused : Nat := 0
deriving DecidableEq, Repr, Inhabited

/-- A model slot (R338). -/
structure Slot where
  image : W64 := 0
  w : Nat := 0
  h : Nat := 0
  ctx : Nat := 0
  standing : Nat := 0
  st : Nat := 0
  sstart : Nat := 0
  sfreeze : Nat := 0
  /-- Origins of its standing regions (tile numbers), and the power reserved (R427). -/
  regions : List Nat := []
  power : Nat := 0
  /-- The resident image (R338). -/
  loaded : List Byte := []
deriving DecidableEq, Repr, Inhabited

/-- A launch record's fields (R324). -/
structure Record where
  detReq : Bool := false
  gang : Bool := false
  split : Bool := false
  standing : Bool := false
  ctx : Nat := 0
  slot : Nat := 0xFF
  prio : Nat := 0
  image : W64 := 0
  args : W64 := 0
  nx : Nat := 1
  ny : Nat := 1
  nz : Nat := 1
  order : Nat := 0
  deps : List (Int × Int × Int) := []
  wait0 : Option (Nat × Nat) := none
  wait1 : Option (Nat × Nat) := none
  done : Option (Nat × Nat) := none
  dur : Nat := 0
  latclass : Nat := 0
  bwclass : Nat := 0
  gangSize : Nat := 0
  w : Nat := 1
  h : Nat := 1
  saveMask : Nat := 0
  status : W64 := 0
deriving DecidableEq, Repr, Inhabited

/-- A group of a launch that is placed: rank, origin tile, whether its clocks have started, the dispatcher cycle
of its latest start and of its quantum's, and the freeze it is asked for (R345, R372). `restoring`: it is to be
restored from a frame, not loaded. -/
structure Placed where
  rank : Nat
  origin : Nat
  started : Bool
  startedAt : Nat
  quantumAt : Nat
  freezeAsked : Bool
  restoring : Bool
  /-- Its windows are unmapped, and the accesses translated before that are still outstanding (R373 step 3). -/
  unmapped : Option (List (HartId × Nat)) := none
  /-- The loader has looked for pages to move to its domain (R239). -/
  paged : Bool := false
  /-- The latency launch that it is asked to freeze for, whose reserved frames it takes (R335, R336). -/
  by_ : Option Nat := none
deriving DecidableEq, Repr

/-- A frozen group: its rank and the address of its frame, with the saved device-internal state (R374). -/
structure Frozen where
  rank : Nat
  frame : Nat
  /-- The tiles as they stood when the region was released, the device-internal part of the frame. -/
  tiles : List Tile
  /-- Joined-lane flits are part of each tile's saved ports (R400): per tile and port. -/
  lanes : List (Nat × List Flit)
deriving DecidableEq, Repr

/-- How a launch is ending (R343): STATE, CODE, DETAIL, EPC, EVAL, WHERE. -/
structure Ending where
  st : Nat
  code : Nat
  detail : W64
  epc : W64
  eval : W64
  where_ : Nat
deriving DecidableEq, Repr

/-- An admitted launch (R326-R346). -/
structure Launch where
  lnum : Nat
  r : Record
  queue : Nat
  prio : Nat
  slot : Option Nat
  det : Bool
  /-- In the active set, or on the waiting list (R342). -/
  active : Bool
  satisfied : Bool
  /-- Order in which the waits were satisfied (R342). -/
  satisfiedSeq : Nat
  /-- Ranks below are retired; the retired ranks at or above it (R330). -/
  base : Nat := 0
  retired : List Nat := []
  placed : List Placed := []
  frozen : List Frozen := []
  /-- MBOX of the lowest-ranked group that finished with its engine in error (R343). -/
  engFault : Option (Nat × W64) := none
  ending : Option Ending := none
  voided : Bool := false
  taccept : Nat := 0
  tstart : Nat := 0
  /-- Save-area frames reserved for the groups this latency launch displaces, each as save area and frame (R335). -/
  reserved : List (Nat × Nat) := []
  /-- KEY, HINTS, HINTCOUNT and SAVEAREA of its context's descriptor, read at admission (R323). -/
  key : Nat := 0
  hints : Nat := 0
  hintCount : Nat := 0
  area : Nat := 0
  /-- The dispatcher runs its slices as independent sweeps (R346). -/
  sliced : Bool := false
  /-- The dispatcher cycle in which its number was written to CANCEL (R344). -/
  cancelAt : Option Nat := none
deriving DecidableEq, Repr

/-- A relocation-table entry (R391). -/
structure Reloc where
  lnum : Nat := 0
  die : Nat := 0
  w : Nat := 0
  h : Nat := 0
  valid : Bool := false
  origins : List Nat := []
deriving DecidableEq, Repr, Inhabited

/-- A collective (R305): its fixed fields, its contributions by rank in order of arrival, and how far it has come. -/
structure Collective where
  /-- Its identity (the model's own): a launch and COLL name several collectives one after the other. -/
  id : Nat
  lnum : Nat
  coll : Nat
  count : Nat
  type : Nat
  op : Nat
  arrival : Bool
  rm : Nat
  p : Nat
  /-- Ranks of a slice, in a launch that runs slice by slice; otherwise 0 (R346). -/
  slice : Nat := 0
  contrib : List (Nat × List Nat) := []
  result : Option (List Nat) := none
  failed : Bool := false
  /-- The cycle of the machine in which the result of P contributions is formed: a free, finite time (R275, R308). -/
  due : Nat := 0
  /-- Ranks whose ered has ended in it, and ranks whose ered has still to learn how it ended. -/
  ended : List Nat := []
  waiting : List Nat := []
deriving DecidableEq, Repr

/-- A received record that has been performed and is not complete: its frame and status, the address it was written to, and the
entries that it has posted, as port, ring and number (R412, R413). -/
structure OpenRecord where
  frame : Frame
  status : Nat
  pa : Nat
  posts : List (Nat × Nat × Nat)
deriving DecidableEq, Repr

/-- A peer entry of a port (R410), with the state of the pair (R413-R415). -/
structure Peer where
  pmac : Nat := 0
  pport : Nat := 0
  valid : Bool := false
  st : Nat := 0
  launchok : Bool := false
  incrok : Bool := false
  cbase : Nat := 0
  ccount : Nat := 0
  txseq : Nat := 0
  rxseq : Nat := 0
  /-- The next frame carries RST (R414). -/
  rstNext : Bool := false
  /-- Posted entries still to be sent, as ring and entry, in post order. -/
  pend : List (Nat × Nat) := []
  /-- Unacknowledged frames, oldest first, with the ring and entry they came from. -/
  unacked : List (Frame × Nat × Nat) := []
  /-- The frame with RST that was accepted last, by which its repetition is told. -/
  rstFrame : Option Frame := none
  /-- Stored statuses of received frames, newest first. -/
  statuses : List (Nat × Nat) := []
  rounds : Nat := 0
  /-- The record that has been performed and is not complete (R413). -/
  open_ : Option OpenRecord := none
  /-- Dispatcher cycle of the last progress or round (R415). -/
  since : Nat := 0
deriving DecidableEq, Repr, Inhabited

/-- A receive window (R410). -/
structure Window where
  wbase : Nat := 0
  wlen : Nat := 0
  wpa : Nat := 0
  wen : Bool := false
  wpeers : Nat := 0
deriving DecidableEq, Repr, Inhabited

/-- A send ring (R410). -/
structure Ring where
  rbase : Nat := 0
  size : Nat := 0
  peer : Nat := 0
  ren : Bool := false
  tailpa : Nat := 0
  rhead : Nat := 0
  rfailed : Nat := 0
  /-- The tail of the posts taken (R412), and the posted entries without a status. -/
  posted : Nat := 0
  openEntries : List Nat := []
deriving DecidableEq, Repr, Inhabited

/-- An Ethernet port (R410). -/
structure Port where
  mac : Nat := 0
  en : Bool := false
  linkup : Bool := false
  retry : Nat := 16
  rto : Nat := 20000
  fcserr : Nat := 0
  dups : Nat := 0
  peers : Vector Peer 16 := Vector.replicate 16 {}
  windows : Vector Window 16 := Vector.replicate 16 {}
  rings : Vector Ring 16 := Vector.replicate 16 {}
deriving DecidableEq, Repr

/-- A write of the dispatcher to host memory that a module holds (R407): address and bytes; and, of an outcome status, the
completion increment that is applied once it is made: launch number, counter and value (R272, R343). -/
structure HeldWrite where
  pa : Nat
  data : List Byte
  then_ : Option (Nat × Nat × Nat) := none
deriving DecidableEq, Repr

/-- A host write whose completion is withheld: its module, its address, and port, ring and number of each entry that it has
posted (R412). -/
structure HeldDone where
  m : Nat
  pa : Nat
  posts : List (Nat × Nat × Nat)
deriving DecidableEq, Repr

/-- A write that has reached counter `n` in this dispatcher cycle (R340): its place among the sources (a completion by its
launch number, then the host by module and firmware, then remote increments by port), and what it writes or adds. -/
structure CounterWrite where
  n : Nat
  source : Nat
  add : Bool
  v : Nat
deriving DecidableEq, Repr

/-- The dispatcher and host-link registers of hub die 0 (R318, R408) and the dispatcher's own state. -/
structure Hub where
  en : Bool := false
  latbound : Vector Nat 15 := Vector.replicate 15 0
  queues : Vector LQueue 64 := Vector.replicate 64 {}
  slots : Vector Slot 32 := Vector.replicate 32 {}
  counters : Tab Nat := []
  /-- The writes of dispatcher cycle `writesAt` to counters, in the order of R340, and the values they found; waits have
  not been judged by them yet (R341). -/
  counterWrites : List CounterWrite := []
  counterBefore : Tab Nat := []
  writesAt : Nat := 0
  /-- Context descriptor doublewords, key 8 * context + index (R323). -/
  ctxs : Tab Nat := []
  records : Mem := []
  launches : List Launch := []
  nextLnum : Nat := 1
  satSeq : Nat := 0
  /-- The queue read last among those with LATCLASS above 0 and among the rest (R320), and served last (R332). -/
  lastLat : Nat := 63
  lastOrd : Nat := 63
  lastServed : Nat := 63
  /-- The dispatcher cycles in which a record was last read and a launch last moved (R320). -/
  lastRead : Option Nat := none
  lastMove : Option Nat := none
  reloc : Tab Reloc := []
  colls : List Collective := []
  up : Nat := 0
  irqaddr : Nat := 0
  irqen : Nat := 0
  irqcause : Nat := 0
  /-- Pending causes whose interrupt write has been sent: no other is until the cause is cleared (R409). -/
  irqSent : Nat := 0
  /-- Interrupt writes held because module 0 is down (R407, R409). -/
  irqHeld : List Nat := []
  /-- Writes of the dispatcher to host memory, held because their module is down (R407). -/
  heldWrites : List HeldWrite := []
  /-- Host writes that have been performed and whose completion is withheld (R412, R417). -/
  heldDone : List HeldDone := []
  /-- The dynamic network has failed (R417), or the module has tripped (R443): nothing is admitted. -/
  down : Bool := false
  /-- Links of the dynamic network that have failed, by the numbers of `onRoute` (R417). -/
  cuts : List Nat := []
  /-- Bandwidth sets MIN and WEIGHT of the 16 classes (R229). -/
  bwMin : Vector Nat 16 := Vector.replicate 16 0
  bwWeight : Vector Nat 16 := Vector.replicate 16 0
deriving DecidableEq, Repr

/-- The power arbiter (R425). -/
structure Power where
  pbudget : Nat := 24000000
  preserve : Nat := 0
  pdraw : Nat := 0
  pevent : Nat := 0
  inlet : Nat := 0
  flow : Nat := 0
  /-- Hottest junction seen, and whether the coolant is outside its limits (R443). -/
  junction : Nat := 0
  hot : Bool := false
  /-- PALLOW of the 400 dies; an absent one is firmware's first value. -/
  pallow : Tab Nat := []
  lastRecompute : Nat := 0
deriving DecidableEq, Repr

/-- The root of trust (R436-R439). -/
structure RoT where
  /-- The stage reached, 0-3. -/
  stage : Nat := 0
  recovery : Bool := false
  mr : Vector (List Byte) 8 := Vector.replicate 8 (List.replicate 48 0)
  /-- The debug policy in MR3 permits debug (R439). -/
  debugOk : Bool := false
deriving DecidableEq, Repr

/-- What has gone out of the panel, newest last (R406, R409, R414, R442). -/
inductive Emit
  | readData (m : Nat) (data : List Byte)
  | writeDone (m : Nat)
  | errorCompletion (m : Nat)
  | interrupt (addr cause : Nat)
  | frame (port : Nat) (mac : Nat) (bytes : List Byte)
  | report (hpa : Nat) (data : List Byte)
  | smbus (stage pdraw pevent junction inlet flow : Nat)
  | jtag (v : Nat)
  /-- The host is told which line has been marked failed (R366). -/
  | failedLine (pa : Nat)
  /-- A change of the leaf of a page is reported as done (R237). -/
  | revoked (ctx va : Nat)
deriving DecidableEq, Repr

/-- The parts of a cycle, in the order they are taken (R172, R265). -/
inductive SlotKind
  | matrixEnd (t : TileNo)
  | matrixEarly (t : TileNo)
  /-- The switch's read of the held block is ranked first at its bank (R185, R265). -/
  | decodeClaim (t : TileNo)
  /-- The granules of gathers and scatters under way, and the second cycles of local amos (R142, R250). -/
  | gathers (t : TileNo)
  | issue (t : TileNo)
  /-- The arbiter's turn for one strand (R159); the late turns are those of strands at an sbwait (R172), lined up where
  `waitLate` stands. -/
  | attempt (t : TileNo) (k : Fin 8)
  | waitLate (t : TileNo)
  | lateAttempt (t : TileNo) (k : Fin 8)
  /-- The switch's arrival at a barrier (R172), and its other words. -/
  | signal (t : TileNo)
  | switch (t : TileNo)
  | sinj (t : TileNo)
  | matrixLate (t : TileNo)
  | engine (t : TileNo)
  /-- The end of a tile's cycle: CYCLE advances (R16). -/
  | clock (t : TileNo)
  | mgmt (d : DieNo)
  /-- A hart's held access is walked, or one of its outstanding accesses goes on. -/
  | walk (h : HartId)
  | access (h : HartId) (id : Nat)
  /-- Corrections of single-bit errors are counted (R440). -/
  | ecc
  | sorus (d : DieNo)
  | faultq (d : DieNo)
  | watch (c : DieNo)
  | seam (c : DieNo)
  | cluster (d : DieNo) (k : Fin 4)
  | links (p : Fin 32)
  | power
  /-- Changes of leaves whose accesses have completed are done (R237). -/
  | revocations
  /-- The place of the window stores of events to barrier words, +0 and +8, and its end (R172). -/
  | windowStores (high : Bool)
  | windowEnd (high : Bool)
  /-- Results of collectives whose contributions are in (R308). -/
  | collectives
  /-- Die-controller firmware resolves the faults that are its own (R236). -/
  | firmware (d : DieNo)
  | dispatcher (phase : Fin 8)
deriving DecidableEq, Repr

/-- The whole machine. -/
structure State where
  /-- The core hart whose instruction `exec` runs, and the tile whose switch word it runs (the model's own). -/
  hart : HartId := .strand 0 0
  swTile : TileNo := 0
  /-- Events that wait to be taken, and events put off until something changes (the model's own). -/
  inputs : List Instr := []
  deferred : List Instr := []
  /-- The slots left in this cycle (the model's own). -/
  todo : List SlotKind := []
  /-- Tile cycles since power-on (R6). -/
  now : Nat := 0
  /-- Free values used so far (the model's own). -/
  fresh : Nat := 0
  emitted : List Emit := []
  mem : Mem := []
  hostMem : Mem := []
  /-- The key under which each HBM line was last written, and regenerations of each key index (R228, R438). -/
  lineEpoch : Tab Nat := []
  keyEpoch : Tab Nat := []
  failedLines : List Nat := []
  /-- Changes of leaves that are not yet done, and pages that are being moved (R237, R241). -/
  revoking : List Revoking := []
  moves : List Move := []
  keyMap : Tab Nat := []
  tiles : Tab Tile := []
  dies : Tab Die := []
  caches : Tab CacheDie := []
  ports : Tab Port := []
  hub : Hub := {}
  power : Power := {}
  rot : RoT := {}
deriving DecidableEq, Repr

/-- The machine right after power-on: every field at its default above, no group placed, nothing in memory, and
the boot of R436 about to run by itself. -/
def State.reset : State := { inputs := [.powerOnBoot] }

end Sys2Proof.Machine
end

