-- ==== Sys2Proof/Machine/Mem.lean ====
section
/-! DEFINITION. Sparse tables and byte memories: reading, writing, their canonical form. Every wider access is
built here from bytes, little-endian (R4). -/
namespace Sys2Proof.Machine

/-- The entry of a table, or its default. -/
def tabGet {α : Type} (d : α) (k : Nat) : Tab α → α
  | [] => d
  | (j, x) :: r => if j = k then x else tabGet d k r

/-- Set an entry, keeping keys rising. -/
def tabSet {α : Type} (k : Nat) (x : α) : Tab α → Tab α
  | [] => [(k, x)]
  | (j, y) :: r => if k < j then (k, x) :: (j, y) :: r else if k = j then (k, x) :: r else (j, y) :: tabSet k x r

/-- The byte at an address; an unlisted address reads as zero. -/
def memGet (m : Mem) (a : Nat) : Byte := tabGet 0 a m

/-- Write one byte, keeping the canonical form: a zero byte is not listed. -/
def memSet (m : Mem) (a : Nat) (b : Byte) : Mem :=
  if b = 0 then m.filter (fun c => c.1 != a) else tabSet a b m

/-- The canonical form: addresses strictly rising, no listed byte zero. -/
def Mem.wf : Mem → Bool
  | [] => true
  | [c] => c.2 != 0
  | c :: d :: r => c.2 != 0 && c.1 < d.1 && Mem.wf (d :: r)

/-- The `n` bytes from address `a`. -/
def memBytes (m : Mem) (a : Nat) : Nat → List Byte
  | 0 => []
  | n + 1 => memGet m a :: memBytes m (a + 1) n

/-- The little-endian value of `n` bytes from address `a` (R4). -/
def memRead (m : Mem) (a n : Nat) : Nat := leVal (memBytes m a n)

/-- Write bytes from address `a` in increasing order. -/
def memWrite (m : Mem) (a : Nat) : List Byte → Mem
  | [] => m
  | b :: bs => memWrite (memSet m a b) (a + 1) bs

/-- Set `n` bytes from `a` to zero. -/
def memZero (m : Mem) (a n : Nat) : Mem := m.filter (fun c => !(a ≤ c.1 && c.1 < a + n))

/-- The elements of a list selected by position, or a default. -/
def listSet {α : Type} (k : Nat) (x : α) : List α → List α
  | [] => []
  | y :: r => match k with
    | 0 => x :: r
    | k + 1 => y :: listSet k x r

/-- Sign extension of the low `w` bits of `x` (04). -/
def sextN (w : Nat) (x : W64) : W64 := (x.setWidth w).signExtend 64

/-- Zero extension of the low `w` bits of `x` (04). -/
def zextN (w : Nat) (x : W64) : W64 := (x.setWidth w).setWidth 64

/-- A field of a natural number as a vector of 64 bits. -/
def w64 (n : Nat) : W64 := BitVec.ofNat 64 n

/-- Bytes of a size (R5). -/
def sizeBytes : Size → Nat
  | .b => 1 | .h => 2 | .w => 4 | .d => 8

end Sys2Proof.Machine
end

