-- ==== Sys2Proof/Machine/Header.lean ====
section
/-! DEFINITION. Block headers (R87-R89). -/
namespace Sys2Proof.Machine

/-- K of a format in a block header, where R87 gives one. -/
def formatK (f : Nat) : Option Nat :=
  if f = 1 || f = 2 then some 32
  else if (0x10 ≤ f && f ≤ 0x2F && f % 8 ≠ 7) || f = 0x30 || f = 0x31 then some 64
  else none

/-- The header passes R89 for a consumer that accepts every format with a K. -/
def headerOk (h : Nat) : Bool :=
  match formatK (bits h 0 8) with
  | some k => bits h 8 8 == k && bits h 16 8 == 32 && bits h 26 6 == 0 && h < 2 ^ 128
  | none => false

/-- Flits of the block of a header that passes R89 (R88). -/
def blockLen (h : Nat) : Nat := 65 + (if bit h 24 then bits h 8 8 / 32 else 0)

/-- Replace the field of `n` bits at `lo`. -/
def putField (w lo n v : Nat) : Nat := w - bits w lo n * 2 ^ lo + v % 2 ^ n * 2 ^ lo

/-- Flow id, sequence and partner fields of a header (R87). -/
def hdrFlow (h : Nat) : Nat := bits h 48 16
/-- Block sequence (R87). -/
def hdrSeq (h : Nat) : Nat := bits h 64 32
/-- Partner flow (R87). -/
def hdrPartner (h : Nat) : Nat := bits h 96 16
/-- Partner sequence (R87). -/
def hdrPartnerSeq (h : Nat) : Nat := bits h 112 16
/-- Coded bit (R87). -/
def hdrCoded (h : Nat) : Bool := bit h 25

end Sys2Proof.Machine
end

