-- ==== Sys2Proof/Config.lean ====
section
/-! DEFINITION. The free values: what the manual leaves open, each an opaque constant, so that nothing proved of
the model rests on a number. Those with a first argument `n` are applied to the counter `State.fresh`. -/
namespace Sys2Proof

/-- Data read from a line whose key has been regenerated since it was written (R438). -/
opaque Config.staleByte (pa epoch : Nat) : Byte
/-- How many units beyond the one in hand an engine reads ahead now; 0: none (R303). -/
opaque Config.readAhead (n : Nat) : Nat
/-- Cycles until an access reaches its target, or a party outside the tile's clock acts: a free, finite time (R275, R389,
R3). -/
opaque Config.delay (n : Nat) : Nat
/-- Where the dispatcher places a region: a tile number to begin the search at (R333). -/
opaque Config.origin (n : Nat) : Nat
/-- The dispatcher runs a split-allowed launch slice by slice (R346). -/
opaque Config.sliced (n : Nat) : Bool
/-- Virtual pages that a group will touch, as the loader knows them (R239). -/
opaque Config.touched (n : Nat) : List Nat
/-- A frame of HBM that firmware holds free, for a page or a table (R239, R240). -/
opaque Config.frame (n : Nat) : Nat
/-- The counters that count a correction in a cycle: number of a compute die (0-199) or 200 and that of a cache die, and
whether it is the block's second counter (R366, R440). -/
opaque Config.corrections (n : Nat) : List (Nat × Bool)
/-- Power drawn by a die at the floor caps, in mW (R443). -/
opaque Config.floorDraw (die : Nat) : Nat
/-- The signed bytes of a boot image's header, which encode its fields (R436). -/
opaque Config.bootHeader (magic stage svn len : Nat) (rsaKey slhKey : List Byte) : List Byte
/-- The management-hart program that boot stage 2 loads into every die (R424, R436). -/
opaque Config.mgmtProgram : List Byte
/-- SSTART and SFREEZE of a loaded model slot, computed by firmware (R338). -/
opaque Config.sstart (n : Nat) : BitVec 32
/-- See `Config.sstart`. -/
opaque Config.sfreeze (n : Nat) : BitVec 32
/-- Power that standing regions need at full duty, in mW (R427). -/
opaque Config.slotPower (tiles : Nat) : Nat
/-- Power drawn by every die at the floor caps, in mW (R425). -/
opaque Config.pfloor : BitVec 32
/-- Allowance of a die, in mW (R425). -/
opaque Config.pallow (n die : Nat) : BitVec 32
/-- Draw of a die, in mW (R426). -/
opaque Config.draw (n die : Nat) : BitVec 32
/-- The two caps a power agent chooses, DUTY and ISSUE, before clamping to 8-64 (R426). -/
opaque Config.duty (n die : Nat) : Nat
/-- See `Config.duty`. -/
opaque Config.issueCap (n die : Nat) : Nat
/-- SHA-384 of a byte string (R436, R437), as its 48 bytes. -/
opaque Config.sha384 (m : List Byte) : BitVec 384
/-- The verification of RSASSA-PSS and SLH-DSA-SHA2-192s signatures (R436). -/
opaque Config.rsaVerify (key msg sig : List Byte) : Bool
/-- See `Config.rsaVerify`. -/
opaque Config.slhVerify (key msg sig : List Byte) : Bool
/-- The fused hashes of the two public keys and the fused security version (R436). -/
opaque Config.fusedRsa : BitVec 384
/-- See `Config.fusedRsa`. -/
opaque Config.fusedSlh : BitVec 384
/-- See `Config.fusedRsa`. -/
opaque Config.fusedSvn : Nat
/-- The debug policy provisioned in the module (R437, R439). -/
opaque Config.debugPolicy : Bool
/-- The fuse state and debug policy as MR3 receives them (R437). -/
opaque Config.fuseState : List Byte
/-- The measured ROM (R437). -/
opaque Config.romDigest : List Byte
/-- The images in the module's flash, 1 that of stage 1 and 2 to 5 those of stage 2: whether each is accepted, and its digest
(R436). `n` indexes the free value. -/
opaque Config.flashOk (n stage : Nat) : Bool
/-- See `Config.flashOk`. -/
opaque Config.flashDigest (n stage : Nat) : List Byte
/-- The device identity and the two attestation signatures over a report (R437). -/
opaque Config.identity : List Byte
/-- See `Config.identity`. -/
opaque Config.rsaSign (msg : List Byte) : List Byte
/-- See `Config.identity`. -/
opaque Config.slhSign (n : Nat) (msg : List Byte) : List Byte
/-- Bytes of the device-internal ranges of a saved tile area (R446). -/
opaque Config.internalByte (n off : Nat) : Byte
/-- The logic rail reaches its level within 1 ms (R431). -/
opaque Config.railOk (n : Nat) : Bool
/-- The link of the dynamic network that fails, by the numbers of the model's `onRoute` (R389, R417). -/
opaque Config.failedLink (n : Nat) : Fin 760
/-- The result of a residue check or SECDED scan of a retention area: no uncorrectable error (R431). -/
opaque Config.scanOk (n : Nat) : Bool

end Sys2Proof
end

