-- ==== Sys2Proof/Machine/Access.lean ====
section
/-! DEFINITION. The named parts of the state: tiles, dies, ports, harts, and the updates of each. -/
namespace Sys2Proof.Machine

/-- The compute die of a tile. -/
def tileDie (t : TileNo) : DieNo := ⟨t.val / 144, by omega⟩
/-- The tile index 0-143 on its die. -/
def tileIdx (t : TileNo) : Nat := t.val % 144
/-- The tile of a number. -/
def tileOf (n : Nat) : TileNo := ⟨n % 28800, Nat.mod_lt _ (by decide)⟩
/-- The die of a number. -/
def dieOf (n : Nat) : DieNo := ⟨n % 200, Nat.mod_lt _ (by decide)⟩
/-- A strand number. -/
def fin8 (n : Nat) : Fin 8 := ⟨n % 8, Nat.mod_lt _ (by decide)⟩

/-- Column and row of a compute die's site (R2). -/
def dieSite (d : Nat) : Nat × Nat := (2 * (d % 10) + (d / 10) % 2, d / 10)
/-- Column and row of a cache die's site: the odd site of the pair (R226). -/
def cacheSite (c : Nat) : Nat × Nat := (2 * (c % 10) + (c / 10 + 1) % 2, c / 10)
/-- Memory domain of a site (R2). -/
def siteDomain (p : Nat × Nat) : Nat := 2 * (p.2 / 10) + p.1 / 10
/-- Memory domain of a compute die (R2). -/
def dieDomain (d : Nat) : Nat := siteDomain (dieSite d)

/-- A tile. -/
def State.tile (s : State) (t : TileNo) : Tile := tabGet {} t.val s.tiles
/-- Replace a tile. -/
def State.setTile (s : State) (t : TileNo) (x : Tile) : State := { s with tiles := tabSet t.val x s.tiles }
/-- Change a tile. -/
def State.modTile (s : State) (t : TileNo) (f : Tile → Tile) : State := s.setTile t (f (s.tile t))
/-- A compute die's controller. -/
def State.die (s : State) (d : DieNo) : Die := tabGet {} d.val s.dies
/-- Replace a die controller. -/
def State.setDie (s : State) (d : DieNo) (x : Die) : State := { s with dies := tabSet d.val x s.dies }
/-- Change a die controller. -/
def State.modDie (s : State) (d : DieNo) (f : Die → Die) : State := s.setDie d (f (s.die d))
/-- A cache die. -/
def State.cache (s : State) (c : DieNo) : CacheDie := tabGet {} c.val s.caches
/-- Replace a cache die. -/
def State.setCache (s : State) (c : DieNo) (x : CacheDie) : State := { s with caches := tabSet c.val x s.caches }
/-- Change a cache die. -/
def State.modCache (s : State) (c : DieNo) (f : CacheDie → CacheDie) : State := s.setCache c (f (s.cache c))
/-- An Ethernet port. -/
def State.port (s : State) (p : Nat) : Port := tabGet {} p s.ports
/-- Change an Ethernet port. -/
def State.modPort (s : State) (p : Nat) (f : Port → Port) : State :=
  { s with ports := tabSet p (f (s.port p)) s.ports }
/-- Change the hub. -/
def State.modHub (s : State) (f : Hub → Hub) : State := { s with hub := f s.hub }
/-- A strand of a tile. -/
def State.strandAt (s : State) (t : TileNo) (k : Fin 8) : Strand := (s.tile t).strands[k]
/-- Change a strand of a tile. -/
def State.modStrand (s : State) (t : TileNo) (k : Fin 8) (f : Strand → Strand) : State :=
  s.modTile t fun x => { x with strands := x.strands.set k (f x.strands[k]) }

/-- The registers of a hart. -/
def State.regsOf (s : State) : HartId → Regs
  | .strand t k => (s.strandAt t k).r
  | .engine t => (s.tile t).eng.r
  | .mgmt d => (s.die d).mgmt.r

/-- Change the registers of a hart. -/
def State.modRegsOf (s : State) (h : HartId) (f : Regs → Regs) : State :=
  match h with
  | .strand t k => s.modStrand t k fun x => { x with r := f x.r }
  | .engine t => s.modTile t fun x => { x with eng := { x.eng with r := f x.eng.r } }
  | .mgmt d => s.modDie d fun x => { x with mgmt := { x.mgmt with r := f x.mgmt.r } }

/-- The registers of the hart whose instruction runs. -/
def State.regs (s : State) : Regs := s.regsOf s.hart
/-- Change the registers of the hart whose instruction runs. -/
def State.modRegs (s : State) (f : Regs → Regs) : State := s.modRegsOf s.hart f

/-- The cycle count by which a hart's times are kept. -/
def State.cycleOf (s : State) : HartId → Nat
  | .strand t _ => (s.tile t).cycle
  | .engine t => (s.tile t).cycle
  | .mgmt d => (s.die d).mgmt.cycle

/-- The current cycle of the running hart. -/
def State.cyc (s : State) : Nat := s.cycleOf s.hart

/-- The tile of a hart; a management hart belongs to none, and its die's tile 0 stands in. -/
def hartTile : HartId → TileNo
  | .strand t _ => t
  | .engine t => t
  | .mgmt d => ⟨d.val * 144, by omega⟩

/-- The die of a hart. -/
def hartDie : HartId → DieNo
  | .strand t _ => tileDie t
  | .engine t => tileDie t
  | .mgmt d => d

/-- The hart is a strand. -/
def hartIsStrand : HartId → Bool
  | .strand .. => true
  | _ => false

/-- The tile of the running hart. -/
def State.myTile (s : State) : Tile := s.tile (hartTile s.hart)
/-- Change the tile of the running hart. -/
def State.modMyTile (s : State) (f : Tile → Tile) : State := s.modTile (hartTile s.hart) f

/-- The running strand; a hart that is no strand has none, and strand 0's reset data stands in. -/
def State.me (s : State) : Strand :=
  match s.hart with
  | .strand t k => s.strandAt t k
  | _ => {}

/-- Change the running strand; no effect for a hart that is none. -/
def State.modMe (s : State) (f : Strand → Strand) : State :=
  match s.hart with
  | .strand t k => s.modStrand t k f
  | _ => s

/-- The next free value: its index, and the state that has used it. -/
def State.draw (s : State) : Nat × State := (s.fresh, { s with fresh := s.fresh + 1 })

/-- Queue an event to be taken before anything else. -/
def State.push (s : State) (i : Instr) : State := { s with inputs := i :: s.inputs }

/-- Put an event off until the next cycle. -/
def State.defer (s : State) (i : Instr) : State := { s with deferred := s.deferred ++ [i] }

/-- What the host asks for: in recovery nothing is accepted but a new stage-1 image (R436). -/
def State.accepts (s : State) (f : State → State) : State := if s.rot.recovery then s else f s

/-- Send something out of the panel. -/
def State.emit (s : State) (e : Emit) : State := { s with emitted := s.emitted ++ [e] }

/-- The dispatcher cycle (R6): 1 GHz against tile cycles of 0.4 ns. DEDUCED, log 8. -/
def State.dcycle (s : State) : Nat := 2 * s.now / 5

/-- The launch of a number. -/
def State.launch? (s : State) (n : Nat) : Option Launch := s.hub.launches.find? (·.lnum == n)
/-- Change a launch. -/
def State.modLaunch (s : State) (n : Nat) (f : Launch → Launch) : State :=
  s.modHub fun h => { h with launches := h.launches.map fun l => if l.lnum == n then f l else l }

/-- The context of a hart's accesses: its group's; a management hart uses none (R283, R424). -/
def State.ctxOf (s : State) (h : HartId) : Nat :=
  match h with
  | .mgmt _ => 0xFFFF
  | _ => match (s.tile (hartTile h)).group with
    | some g => g.ctx
    | none => 0xFFFF

/-- Doubleword `i` of context descriptor `c` (R323). -/
def State.ctxWord (s : State) (c i : Nat) : Nat := tabGet 0 (8 * c + i) s.hub.ctxs

/-- Key index of a context (R323); accesses without a context use key index 0 (R424). -/
def State.ctxKey (s : State) (c : Nat) : Nat := if c = 0xFFFF then 0 else bits (s.ctxWord c 0) 8 8

/-- A tile's clock runs: its own, and those of its die, which stand still in a debug halt (R27, R373, R378). -/
def tileRuns (s : State) (t : TileNo) : Bool := (s.tile t).running && !(s.die (tileDie t)).halted

/-- A context as its accesses see it: what has been read of its descriptor. ROOT is read anew at each walk (R323). -/
structure View where
  ctx : Nat
  key : Nat
  hints : Nat
  hintCount : Nat
deriving DecidableEq, Repr

/-- A context as its descriptor stands. -/
def State.viewOf (s : State) (ctx : Nat) : View := ⟨ctx, s.ctxKey ctx, s.ctxWord ctx 2, s.ctxWord ctx 3⟩

/-- The context of a launch, as the dispatcher has read its descriptor at admission (R323). -/
def Launch.view (l : Launch) : View := ⟨l.r.ctx, l.key, l.hints, l.hintCount⟩

/-- A context as it stands for an admitted launch of it; for any other, as its descriptor stands (R323). -/
def State.viewIn (s : State) (lnum ctx : Nat) : View :=
  (((s.launch? lnum).filter fun l => l.r.ctx == ctx).map Launch.view).getD (s.viewOf ctx)

/-- Launch number of a tile's group, zero without one. -/
def lnumOf (s : State) (t : TileNo) : Nat := ((s.tile t).group.map (·.lnum)).getD 0

/-- The context of a hart's accesses, as it stands for its launch. -/
def State.viewAt (s : State) (h : HartId) : View := s.viewIn (lnumOf s (hartTile h)) (s.ctxOf h)

/-- A descriptor is usable: VALID set, and none of the cases of R323 that make it invalid. -/
def State.ctxValid (s : State) (c : Nat) : Bool :=
  let w := s.ctxWord c
  c < 256 && bit (w 0) 0 && bits (w 0) 1 7 == 0 && bits (w 0) 8 8 < 128 && bits (w 0) 20 44 == 0 &&
    bits (w 1) 0 21 == 0 && bits (w 1) 52 12 == 0 && bits (w 2) 0 6 == 0 && bits (w 2) 52 12 == 0 &&
    w 3 ≤ 1024 && bits (w 4) 0 12 == 0 && bits (w 4) 52 12 == 0 && w 5 == 0 && w 6 == 0 && w 7 == 0

/-- Send the interrupt write of a cause: four bytes to IRQADDR on module 0, held while that module is down (R407,
R409). -/
def State.sendIrq (s : State) (c : Nat) : State :=
  if bit s.hub.up 0 then
    { s with hostMem := memWrite s.hostMem s.hub.irqaddr (leBytes 4 c) }.emit (.interrupt s.hub.irqaddr c)
  else s.modHub fun h => { h with irqHeld := h.irqHeld ++ [c] }

/-- A cause number as a bit, set or not. -/
def setBit (n c : Nat) (on : Bool) : Nat := if bit n c == on then n else if on then n + 2 ^ c else n - 2 ^ c

/-- Raise an interrupt cause (R409): pending, and sent at once when it becomes pending while enabled. -/
def State.irq (s : State) (c : Nat) : State :=
  if bit s.hub.irqcause c then s
  else
    let on := bit s.hub.irqen c
    let s := s.modHub fun h => { h with irqcause := h.irqcause + 2 ^ c, irqSent := setBit h.irqSent c on }
    if on then s.sendIrq c else s

end Sys2Proof.Machine
end

