-- ==== Sys2Proof/Machine/Home.lean ====
section
/-! DEFINITION. Physical memory: the address map (R220), home slices (R226), reads and writes of HBM at their home
slice with the key epochs of R438, failed lines (R366), watch triggers (R253-R254, R322) and posts (R412), and host
memory. -/
namespace Sys2Proof.Machine

/-- Bytes of HBM in one domain (R220). -/
def domainBytes : Nat := 0x7800000000

/-- The address is HBM (R220). -/
def isHbm (pa : Nat) : Bool := pa < 4 * domainBytes

/-- A range of `n` bytes lies wholly in HBM. -/
def inHbm (pa n : Nat) : Bool := pa + n ≤ 4 * domainBytes

/-- Cache-die number and slice of the home of an HBM address (R226). -/
def homeSlice (pa : Nat) : Nat × Nat :=
  let d := pa / domainBytes
  let l := (pa - d * domainBytes) / 128
  let hh := (l ^^^ (l / 2 ^ 13) ^^^ (l / 2 ^ 26)) % 400
  let j := hh / 8
  let row := 10 * (d / 2) + j / 5
  let col := 10 * (d % 2) + 2 * (j % 5) + (row + 1) % 2
  (row * 10 + col / 2, hh % 8)

/-- Key index of the frame that holds an address (R228). -/
def State.keyOf (s : State) (pa : Nat) : Nat := tabGet 0 (pa / 0x200000) s.keyMap

/-- The key in force for an address: the index of its frame, and how often that index's keys have been regenerated
(R228, R438). -/
def State.epochOf (s : State) (pa : Nat) : Nat := s.keyOf pa + 128 * tabGet 0 (s.keyOf pa) s.keyEpoch

/-- The line was last written under another key than the one in force (R228, R438). -/
def State.stale (s : State) (pa : Nat) : Bool := tabGet 0 (pa / 128) s.lineEpoch != s.epochOf pa

/-- One byte of HBM: an unrelated value when it was written under another key (R438). -/
def State.hbmByte (s : State) (pa : Nat) : Byte :=
  if s.stale pa then Config.staleByte pa (s.epochOf pa) else memGet s.mem pa

/-- The `n` bytes of HBM from `pa`. -/
def State.hbmBytes (s : State) (pa : Nat) : Nat → List Byte
  | 0 => []
  | n + 1 => s.hbmByte pa :: s.hbmBytes (pa + 1) n

/-- Natural value of `n` bytes of HBM (R4). -/
def State.hbmRead (s : State) (pa n : Nat) : Nat := leVal (s.hbmBytes pa n)

/-- Bring a stale line to the current epoch, its bytes as they would be read (R438). -/
def State.refreshLine (s : State) (pa : Nat) : State :=
  if s.stale pa then
    { s with
      mem := memWrite s.mem (pa / 128 * 128) (s.hbmBytes (pa / 128 * 128) 128)
      lineEpoch := tabSet (pa / 128) (s.epochOf pa) s.lineEpoch }
  else s

/-- Bits [51:48] of a physical address (R220). -/
def paRange (pa : Nat) : Nat := pa / 2 ^ 48

/-! ### The dynamic network -/

/-- A die site: column and row (R2). -/
abbrev Site := Nat × Nat

/-- The corner site of a hub die (R388). -/
def cornerSite (h : Nat) : Site := (if h % 2 = 0 then 0 else 19, if h / 2 % 2 = 0 then 0 else 19)

/-- The site whose router a packet to a physical address leaves the network at (R220, R226, R388, R389). -/
def siteOf (pa : Nat) : Site :=
  if isHbm pa then cacheSite (homeSlice pa).1
  else match paRange pa with
    | 8 => dieSite (bits pa 28 8)
    | 9 => if bit pa 44 then cacheSite (bits pa 24 8) else dieSite (bits pa 24 8)
    | 0xA => cornerSite (bits pa 32 2)
    | _ => cornerSite 0

/-- The site of the die a hart stands on. -/
def hartSite (h : HartId) : Site := dieSite (hartDie h).val

/-- Link `n` lies on the route from one site to another: along the row to the column, then along the column (R389). Links 0
to 379 join a site and its right neighbour, 19 to a row; the others a site and its lower neighbour, 20 to a row. -/
def onRoute (n : Nat) (a b : Site) : Bool :=
  if n < 380 then n / 19 == a.2 && decide (min a.1 b.1 ≤ n % 19) && decide (n % 19 < max a.1 b.1)
  else (n - 380) % 20 == b.1 && decide (min a.2 b.2 ≤ (n - 380) / 20) && decide ((n - 380) / 20 < max a.2 b.2)

/-- No failed link lies on the route from one site to another (R389, R417). -/
def State.routeOpen (s : State) (a b : Site) : Bool := s.hub.cuts.all fun n => !onRoute n a b

/-- The sites that an access of `n` bytes at an address goes to: the home of each of its lines. -/
def sitesOf (pa n : Nat) : List Site :=
  if isHbm pa then (List.range ((pa + n - 1) / 128 - pa / 128 + 1)).map fun i => siteOf (pa / 128 * 128 + 128 * i)
  else [siteOf pa]

/-- The requests of an access reach its target from a site (R417). -/
def State.requestOpen (s : State) (a : Site) (pa n : Nat) : Bool :=
  s.hub.cuts.isEmpty || (sitesOf pa n).all fun b => s.routeOpen a b

/-- The responses of an access come back to a site (R417). -/
def State.replyOpen (s : State) (a : Site) (pa n : Nat) : Bool :=
  s.hub.cuts.isEmpty || (sitesOf pa n).all fun b => s.routeOpen b a

/-- An access is made and answered: no failed link holds its packets (R417). -/
def State.tripOpen (s : State) (a : Site) (pa n : Nat) : Bool := s.requestOpen a pa n && s.replyOpen a pa n

/-! ### Queues and triggers -/

/-- A queue that is usable while enabled (R319). -/
def queueUsable (q : LQueue) : Bool :=
  1 ≤ q.size && q.size ≤ 16 && (q.slot < 32 || q.slot == 0xFF) &&
    (isHbm (q.qbase * 128) || paRange (q.qbase * 128) == 0xF)

/-- Physical address of ring entry `j` of a queue (R319). -/
def queueEntry (q : LQueue) (j : Nat) : Nat := q.qbase * 128 + 128 * (j % 2 ^ q.size)

/-- Waiting records of a queue (R320). -/
def queueWaiting (q : LQueue) : Nat := (q.qtail + 2 ^ 32 - q.qhead) % 2 ^ 32

/-- The UCIe module that carries an access to host address `h` is up (R407). -/
def State.moduleUp (s : State) (h : Nat) : Bool := bit s.hub.up (h / 4096 % 4)

/-- The modules that carry an access of `n` bytes to host memory are up (R407). -/
def State.hostReady (s : State) (h n : Nat) : Bool :=
  (List.range ((h % 4096 + n + 4095) / 4096)).all fun i => s.moduleUp (h + 4096 * i)

/-- An entry of a queue's ring can be reached now from a site: no failed link lies on the way (R417), and the ring stands in
HBM, or the module that carries the entry is up (R407). -/
def ringReady (s : State) (a : Site) (q : LQueue) (j : Nat) : Bool :=
  s.tripOpen a (queueEntry q j) 128 && (paRange (queueEntry q j) != 0xF || s.hostReady (queueEntry q j) 128)

/-- A queue takes a firing now (R322). -/
def takesFiring (s : State) (q : LQueue) : Bool :=
  q.en && !q.eth && queueUsable q && decide (queueWaiting q < 2 ^ q.size) &&
    ringReady s (cornerSite 0) q q.qtail

/-- A trigger matches a completed write of `n` bytes at `pa` from context `ctx` (R254). -/
def watchMatches (s : State) (w : Watch) (pa n ctx : Nat) : Bool :=
  w.en && (w.ctx == 0xFFFF || w.ctx == ctx) &&
  (List.range 16).any fun i =>
    w.first ≤ i && i ≤ w.last &&
    (let a := w.line * 128 + 8 * i
     pa < a + 8 && a < pa + n &&
      (w.any || (w64 (leVal (s.hbmBytes a 8)) &&& w.mask) == (w.val &&& w.mask)))

/-- One trigger after a matching write: a firing on its way to its queue, or overflow while one is pending that the queue
does not take (R254). -/
def watchFire (takes : Bool) (w : Watch) : Watch :=
  if w.pending && !takes then { w with overflow := true } else { w with due := w.due + 1, en := w.en && !w.oneshot }

/-- Fire the triggers of the home of one line that the write touches (R254). -/
def State.fireLine (s : State) (line pa n ctx : Nat) : State :=
  let c := dieOf (homeSlice (line * 128)).1
  let x := s.cache c
  let fired := (List.finRange 16).filter fun i => x.watches[i].line == line && watchMatches s x.watches[i] pa n ctx
  if fired.isEmpty then s
  else
    let takes (w : Watch) : Bool := takesFiring s (s.hub.queues[w.queue % 64]'(by omega))
    let after (i : Fin 16) : Watch :=
      if fired.contains i then watchFire (takes x.watches[i]) x.watches[i] else x.watches[i]
    let s := s.setCache c { x with watches := Vector.ofFn after }
    { s with inputs := fired.map (.watchPendingPush c) ++ s.inputs }

/-- Fire the triggers of every line of a write. -/
def State.fireWatches (s : State) (pa n ctx : Nat) : State :=
  (List.range ((pa + n - 1) / 128 - pa / 128 + 1)).foldl
    (fun s i => s.fireLine (pa / 128 + i) pa n ctx) s

/-- The send rings whose tail doubleword a write of `n` bytes at `pa` touches (R412). -/
def State.tailRings (s : State) (pa n : Nat) : List (Nat × Nat) :=
  s.ports.flatMap fun (p, x) =>
    (List.range 16).filterMap fun r =>
      let q := x.rings[r]!
      if q.ren && pa < q.tailpa + 8 && q.tailpa < pa + n then some (p, r) else none

/-- A post of tail value `v` posts nothing (R412): its ring is not usable (R410), or the span is too long. -/
def postRefused (x : Ring) (v : Nat) : Bool :=
  !x.ren || x.size = 0 || 16 < x.size || !inHbm (x.rbase * 128) (2 ^ x.size * 128) ||
    2 ^ x.size < (v + 2 ^ 32 - x.rhead) % 2 ^ 32

/-- The entries that a post of tail value `v` posts: RHEAD to v − 1 (R412). -/
def postedEntries (x : Ring) (v : Nat) : List Nat :=
  if postRefused x v then [] else (List.range ((v + 2 ^ 32 - x.rhead) % 2 ^ 32)).map fun i => (x.rhead + i) % 2 ^ 32

/-- The entries, as port, ring and number, whose statuses withhold the completion of a write of `n` bytes at `pa` that has
been performed: none for a write that is no post (R412). -/
def State.postsOf (s : State) (pa n : Nat) : List (Nat × Nat × Nat) :=
  (s.tailRings pa n).flatMap fun (p, r) =>
    let x := (s.port p).rings[r]!
    (postedEntries x (s.hbmRead x.tailpa 4)).map fun e => (p, r, e)

/-- No entry of a post is without its status (R412). -/
def postDone (s : State) (l : List (Nat × Nat × Nat)) : Bool :=
  l.all fun e => !((s.port e.1).rings[e.2.1]!).openEntries.contains e.2.2

/-- Write bytes at the home slices of their lines and fire watches; posts are left to the caller. -/
def State.hbmStore (s : State) (pa : Nat) (bs : List Byte) (ctx : Nat) : State :=
  let s := (s.refreshLine pa).refreshLine (pa + bs.length - 1)
  let s := { s with mem := memWrite s.mem pa bs }
  s.fireWatches pa bs.length ctx

/-- Write bytes to HBM, with the posts it makes (R412). -/
def State.hbmWrite (s : State) (pa : Nat) (bs : List Byte) (ctx : Nat) : State :=
  let s := s.hbmStore pa bs ctx
  (s.tailRings pa bs.length).foldl
    (fun s (p, r) => s.push (.ringPost ⟨p % 32, by omega⟩ ⟨r % 16, by omega⟩
      (w64 (s.hbmRead ((s.port p).rings[r]!).tailpa 8)))) s

/-- Some line of the range is marked failed (R366). -/
def State.failedIn (s : State) (pa n : Nat) : Bool :=
  s.failedLines.any fun l => pa / 128 ≤ l && l ≤ (pa + n - 1) / 128

/-- A whole-line write by firmware or the host clears the failed mark (R366). -/
def State.clearFailed (s : State) (pa n : Nat) : State :=
  if pa % 128 = 0 && n = 128 then { s with failedLines := s.failedLines.filter (· != pa / 128) } else s

/-- Write a whole line by firmware: it clears the failed mark (R366). -/
def State.lineWrite (s : State) (pa : Nat) (bs : List Byte) : State := (s.clearFailed pa bs.length).hbmWrite pa bs 0xFFFF

/-- Read `n` bytes of HBM by firmware or the dispatcher: nothing from a line that is marked failed, whose value is never
passed on (R366). -/
def State.soundRead (s : State) (pa n : Nat) : Option Nat := if s.failedIn pa n then none else some (s.hbmRead pa n)

/-- Write a part of a line by firmware or the dispatcher: in a line that is marked failed nothing is written (R366). The spec
names no effect of it. DESIGN CHOICE, log 96. -/
def State.soundWrite (s : State) (pa : Nat) (bs : List Byte) : State :=
  if s.failedIn pa bs.length then s else s.hbmWrite pa bs 0xFFFF

/-- The tile a window address names, when it exists (R220). -/
def windowTile (pa : Nat) : Option TileNo :=
  let die := bits pa 28 8
  let t := bits pa 20 8
  if paRange pa = 8 && bits pa 36 12 = 0 && die < 200 && t < 144 then some (tileOf (die * 144 + t)) else none

/-- Window offset of an address (R220). -/
def windowOff (pa : Nat) : Nat := pa % 2 ^ 20

/-- Host memory bytes (R220, R260). -/
def State.hostBytes (s : State) (h n : Nat) : List Byte := memBytes s.hostMem (h % 2 ^ 48) n

/-- A write accepted by the host (R260). -/
def State.hostStore (s : State) (h : Nat) (bs : List Byte) : State :=
  { s with hostMem := memWrite s.hostMem (h % 2 ^ 48) bs }

/-- Read bytes of HBM or host memory; other targets and failed lines answer nothing (R366). -/
def State.plainRead (s : State) (pa n : Nat) : Option (List Byte) :=
  if inHbm pa n then (if s.failedIn pa n then none else some (s.hbmBytes pa n))
  else if paRange pa = 0xF then some (s.hostBytes pa n)
  else none

/-- A write of the dispatcher is held. -/
def State.holdWrite (s : State) (pa : Nat) (bs : List Byte) : State :=
  s.modHub fun h => { h with heldWrites := h.heldWrites ++ [{ pa := pa, data := bs }] }

/-- A write of the dispatcher to host memory: a module that is down holds it (R407). -/
def State.hostSend (s : State) (pa : Nat) (bs : List Byte) : State :=
  if s.hostReady pa bs.length then s.hostStore pa bs else s.holdWrite pa bs

/-- Write bytes of HBM or host memory; other targets and failed lines answer nothing (R366), and a failed link on the way holds
the write (R417). -/
def State.plainWrite (s : State) (pa : Nat) (bs : List Byte) (ctx : Nat) : Option State :=
  if inHbm pa bs.length then
    if !s.requestOpen (cornerSite 0) pa bs.length then some (s.holdWrite pa bs)
    else if s.failedIn pa bs.length then none else some (s.hbmWrite pa bs ctx)
  else if paRange pa = 0xF then some (s.hostSend pa bs)
  else none

/-- Change a launch queue. -/
def State.modQueue (s : State) (q : Fin 64) (f : LQueue → LQueue) : State :=
  s.modHub fun h => { h with queues := h.queues.set q (f h.queues[q]) }

/-- Write a record to entry QTAIL of a queue and advance QTAIL (R321, R322). A record whose entry cannot be written, in no
memory or in a line that is marked failed, is dropped. DESIGN CHOICE, log 107. -/
def State.pushRecord (s : State) (q : Fin 64) (bs : List Byte) : State :=
  let x := s.hub.queues[q]
  match s.plainWrite (queueEntry x x.qtail) bs 0xFFFF with
  | some s => s.modQueue q fun x => { x with qtail := (x.qtail + 1) % 2 ^ 32 }
  | none => s

end Sys2Proof.Machine
end

