-- ==== Sys2Proof/Machine/Translate.lean ====
section
/-! DEFINITION. Address translation: canonical addresses (R230), page tables and the walk (R231-R233), the
translation cache of a tile (R234), range hints (R238, R239) and revocation (R237, R249). -/
namespace Sys2Proof.Machine

/-- Bits [63:57] all equal bit 56 (R230). -/
def canonical (va : W64) : Bool := (va.setWidth 57).signExtend 64 == va

/-- Bytes a leaf of a level maps (R231); level 4 has no leaves. -/
def pageSize (lvl : Nat) : Nat :=
  match lvl with
  | 1 => 0x10000
  | 2 => 0x200000
  | 3 => 0x40000000
  | _ => 0

/-- Table index of an address at a level (R231). -/
def tableIndex (va : Nat) (lvl : Nat) : Nat :=
  match lvl with
  | 4 => bits va 39 18
  | 3 => bits va 30 9
  | 2 => bits va 21 9
  | _ => bits va 16 5

/-- The window page at an address, of 1 MiB, is that of a tile that exists (R220). -/
def windowPage (pa : Nat) : Bool := bits pa 36 12 == 0 && decide (bits pa 28 8 < 200) && decide (bits pa 20 8 < 144)

/-- A page that lies wholly in HBM, in tile windows or in host memory (R232, R233). -/
def pageBacked (pa size : Nat) : Bool :=
  inHbm pa size || paRange pa == 0xF ||
    (paRange pa == 8 && (List.range ((size + 0xFFFFF) / 0x100000)).all fun i => windowPage (pa + 0x100000 * i))

/-- What a walk finds: the physical address, and the translation of the page (R233). -/
structure WalkHit where
  pa : Nat
  entry : TlbEntry
deriving DecidableEq, Repr

/-- Examine a leaf `e` found at `slot` at level `lvl` (R233). -/
def walkLeaf (s : State) (c : View) (die : DieNo) (va : Nat) (wr : Bool) (lvl slot e : Nat) :
    Except WalkFault (WalkHit × State) :=
  let size := pageSize lvl
  let base := bits e 12 40 * 4096
  let w := bit e 2
  let repl := bit e 5
  if base % size != 0 || !pageBacked base size then .error .malformed
  else if repl && (w || !isHbm base) then .error .malformed
  else if wr && repl then .error .replicaWrite
  else if wr && !w then .error .protection
  else
    let pa := base + va % size
    if isHbm pa && s.keyOf pa != c.key then .error .keyMismatch
    else
      let shift (x : Nat) : Nat :=
        if repl then x % domainBytes + dieDomain die.val * domainBytes else x
      let e' := e ||| 8 ||| (if wr then 16 else 0)
      let s := if e' == e then s else s.hbmWrite slot (leBytes 8 e') 0xFFFF
      .ok (⟨shift pa, { ctx := c.ctx, page := va / size * size, size, pa := shift base, w, dirty := bit e' 4, pinned := false }⟩, s)

/-- The walk from a table at `t` down the levels (R233). -/
def walkFrom (s : State) (c : View) (die : DieNo) (va : Nat) (wr : Bool) :
    List Nat → Nat → Except WalkFault (WalkHit × State)
  | [], _ => .error .malformed
  | lvl :: rest, t =>
    let slot := t + 8 * tableIndex va lvl
    if !inHbm slot 8 then .error .malformed
    else
      let e := s.hbmRead slot 8
      if !bit e 0 then .error .notPresent
      else if bits e 6 6 != 0 || bits e 52 12 != 0 || (lvl == 4 && bit e 1) || (lvl == 1 && !bit e 1) then
        .error .malformed
      else if bit e 1 then walkLeaf s c die va wr lvl slot e
      else if !isHbm (bits e 12 40 * 4096) then .error .malformed
      else walkFrom s c die va wr rest (bits e 12 40 * 4096)

/-- The tile number of tile `i` of a region with its origin at tile number `o` and width `w` (R23). -/
def regionTile (o w i : Nat) : Nat := o + i / w * 12 + i % w

/-- The tiles of a region, in order of their region tile index. -/
def regionTiles (o w h : Nat) : List TileNo := (List.range (w * h)).map fun i => tileOf (regionTile o w i)

/-- A walk in the range of region windows (R393): the leaves the loader keeps there for the placed groups of gang launches,
but for those that a freeze has unmapped or a restore has not mapped yet (R373, R376). Log 9: these leaves stand in firmware
memory; the model keeps what they say. -/
def windowWalk (s : State) (ctx va : Nat) : Except WalkFault (WalkHit × State) :=
  let hit := s.hub.launches.findSome? fun l =>
    if l.r.gang && l.r.ctx == ctx then
      l.placed.findSome? fun p =>
        if !p.restoring && p.unmapped.isNone && p.rank % 2 ^ 20 == bits va 28 20 && bits va 20 8 < l.r.w * l.r.h then
          some (0x8 * 2 ^ 48 + (regionTile p.origin l.r.w (bits va 20 8)) / 144 * 2 ^ 28 +
            (regionTile p.origin l.r.w (bits va 20 8)) % 144 * 2 ^ 20 + bits va 0 20)
        else none
    else none
  match hit with
  | none => .error .notPresent
  | some pa => .ok (⟨pa, ⟨ctx, va / 0x10000 * 0x10000, 0x10000, pa / 0x10000 * 0x10000, true, true, false⟩⟩, s)

/-- Walk a virtual address in a context, for the die that asks (R233, R393). -/
def walk (s : State) (c : View) (die : DieNo) (va : W64) (wr : Bool) : Except WalkFault (WalkHit × State) :=
  if bits va.toNat 48 9 = 0xFF then windowWalk s c.ctx (bits va.toNat 0 57)
  else walkFrom s c die (bits va.toNat 0 57) wr [4, 3, 2, 1] (s.ctxWord c.ctx 1)

/-- The table entries that a walk for a virtual address reads, from the table at `t` down (R233). -/
def tablePath (s : State) (va : Nat) : List Nat → Nat → List Nat
  | [], _ => []
  | lvl :: rest, t =>
    let slot := t + 8 * tableIndex va lvl
    let e := s.hbmRead slot 8
    slot :: (if bit e 0 && !bit e 1 then tablePath s va rest (bits e 12 40 * 4096) else [])

/-- A walk would read a line that is marked failed (R366). -/
def walkPoisoned (s : State) (ctx : Nat) (va : W64) : Bool :=
  bits va.toNat 48 9 != 0xFF &&
    (tablePath s (bits va.toNat 0 57) [4, 3, 2, 1] (s.ctxWord ctx 1)).any fun a => inHbm a 8 && s.failedIn a 8

/-- A failed link holds a packet of a walk made from a site (R417). -/
def walkCut (s : State) (a : Site) (ctx : Nat) (va : W64) : Bool :=
  !s.hub.cuts.isEmpty && bits va.toNat 48 9 != 0xFF &&
    (tablePath s (bits va.toNat 0 57) [4, 3, 2, 1] (s.ctxWord ctx 1)).any fun e => !s.tripOpen a e 8

/-- The move of the page that holds a virtual address (R241). -/
def State.moveOf (s : State) (ctx va : Nat) : Option Move :=
  s.moves.find? fun m => m.ctx == ctx && decide (m.page ≤ va) && decide (va < m.page + m.size)

/-- Translate for the loader or the dispatcher, which keep no translation cache: HBM and host memory only (R326, R327). A
page that is being moved is reached in its old frame, which is copied afterwards (R237, R241). -/
def ctxWalk (s : State) (c : View) (va : W64) (wr : Bool) : Option (Nat × State) :=
  if !canonical va then none
  else match s.moveOf c.ctx (bits va.toNat 0 57) with
    | some m =>
      if wr && !bit m.leaf 2 then none
      else some (m.old + (bits va.toNat 0 57 - m.page), { s with
        moves := s.moves.map fun k => if k == m then { m with leaf := m.leaf ||| (if wr then 24 else 8) } else k })
    | none =>
      if walkPoisoned s c.ctx va then none
      else match walk s c 0 va wr with
        | .ok (hit, s) => if isHbm hit.pa || paRange hit.pa == 0xF then some (hit.pa, s) else none
        | .error _ => none

/-- A range hint record (R238). -/
structure Hint where
  base : Nat
  len : Nat
  kind : Nat
  place : Nat
  mostlyUnwritten : Bool
  keep : Nat

/-- Record `i` of a context's hint table, when it is valid and in force (R238, R239). The spec gives the table a physical
address and does not say where it may lie; one outside HBM holds no records, and one in a line that is marked failed is not
passed on (R366): it is not in force. DESIGN CHOICE, log 95. -/
def hintAt (s : State) (c : View) (i : Nat) : Option Hint :=
  let a := c.hints + 64 * i
  let base := s.hbmRead a 8
  let len := s.hbmRead (a + 8) 8
  let f := s.hbmRead (a + 16) 8
  let keep := s.hbmRead (a + 32) 32
  let kind := bits f 0 8
  let wh := bits f 8 8
  if !s.failedIn a 64 && bit f 17 && bits f 18 46 == 0 && s.hbmRead (a + 24) 8 == 0 && keep < 2 ^ 200 && kind ≤ 2 &&
      (kind != 1 || wh < 4) && (kind != 2 || wh < 40) && base % 0x10000 == 0 && len % 0x10000 == 0 && len != 0
  then some ⟨base, len, kind, wh, bit f 16, keep⟩ else none

/-- A record covers a virtual address (R238), both in the 57 bits that a canonical address has (R230). -/
def hintCovers (va : Nat) (r : Hint) : Bool :=
  decide (bits r.base 0 57 ≤ va) && decide (va < bits r.base 0 57 + r.len)

/-- The record of lowest index in force for an address (R239). -/
def hintFor (s : State) (c : View) (va : Nat) : Option Hint :=
  (List.range (min 1024 c.hintCount)).findSome? fun i => (hintAt s c i).filter (hintCovers va)

/-- The entry of the cache that translates an address (R234). A write that hits a clean entry walks again; so does one that hits
an entry through which no writes are allowed, and the walk gives its fault (R233, R240). -/
def tlbFind (x : Tile) (ctx : Nat) (va : W64) (wr : Bool) : Option TlbEntry :=
  let a := bits va.toNat 0 57
  x.tlb.find? fun e => e.ctx == ctx && e.page ≤ a && a < e.page + e.size && (!wr || (e.dirty && e.w))

/-- Physical address through an entry. -/
def tlbPa (e : TlbEntry) (va : W64) : Nat := e.pa + bits va.toNat 0 57 % e.size

/-- Move an entry to the recently used end (R234). -/
def tlbTouch (x : Tile) (e : TlbEntry) : Tile := { x with tlb := x.tlb.filter (· != e) ++ [e] }

/-- Drop the least recently used entry that is not pinned (R234). -/
def tlbEvict : List TlbEntry → List TlbEntry
  | [] => []
  | e :: r => if e.pinned then e :: tlbEvict r else r

/-- Insert a translation, replacing any of the same page; 64 entries at most (R234). -/
def tlbInsert (x : Tile) (e : TlbEntry) : Tile :=
  let l := x.tlb.filter fun f => !(f.ctx == e.ctx && f.page == e.page && f.size == e.size)
  let pin := e.pinned && (l.filter (·.pinned)).length < 48
  { x with tlb := (if l.length < 64 then l else tlbEvict l) ++ [{ e with pinned := pin }] }

/-- The records that cover a part of a page and govern some of it, lowest index first: where two overlap, the one of lower
index governs the overlap (R239). The boundaries of records are multiples of 64 KiB, so the 64 KiB pieces of the page
decide; a page of 1 GiB is judged by the pieces at which a record begins, and its own base. -/
def pagePieces (s : State) (c : View) (page size : Nat) : List Nat :=
  page :: ((List.range (min 1024 c.hintCount)).flatMap fun i =>
    match hintAt s c i with
    | some r => [bits r.base 0 57, bits r.base 0 57 + r.len].filter fun a => decide (page ≤ a) && decide (a < page + size)
    | none => [])

/-- A hint pins the entry's range to the die (R234, R238): a range so pinned governs a part of the page. -/
def hintPins (s : State) (c : View) (die : DieNo) (page size : Nat) : Bool :=
  (pagePieces s c page size).any fun a => match hintFor s c a with
    | some r => bit r.keep die.val
    | none => false

/-- The entry that a walk for a virtual address ends at, from the table at `t` down: its slot, level and value. It is a leaf,
or an entry that is not valid. One in a line that is marked failed is not read (R366). -/
def lastEntry (s : State) (va : Nat) : List Nat → Nat → Option (Nat × Nat × Nat)
  | [], _ => none
  | lvl :: rest, t =>
    let slot := t + 8 * tableIndex va lvl
    let e := s.hbmRead slot 8
    if !inHbm slot 8 || s.failedIn slot 8 then none
    else if !bit e 0 || bit e 1 then some (slot, lvl, e)
    else lastEntry s va rest (bits e 12 40 * 4096)

/-- The leaf of a virtual address of a context: its slot, level and value. -/
def leafOf (s : State) (ctx va : Nat) : Option (Nat × Nat × Nat) :=
  (lastEntry s va [4, 3, 2, 1] (s.ctxWord ctx 1)).filter fun x => bit x.2.2 0

/-- Bytes of the page that holds a virtual address of a context (R231); 64 KiB where no leaf maps it. -/
def leafSize (s : State) (ctx va : Nat) : Nat :=
  match leafOf s ctx va with
  | some (_, lvl, _) => max 0x10000 (pageSize lvl)
  | none => 0x10000

/-- Invalidate cache entries of a context that cover a virtual address, in every tile (R237 step 2). -/
def State.tlbInvalidate (s : State) (ctx va : Nat) : State :=
  { s with tiles := s.tiles.map fun (t, x) =>
      (t, { x with tlb := x.tlb.filter fun e => !(e.ctx == ctx && e.page ≤ va && va < e.page + e.size) }) }

/-- Make a handle invalid when it was taken from the page that holds `va` (R237 step 3). -/
def revokeHandle (ctx va : Nat) (h : Handle) : Handle :=
  if h.ctx == ctx && h.page ≤ va && va < h.page + h.pageSize then { h with valid := false } else h

/-- Revoke every handle of a context that refers to the page that holds `va` (R249, R284). -/
def State.revokeHandles (s : State) (ctx va : Nat) : State :=
  { s with tiles := s.tiles.map fun (t, x) =>
      (t, { x with
        strands := Vector.ofFn fun k =>
          let z := x.strands[k]
          { z with r := { z.r with h := Vector.ofFn fun i => revokeHandle ctx va z.r.h[i] } }
        eng := { x.eng with r := { x.eng.r with h := Vector.ofFn fun i => revokeHandle ctx va x.eng.r.h[i] } } }) }

end Sys2Proof.Machine
end

