-- ==== Sys2Proof/Machine/Launches.lean ====
section
/-! DEFINITION. What the dispatcher keeps of launches: status records (R327), timeline counters and waits
(R339-R342), releasing a region (R392, R399), and how a launch ends (R343). -/
namespace Sys2Proof.Machine

/-- Groups of a launch (R324). -/
def groupCount (r : Record) : Nat := r.nx * r.ny * r.nz

/-- Groups of a launch that have finished (R330). -/
def finishedCount (l : Launch) : Nat := l.base + l.retired.length

/-- The retire bit of a rank is set, or the rank lies below the base (R330). -/
def rankRetired (l : Launch) (r : Nat) : Bool := r < l.base || l.retired.contains r

/-- Slide a window past its set bits (R330). -/
def slideWindow : Nat → Launch → Launch
  | 0, l => l
  | n + 1, l =>
    if l.retired.contains l.base then
      slideWindow n { l with base := l.base + 1, retired := l.retired.filter (· != l.base) }
    else l

/-- Set a rank's retire bit (R330). -/
def setRetired (l : Launch) (r : Nat) : Launch :=
  if rankRetired l r then l
  else
    let l := { l with retired := l.retired ++ [r] }
    slideWindow (l.retired.length + 1) l

/-- The eight doublewords of a status record as bytes (R327). -/
def statusBytes (st code : Nat) (voided : Bool) (lnum retired : Nat) (detail epc eval : W64)
    (where_ taccept tstart : Nat) : List Byte :=
  leBytes 8 (st + code * 2 ^ 8 + b2n voided * 2 ^ 16 + lnum * 2 ^ 32) ++ leBytes 8 retired ++
    leBytes 8 detail.toNat ++ leBytes 8 epc.toNat ++ leBytes 8 eval.toNat ++ leBytes 8 where_ ++
    leBytes 8 taccept ++ leBytes 8 tstart

/-- The status record of a queue's launch could not be written: STLOST and interrupt cause QUEUE (R327, R409). -/
def State.statusLost (s : State) (q : Nat) : State :=
  (s.modQueue ⟨q % 64, by omega⟩ fun x => { x with stlost := true }).irq 3

/-- Write through a context's translation, to HBM and host memory, in the two pieces that the end of a 64 KiB page cuts;
nothing when one of them cannot be written. -/
def State.ctxWrite (s : State) (c : View) (va : W64) (bs : List Byte) : Option State :=
  let n := 0x10000 - va.toNat % 0x10000
  (ctxWalk s c va true).bind fun (pa, s) =>
    if bs.length ≤ n then s.plainWrite pa bs c.ctx
    else (ctxWalk s c (va + w64 n) true).bind fun (pb, s) =>
      (s.plainWrite pa (bs.take n) c.ctx).bind fun s => s.plainWrite pb (bs.drop n) c.ctx

/-- Write a status record through the context's translation (R327). A failed link on the way of the walk holds it for ever
(R417). -/
def State.statusWrite (s : State) (q : Nat) (c : View) (va : W64) (bs : List Byte) : State :=
  if va = 0 || walkCut s (cornerSite 0) c.ctx va then s else (s.ctxWrite c va bs).getD (s.statusLost q)

/-- A wait is satisfied by counters (R341). -/
def waitMetIn (cs : Tab Nat) (w : Option (Nat × Nat)) : Bool :=
  match w with
  | none => true
  | some (c, th) => th ≤ tabGet 0 c cs

/-- What a counter holds after a write (R339). -/
def CounterWrite.after (c : CounterWrite) (old : Nat) : Nat := (if c.add then old + c.v else c.v) % 2 ^ 64

/-- The sources of counter writes in the order of R340. -/
def completionSource (lnum : Nat) : Nat := lnum
/-- See `completionSource`. -/
def hostSource (m : Nat) : Nat := 2 ^ 32 + m
/-- See `completionSource`. -/
def firmwareSource : Nat := 2 ^ 32 + 4
/-- See `completionSource`. -/
def portSource (p : Nat) : Nat := 2 ^ 32 + 5 + p

/-- The counters after each write of a list, the first before any (R341). -/
def evaluations : List CounterWrite → Tab Nat → List (Tab Nat)
  | [], cs => [cs]
  | w :: r, cs => cs :: evaluations r (tabSet w.n (w.after (tabGet 0 w.n cs)) cs)

/-- The counters at each evaluation that the writes waiting to be judged give: as they stood before them, and after each in the
order of R340 (R341). -/
def Hub.judged (h : Hub) : List (Tab Nat) :=
  evaluations h.counterWrites (h.counterBefore.foldl (fun cs p => tabSet p.1 p.2 cs) h.counters)

/-- Two waits are satisfied, both at one evaluation (R341). -/
def waitsMet (s : State) (w0 w1 : Option (Nat × Nat)) : Bool :=
  s.hub.judged.any fun cs => waitMetIn cs w0 && waitMetIn cs w1

/-- The waits are judged by the writes of a dispatcher cycle, in the order of R340, after each; the launches that it satisfies
move in increasing launch number (R341, R342). -/
def State.judgeWaits (s : State) : State :=
  s.modHub fun h => { h with
    launches := h.launches.map fun l =>
      if !l.satisfied && waitsMet s l.r.wait0 l.r.wait1 then { l with satisfied := true, satisfiedSeq := h.satSeq } else l
    satSeq := h.satSeq + 1, counterWrites := [], counterBefore := [] }

/-- The writes that a dispatcher cycle before `c` has left are judged. -/
def State.judgeOld (s : State) (c : Nat) : State :=
  if s.hub.counterWrites.isEmpty || decide (c ≤ s.hub.writesAt) then s else s.judgeWaits

/-- The dispatcher cycle that a write to a counter counts in: this one; the next, once the dispatcher has judged a record by the
writes of this one (R320, R340). -/
def State.countsIn (s : State) : Nat := if s.hub.lastRead = some s.dcycle then s.dcycle + 1 else s.dcycle

/-- Put a write in its place among those of the cycle: after the others of its source and of earlier ones (R340). -/
def placeWrite (c : CounterWrite) (l : List CounterWrite) : List CounterWrite :=
  l.filter (·.source ≤ c.source) ++ c :: l.filter (c.source < ·.source)

/-- Note a write to a counter among those of its dispatcher cycle. -/
def State.noteWrite (s : State) (c : CounterWrite) : State :=
  (s.judgeOld s.countsIn).modHub fun h => { h with
    counterWrites := placeWrite c h.counterWrites
    counterBefore := if h.counterBefore.any (·.1 == c.n) then h.counterBefore
      else tabSet c.n (tabGet 0 c.n h.counters) h.counterBefore
    writesAt := s.countsIn }

/-- What the writes to counter `n` of this dispatcher cycle make of the value that the first of them found (R340). -/
def Hub.counterNow (h : Hub) (n : Nat) : Nat :=
  (h.counterWrites.filter (·.n == n)).foldl (fun a w => w.after a) (tabGet 0 n h.counterBefore)

/-- A write reaches a timeline counter (R339-R341). The writes that reach it in one dispatcher cycle apply in the order of
R340; the waits are judged when that cycle is over. -/
def State.counterOp (s : State) (c : CounterWrite) : State :=
  (s.noteWrite c).modHub fun h => { h with counters := tabSet c.n (h.counterNow c.n) h.counters }

/-- Write a timeline counter (R339). -/
def State.counterWrite (s : State) (source n v : Nat) : State := s.counterOp ⟨n, source, false, v⟩

/-- Add to a timeline counter modulo 2^64 (R339). -/
def State.counterAdd (s : State) (source n v : Nat) : State := s.counterOp ⟨n, source, true, v⟩

/-- A held write is made, and the completion increment that waited for it is applied (R272, R407). -/
def State.makeHeld (s : State) (w : HeldWrite) : State :=
  let s := s.hostStore w.pa w.data
  match w.then_ with
  | some (n, c, v) => s.counterAdd (completionSource n) c v
  | none => s

/-- The held writes whose modules are up again are made, in order (R407). One that a failed link holds stays held (R417). -/
def State.releaseHostWrites (s : State) : State :=
  let up (w : HeldWrite) : Bool := paRange w.pa == 0xF && s.hostReady w.pa w.data.length
  (s.hub.heldWrites.filter up).foldl State.makeHeld
    (s.modHub fun h => { h with heldWrites := h.heldWrites.filter fun w => !up w })

/-- The increment of a launch that is done, once its outcome status is written: at once, or with the last write held since
`n` were, which is that status (R272, R343). -/
def State.completionAdd (s : State) (n lnum c v : Nat) : State :=
  if s.hub.heldWrites.length ≤ n then s.counterAdd (completionSource lnum) c v
  else s.modHub fun h => { h with
    heldWrites := h.heldWrites.zipIdx.map fun (w, i) =>
      if i + 1 = h.heldWrites.length then { w with then_ := some (lnum, c, v) } else w }

/-- The doubleword of a save area's bitmap that holds frame `f` (R374). -/
def inuseWord (area f : Nat) : Nat := area + 0x40 + f / 64 * 8

/-- Set or clear the INUSE bit of a frame of a save area (R374); a failed link on the way holds it (R417). -/
def State.frameMark (s : State) (area f : Nat) (on : Bool) : State :=
  if !s.tripOpen (cornerSite 0) (inuseWord area f) 8 then s
  else
  let w := s.hbmRead (inuseWord area f) 8
  let w' := if on then w ||| 2 ^ (f % 64) else if bit w (f % 64) then w - 2 ^ (f % 64) else w
  s.soundWrite (inuseWord area f) (leBytes 8 w')

/-- Clear the selectors that join or terminate lanes of a region's edge tiles (R399). -/
def clearSelectors (c : CacheDie) (keep : Nat → Nat → Bool) : CacheDie :=
  { c with sels := Vector.ofFn fun i =>
      if keep (i.val / 12) (i.val % 12) then c.sels[i]
      else { c.sels[i] with en := false, term := false, path := [], returns := [], credit := 0 } }

/-- The cache die on side `q` of a compute die (the facing of R394 read the other way): N, E, S, W of the die. -/
def cacheBeside (die q : Nat) : Option Nat :=
  let (c, r) := dieSite die
  let at_ (c r : Nat) : Option Nat := if c < 20 && r < 20 then some (r * 10 + c / 2) else none
  match q with
  | 0 => if r = 0 then none else at_ c (r - 1)
  | 1 => at_ (c + 1) r
  | 2 => at_ c (r + 1)
  | _ => if c = 0 then none else at_ (c - 1) r

/-- Side of the cache die that faces a compute die lying on its side `q`'s opposite: port N of a tile meets the
cache die's side S, and so on (R394). -/
def facingSide (port : Nat) : Nat := (port + 2) % 4

/-- Lane of an edge tile's port (R394): the column for N and S, the row for E and W. -/
def laneOf (port i : Nat) : Nat := if port % 2 = 0 then i % 12 else i / 12

/-- The tile with index `i` lies on the die's edge toward `port`. -/
def onDieEdge (port i : Nat) : Bool :=
  match port with
  | 0 => i / 12 == 0
  | 1 => i % 12 == 11
  | 2 => i / 12 == 11
  | _ => i % 12 == 0

/-- The seam lane of a tile's port, when the tile lies on the die's edge and a cache die stands there:
cache die, side, lane. -/
def seamOf (t port : Nat) : Option (Nat × Nat × Nat) :=
  if onDieEdge port (t % 144) then
    (cacheBeside (t / 144) port).map fun c => (c, facingSide port, laneOf port (t % 144))
  else none

/-- Free the seams of a tile: clear the selectors of its lanes, and those that take from them (R399). -/
def State.freeSeams (s : State) (t : Nat) : State :=
  (List.range 4).foldl (fun s p =>
    match seamOf t p with
    | none => s
    | some (c, q, l) =>
      if (s.cache (dieOf c)).sels.toList.any (·.en) then
        s.modCache (dieOf c) fun x => clearSelectors x fun q' l' =>
          !((q' == q && l' == l) ||
            (let y := x.sels[(q' * 12 + l') % 48]!
             y.en && !y.term && y.side == q && y.lane == l))
      else s) s

/-- Release a region: the tiles hold no group; instruction and switch memory stay as they are (R338), its seams are
freed and its relocation bit cleared (R392, R399). A fault of one of its harts that has not been recorded is forgotten with
it; a die that is held at the floor notes that a group has left it (R428). -/
def State.releaseRegion (s : State) (lnum origin w h : Nat) : State :=
  let s := (regionTiles origin w h).foldl (fun s t =>
    ((s.freeSeams t.val).modTile t fun x => { ({} : Tile) with imem := x.imem, smem := x.smem }).modDie (tileDie t) fun d =>
      { d with floorLeft := true, faultWait := d.faultWait.filter fun p =>
        !(decide (bits p.record 32 8 < 16) && hartTile p.hart == t) }) s
  s.modHub fun hb => { hb with reloc := hb.reloc.map fun (n, e) =>
    if e.valid && e.lnum == lnum && e.die == origin / 144 then
      let o := e.origins.filter (· != origin % 144)
      (n, { e with origins := o, valid := !o.isEmpty })
    else (n, e) }

/-- Invalidate every translation of the windows of a rank of a context, and its handles (R393, R237). -/
def State.unmapWindows (s : State) (ctx rank w h : Nat) : State :=
  (List.range (w * h * 16)).foldl (fun s i =>
    let va := 0x00FF000000000000 + (rank % 2 ^ 20) * 2 ^ 28 + i * 0x10000
    (s.tlbInvalidate ctx va).revokeHandles ctx va) s

/-! ### Stopping a region -/

/-- A hart has an access outstanding. -/
def regsBusy (r : Regs) : Bool := !r.accesses.isEmpty || r.amo.isSome

/-- No access of the tile's strands and engine is outstanding, and no result is still to come (R373 step 2). -/
def tileDrained (x : Tile) : Bool :=
  x.strands.toList.all (fun k => !regsBusy k.r && k.gather.isNone) && !regsBusy x.eng.r

/-- The Sorus sampler serves a request of the engine. -/
def sorusBusy (e : Engine) : Bool :=
  match e.shared with
  | .sorusRunning _ => true
  | _ => false

/-- Tiles stop (R373 step 1), and the requests that wait at the Sorus sampler for them are withdrawn (R314). -/
def State.stopTiles (s : State) (ts : List TileNo) : State :=
  ts.foldl (fun s t => (s.modTile t fun x => { x with running := false, stopped := true }).modDie (tileDie t) fun d =>
    { d with sorusQ := d.sorusQ.filter (· != t.val) }) s

/-- A request of an engine that goes on again is made again to the sampler of its die (R314). -/
def rerequest (s : State) (t : TileNo) : State :=
  if (s.tile t).eng.shared = .sorusWaiting then s.modDie (tileDie t) fun d => { d with sorusQ := d.sorusQ ++ [t.val] } else s

/-- Every hart of the tiles the state lists. -/
def tileHarts (s : State) : List HartId :=
  s.tiles.flatMap fun p => ((List.finRange 8).map fun k => HartId.strand (tileOf p.1) k) ++ [.engine (tileOf p.1)]

/-- An access is still outstanding. -/
def stillOut (s : State) (q : HartId × Nat) : Bool := (s.regsOf q.1).accesses.any (·.id == q.2)

/-- The accesses of other tiles that have been translated and go to the windows of `ts` (R373 step 3). -/
def intoTiles (s : State) (ts : List TileNo) : List (HartId × Nat) :=
  (tileHarts s).flatMap fun h => if ts.contains (hartTile h) then [] else
    ((s.regsOf h).accesses.filter fun a => (windowTile a.pa).any ts.contains).map fun a => (h, a.id)

/-- A hart's accesses have completed, but for such as wait at a tile that is stopped itself: these fail when it is unmapped
(R373 steps 2 and 3). -/
def regsIdle (s : State) (r : Regs) : Bool :=
  r.amo.isNone && r.accesses.all fun a => a.waits && (windowTile a.pa).any fun t => (s.tile t).stopped

/-- Step 2 of R373 is over for a tile. -/
def tileIdle (s : State) (x : Tile) : Bool :=
  x.strands.toList.all (fun z => regsIdle s z.r && z.gather.isNone) && regsIdle s x.eng.r

/-- Step 2 of R373 is over for a group. -/
def groupIdle (s : State) (l : Launch) (p : Placed) : Bool :=
  (regionTiles p.origin l.r.w l.r.h).all fun t => tileIdle s (s.tile t)

/-- Unmap the tile windows of a group, and note the accesses that were translated before (R373 step 3). -/
def unmapGroup (l : Launch) (s : State) (p : Placed) : State :=
  let ts := regionTiles p.origin l.r.w l.r.h
  let left := intoTiles s ts
  let s := if l.r.gang then s.unmapWindows l.r.ctx p.rank l.r.w l.r.h else s
  (ts.foldl (fun s t => s.modTile t fun x => { x with unmapped := true }) s).modLaunch l.lnum fun l => { l with
    placed := l.placed.map fun q => if q.rank == p.rank then { q with unmapped := some left } else q }

/-- Step 3 of R373 is over for a group: its own accesses, those translated before the unmapping, and a Sorus request under
service have completed (R314). -/
def groupQuiet (s : State) (l : Launch) (p : Placed) : Bool :=
  (match p.unmapped with
    | some left => left.all fun q => !stillOut s q
    | none => false) &&
    (regionTiles p.origin l.r.w l.r.h).all fun t => tileDrained (s.tile t) && !sorusBusy (s.tile t).eng

/-- End a launch that has no group left (R343): status record, then the completion increment when it is done, and
the launch leaves the dispatcher. -/
def State.endLaunch (s : State) (lnum : Nat) : State :=
  match s.launch? lnum with
  | none => s
  | some l =>
    let e : Ending := l.ending.getD (match l.engFault with
      | some (_, m) => ⟨3, 0x12, m, 0, 0, 0⟩
      | none => ⟨3, 0, 0, 0, 0, 0⟩)
    let n := s.hub.heldWrites.length
    let s := s.statusWrite l.queue l.view l.r.status
      (statusBytes e.st e.code l.voided lnum (finishedCount l) e.detail e.epc e.eval e.where_ l.taccept l.tstart)
    let s := s.modHub fun h => { h with
      launches := h.launches.filter (·.lnum != lnum), colls := h.colls.filter (·.lnum != lnum) }
    match e.st, l.r.done with
    | 3, some (c, v) => s.completionAdd n lnum c v
    | _, _ => s

/-- Discard the groups of a launch that is ending as steps 2, 3 and 5 of R373 have it, and end it when none is left (R343,
R372). -/
def State.settle (s : State) (lnum : Nat) : State :=
  match s.launch? lnum with
  | none => s
  | some l =>
    if l.ending.isNone then s
    else
      let s := l.frozen.foldl (fun s f => s.frameMark l.area f.frame false) s
      let s := (l.placed.filter fun p => p.unmapped.isNone && groupIdle s l p).foldl (unmapGroup l) s
      let placed := ((s.launch? lnum).map (·.placed)).getD []
      let gone := placed.filter (groupQuiet s l)
      let s := gone.foldl (fun s p => s.releaseRegion lnum p.origin l.r.w l.r.h) s
      let left := placed.filter fun p => !gone.contains p
      let s := s.modLaunch lnum fun l => { l with placed := left, frozen := [] }
      if left.isEmpty then s.endLaunch lnum else s

/-- Fail or cancel a launch: the first ending stands, its groups stop, and they are discarded once drained (R343). -/
def State.stopLaunch (s : State) (lnum : Nat) (e : Ending) : State :=
  match s.launch? lnum with
  | none => s
  | some l =>
    if l.ending.isSome then s
    else
      let s := s.modLaunch lnum fun l => { l with ending := some e }
      let s := l.placed.foldl (fun s p => s.stopTiles (regionTiles p.origin l.r.w l.r.h)) s
      s.settle lnum

/-- WHERE of a status record: group index, strand, tile index within the region (R327). -/
def whereOf (g : Group) (k : Nat) : Nat :=
  g.gidx.1 + g.gidx.2.1 * 2 ^ 16 + g.gidx.2.2 * 2 ^ 32 + k * 2 ^ 48 + g.index * 2 ^ 51

/-- Fail the launch of a tile's group (R343). -/
def State.failGroup (s : State) (t : TileNo) (code : Nat) (detail epc eval : W64) (k : Nat) : State :=
  match (s.tile t).group with
  | none => s
  | some g => s.stopLaunch g.lnum ⟨4, code, detail, epc, eval, whereOf g k⟩

/-- Fail every admitted launch of the contexts chosen by `p` with MACHINE_CHECK (R366, R417, R443). -/
def State.failAll (s : State) (p : Launch → Bool) (eval : W64) : State :=
  (s.hub.launches.filter p).foldl (fun s l => s.stopLaunch l.lnum ⟨4, 0x13, 0x0D, 0, eval, 0⟩) s

end Sys2Proof.Machine
end

