-- ==== Sys2Proof/Machine/Ops.lean ====
section
/-! DEFINITION. The named operations of a core hart: taking an exception (R358, R286, R424) and returning from one
(R362), completing an instruction (R111, R120, R13), transferring control (R106-R109), and access to a tile's local
memory (R114, R182). -/
namespace Sys2Proof.Machine

/-- The trap causes of R356. -/
inductive Cause
  | illegal | alignment | bounds | notPresent | protection | handleRevoked | streamMisuse | matrixMisuse
  | decodeFault | switchFault | overrun | nondeterminism | machineCheck | trap
deriving DecidableEq, Repr

/-- ECAUSE.CODE of a cause (R356). -/
def causeCode : Cause → Nat
  | .illegal => 1 | .alignment => 2 | .bounds => 3 | .notPresent => 4 | .protection => 5 | .handleRevoked => 6
  | .streamMisuse => 7 | .matrixMisuse => 8 | .decodeFault => 9 | .switchFault => 10 | .overrun => 11
  | .nondeterminism => 12 | .machineCheck => 13 | .trap => 14

/-- Instruction addresses an EPC can hold: bits [16:2] (R357). -/
def epcMask (a : W64) : W64 := a &&& 0x1FFFC

/-- ECAUSE of a trap (R357, R358). -/
def ecauseWord (c : Cause) (async nested : Bool) : W64 :=
  w64 (causeCode c + b2n async * 2 ^ 8 + b2n nested * 2 ^ 9)

/-- The trap registers of a strand that takes a trap (R358): EPC, ECAUSE and EVAL. -/
def trapRegs (x : Strand) (c : Cause) (eval : W64) (async : Bool) (at_ : W64) : Strand :=
  { x with epc := epcMask at_, ecause := ecauseWord c async x.inh, eval := eval }

/-- A party waits for no bank any more. -/
def noWait (p : BankParty) (x : Tile) : Tile := { x with bankWait := x.bankWait.filter fun w => w.party != p }

/-- A strand wants no bank any more for an instruction that has not issued; a gather, scatter, amo or sinj under way keeps
its place (R142, R265). -/
def leaveBanks (k : Fin 8) (x : Tile) : Tile :=
  let z := x.strands[k]
  if z.gather.isSome || z.r.amo.isSome || z.sinj.isSome then x else noWait (.strand k) x

/-- The trap cannot be vectored: INH set, or no usable handler address (R358). -/
def unhandled (x : Strand) : Bool := x.inh || x.etvec.toNat % 4 != 0 || decide (0xFFFC < x.etvec.toNat)

/-- A strand takes a trap (R358): the trap registers are written; a machine check, a nested trap or a trap without a
usable handler ends the group (R365, R26); otherwise INH is set and the PC goes to the handler. -/
def takeTrap (s : State) (t : TileNo) (k : Fin 8) (c : Cause) (eval : W64) (async : Bool) (at_ : W64) : State :=
  let x := s.strandAt t k
  let s := (s.modStrand t k fun x => trapRegs x c eval async at_).modTile t (leaveBanks k)
  if c = .machineCheck then s.failGroup t 0x13 0x0D (epcMask at_) eval k.val
  else if unhandled x then s.failGroup t 0x10 (ecauseWord c async x.inh) (epcMask at_) eval k.val
  else s.modStrand t k fun x => { x with inh := true, r := { x.r with pc := x.etvec } }

/-- ERR of R286 for a condition on an engine or management hart. A store through a handle with W = 0, which R286 does not
list, is a protection fault: ERR 5, and EFAULT the handle's offset. DESIGN CHOICE, log 105. -/
def errCode : Cause → Nat
  | .illegal => 1 | .alignment => 3 | .bounds => 4 | .notPresent => 5 | .protection => 5 | .nondeterminism => 6
  | .machineCheck => 8 | .trap => 9 | .handleRevoked => 10 | _ => 1

/-- EFAULT of R286: the word address for ILLEGAL, the descriptor address for NONDETERMINISM, else the value. -/
def errValue (c : Cause) (pc eval desc : W64) : W64 :=
  match c with
  | .illegal => pc
  | .nondeterminism => desc
  | _ => eval

/-- The code with which a job ends: the first that is an error, so that an access which a job left outstanding and which
then fails still ends it with that error (R286, R292). -/
def firstError (old : Option (Nat × W64)) (err : Nat) (efault : W64) : Nat × W64 :=
  match old with
  | some (0, _) | none => (err, efault)
  | some e => e

/-- The running job of an engine ends with a code (R286, R292). -/
def endJob (s : State) (t : TileNo) (err : Nat) (efault : W64) : State :=
  s.modTile t fun x => { x with eng := { x.eng with ending := some (firstError x.eng.ending err efault) } }

/-- The descriptor address of the running job (R288). -/
def jobDesc (x : Tile) : W64 := w64 (bits (x.eng.job.getD 0).toNat 0 19)

/-- A condition of the instruction at `at_` stops a management hart: MHVAL, MHSTAT, and interrupt cause POWER (R424). One of an
access that was outstanding when the hart stopped changes neither: they name the condition that stopped it. -/
def stopMgmt (s : State) (d : DieNo) (err : Nat) (val at_ : W64) : State :=
  if !(s.die d).mgmt.running && bit (s.die d).mgmt.mhstat.toNat 8 then s
  else (s.modDie d fun x => { x with mgmt := { x.mgmt with
      running := false, mhval := val
      mhstat := w64 (err + 2 ^ 8 + at_.toNat % 2 ^ 16 * 2 ^ 16) } }).irq 6

/-- An exception of the running hart, at instruction address `at_`: a strand traps (R358), a tile engine's job ends
(R286), a management hart stops (R424). -/
def raiseAt (c : Cause) (eval at_ : W64) (s : State) : State :=
  match s.hart with
  | .strand t k => takeTrap s t k c eval false at_
  | .engine t => endJob s t (errCode c) (errValue c at_ eval (jobDesc (s.tile t)))
  | .mgmt d => stopMgmt s d (errCode c) (errValue c at_ eval 0) at_

/-- Work on behalf of another hart. -/
def onHart (h : HartId) (f : State → State) (s : State) : State := { f { s with hart := h } with hart := s.hart }

/-- EVAL of a residue mismatch in the register of a number: g 0-31, v 32-63, a 64-79 (R365). -/
def residueEval (n : Nat) : W64 := w64 (2 ^ 63 + n)

/-- An exception at the running instruction. -/
def raise (c : Cause) (eval : W64) (s : State) : State := raiseAt c eval s.regs.pc s

/-- The return from an exception (R362): INH clears and the PC takes EPC, or the bounds trap when EPC lies beyond
instruction memory. -/
def returnFromTrap (s : State) : State :=
  if 0xFFFC < s.me.epc.toNat then raise .bounds s.me.epc s
  else s.modMe fun x => { x with inh := false, r := { x.r with pc := x.epc, issued := x.r.issued + 1 } }

/-- The highest instruction address of a hart (R13, R282, R424). -/
def pcLimit : HartId → Nat
  | .mgmt _ => 0xFFEC
  | _ => 0xFFFC

/-- One loop level at the end of the instruction at the PC (R111): `some` when the back edge is taken. -/
def backLevel (k : Fin 2) (r : Regs) : Option Regs :=
  if r.lc[k] ≠ 0 ∧ r.pc + 4 = r.le[k] ∧ 1 < r.lc[k].toNat then
    some { r with lc := r.lc.set k (r.lc[k] - 1), pc := r.lb[k] }
  else none

/-- A level that ends without a back edge is left inactive (R111). -/
def endLevel (k : Fin 2) (r : Regs) : Regs :=
  if r.lc[k] ≠ 0 ∧ r.pc + 4 = r.le[k] then { r with lc := r.lc.set k 0 } else r

/-- The back edge decided after the instruction at the PC: level 1, then level 0; `none` in the second part when the
hart steps on (R111). -/
def backEdge (r : Regs) : Regs × Bool :=
  match backLevel 1 r with
  | some r' => (r', true)
  | none =>
    let r := endLevel 1 r
    match backLevel 0 r with
    | some r' => (r', true)
    | none => (endLevel 0 r, false)

/-- Step to the next word: beyond the last one the bounds condition, after completion (R13). -/
def stepOn (s : State) : State :=
  let a := s.regs.pc + 4
  if pcLimit s.hart < a.toNat then raiseAt .bounds a a s
  else s.modRegs fun r => { r with pc := a }

/-- An instruction that transfers no control completes: it counts in ISSUED (R120), then the back edge or the next
word (R111, R13). -/
def complete (s : State) : State :=
  let (r, taken) := backEdge { s.regs with issued := s.regs.issued + 1 }
  let s := s.modRegs fun _ => r
  if taken then s else stepOn s

/-- An instruction of the control kind that does not transfer completes without a back edge (R111). -/
def completeOn (s : State) : State := stepOn (s.modRegs fun r => { r with issued := r.issued + 1 })

/-- A transfer of control to `t` completes (R106-R108). -/
def completeTo (t : W64) (s : State) : State :=
  s.modRegs fun r => { r with pc := t, issued := r.issued + 1 }

/-- Transfer to `t`, or the bounds exception with nothing else done (R13). -/
def jumpTo (t : W64) (k : State → State) (s : State) : State :=
  if pcLimit s.hart < t.toNat then raise .bounds t s else completeTo t (k s)

/-! ### Local memory of a tile -/

/-- Bytes of local memory (R10). -/
def lmSize : Nat := 0x80000

/-- A side entry whose range a write of `n` bytes at `a` touches loses VALID (R182). -/
def sideTouched (a n : Nat) (e : SideEntry) : Bool := e.valid && a < e.addr * 32 + e.len * 32 && e.addr * 32 < a + n

/-- Clear the side entries a test names (R181, R182); a cleared entry that sdec uses is lost to it (R185). -/
def sideDrop (p : Fin 64 → Bool) (x : Tile) : Tile :=
  let mode : DecMode := match x.sw.mode with
    | .decode e j len flow partner =>
      if p e then .lost j len flow partner x.side[e].flow x.side[e].seq false else x.sw.mode
    | m => m
  { x with
    side := Vector.ofFn fun i => if p i then { x.side[i] with valid := false } else x.side[i]
    sideOrder := x.sideOrder.filter fun i => !p i
    sw := { x.sw with mode := mode } }

/-- Clear the side entries a write touches (R182). -/
def sideClear (a n : Nat) (x : Tile) : Tile := sideDrop (fun i => sideTouched a n x.side[i]) x

/-- Of the words listed as bad that `n` bytes at `a` touch, the one marked first (R366). Which of several one access reports
in EVAL is not stated. DESIGN CHOICE, log 90. -/
def badIn (l : List Nat) (a n : Nat) : Option Nat := l.find? fun w => decide (a < 4 * w + 4) && decide (4 * w < a + n)

/-- A write of a whole word puts it right (R366). -/
def healed (l : List Nat) (a n : Nat) : List Nat := l.filter fun w => !(decide (a ≤ 4 * w) && decide (4 * w + 4 ≤ a + n))

/-- Write bytes of a tile's local memory; touched side entries are cleared first (R116, R182). -/
def tileWrite (a : Nat) (bs : List Byte) (x : Tile) : Tile :=
  let x := sideClear a bs.length x
  { x with lm := memWrite x.lm a bs, badLm := healed x.badLm a bs.length }

/-- A write by a strand, the matrix unit or through the window, remembered until the end of the cycle for an install that
meets it (R182). -/
def tileStore (a : Nat) (bs : List Byte) (x : Tile) : Tile :=
  { tileWrite a bs x with wrote := (a, bs.length) :: x.wrote }

/-- Natural value of `n` bytes of a tile's local memory. -/
def tileLoad (x : Tile) (a n : Nat) : Nat := memRead x.lm a n

/-- The bank of a local address (R19). -/
def bankOf (a : Nat) : Fin 16 := ⟨a / 64 % 16, by omega⟩

/-- Hold a bank until cycle `c` (R265). -/
def holdBank (a c : Nat) (x : Tile) : Tile := { x with bankUntil := x.bankUntil.set (bankOf a) c }

/-- The matrix unit takes a bank in this cycle, ahead of a decoding read that was ranked for it and of an amo's second cycle
(R203, R250). -/
def claimBank (a : Nat) (x : Tile) : Tile :=
  { holdBank a (x.cycle + 1) x with
    matrixAt := some (x.cycle, a)
    decodeAt := x.decodeAt.filter fun p => p.1 != x.cycle || bankOf p.2 != bankOf a }

/-- The bank of an address is free in this cycle (R117); no access holds one across a cycle in which the clock stands. -/
def bankFree (x : Tile) (a : Nat) : Bool := !x.running || decide (x.bankUntil[bankOf a] ≤ x.cycle)

/-- A party that waits for a bank still wants it: a strand until it has had it or its instruction gives way to a trap, since
its turn to issue comes (R159, R160); another party if it asked in the last cycle (R265). -/
def stillWaits (x : Tile) (w : BankWait) : Bool :=
  match w.party with
  | .strand _ => true
  | _ => decide (x.cycle ≤ w.asked + 1)

/-- The cycle since which a party wants the bank of an address (R265). -/
def wantsSince (p : BankParty) (a : Nat) (x : Tile) : Nat :=
  match x.bankWait.find? fun w => w.party == p && w.bank == bankOf a && stillWaits x w with
  | some w => w.since
  | none => x.cycle

/-- A party that has waited longer is served first (R265). -/
def outwaited (p : BankParty) (a : Nat) (x : Tile) : Bool :=
  x.running && x.bankWait.any fun w => w.bank == bankOf a && w.party != p && decide (w.since < wantsSince p a x) && stillWaits x w

/-- A party's own place in the waiting lists of a bank. -/
def dropWait (p : BankParty) (b : Fin 16) (x : Tile) : Tile :=
  { x with bankWait := x.bankWait.filter fun w => !(w.party == p && w.bank == b) }

/-- A party stands in the waiting list of a bank, since a cycle (R265). -/
def waitFrom (p : BankParty) (b : Fin 16) (since : Nat) (x : Tile) : Tile :=
  { dropWait p b x with bankWait := (dropWait p b x).bankWait ++ [⟨p, b, since, x.cycle⟩] }

/-- A party asks for the bank of an address for `n` cycles (R117, R265): it has it, when it is free and nobody has waited
longer; otherwise the party waits. -/
def takeBank (p : BankParty) (a n : Nat) (x : Tile) : Bool × Tile :=
  if bankFree x a && !outwaited p a x then (true, holdBank a (x.cycle + n) (dropWait p (bankOf a) x))
  else (false, waitFrom p (bankOf a) (wantsSince p a x) x)

end Sys2Proof.Machine
end

