-- ==== Sys2Proof/Machine/Bank.lean ====
section
/-! DEFINITION. The banks of local memory that the matrix unit is about to claim (R203, R250, R265), with the begin
condition of its instructions (R198, R201) on which that rests, and the asking for a bank by the running hart. -/
namespace Sys2Proof.Machine

/-! ### The begin condition -/

/-- Scale flits of a block by its first flit alone, as a latch sizes it (R199). -/
def latchScales (h : Nat) : Nat :=
  if !bit h 24 then 0 else if bits h 8 8 ≤ 32 then 1 else 2

/-- Header of a latched block. -/
def latchHeader (y : Latch) : Nat := ((y.flits.head?).map (·.data.toNat)).getD 0

/-- Flits of the block whose header stands at a local address (R199, R211). -/
def blockAt (x : Tile) (a : W64) : Nat := 65 + latchScales (tileLoad x a.toNat 32)

/-- The latch is not forwarding, and was not at the start of this cycle (R198, R201). -/
def notForwarding (y : Latch) (cycle : Nat) : Bool :=
  y.st != .forwarding && (decide (y.since ≤ cycle) || y.st == .filling || y.st == .full)

/-- The begin condition of R201. -/
def beginCond (m : Matrix) (cycle : Nat) (i : Instr) : Bool :=
  let settled (l : Fin 2) : Bool := decide (m.latch[l].since ≤ cycle)
  match i with
  | .mma _ _ _ _ l .. | .mms _ _ _ _ l .. | .mhdr _ l =>
    settled l && m.latch[l].st != .armed && m.latch[l].st != .filling && m.latch[l].st != .forwarding
  | .mlb _ l | .mlarm l _ => notForwarding m.latch[l] cycle
  | .mlfree l => settled l && m.latch[l].st != .filling && m.latch[l].st != .forwarding
  | .mwait => notForwarding m.latch[0] cycle && notForwarding m.latch[1] cycle
  | _ => true

/-- The header is accepted in header mode (R206). -/
def headerAccepted (h : Nat) : Bool :=
  headerOk h && !hdrCoded h && !((bits h 0 8 == 0x30 || bits h 0 8 == 0x31) && bit h 24)

/-- The instruction is mlfree: it begins only after the switch has moved the flits of its cycle (R199). -/
def isMlfree : Instr → Bool
  | .mlfree _ => true
  | _ => false

/-- The accumulator block an instruction names in its acc field; mtag does not count here (R193). -/
def accNamed : Instr → Option (Fin 16)
  | .mma c .. => some c
  | .mms c .. => some c
  | .mrow c .. => some c
  | .mwrow c .. => some c
  | .mst c .. => some c
  | .mzero c => some c
  | _ => none

/-! ### The checks at the begin -/

/-- EVAL of a MATRIX_MISUSE trap (R213). -/
def misuse (code : Nat) (l : Fin 2) : W64 := w64 (code + l.val * 2 ^ 8)

/-- A local range check: alignment, then bounds (R205, R208, R211). -/
def rangeCheck (a : W64) (align len : Nat) : Option (Cause × W64) :=
  if a.toNat % align ≠ 0 then some (.alignment, a)
  else if 0x80000 < a.toNat + len then some (.bounds, a)
  else none

/-- The checks of an mma or mms when it begins (R205, R213). -/
def macCheck (x : Tile) (c : AccNo) (l : Fin 2) (hd : Bool) (a : W64) : Option (Cause × W64) :=
  let y := x.mx.latch[l]
  let h := latchHeader y
  if y.st = .free then some (.matrixMisuse, misuse 1 l)
  else if hd && !headerAccepted h then some (.matrixMisuse, misuse 3 l)
  else if x.mx.tagv[c] && bits h 32 16 != x.mx.atag[c].toNat then
    some (.matrixMisuse, w64 (4 + l.val * 2 ^ 8 + bits h 32 16 * 2 ^ 16 + x.mx.atag[c].toNat * 2 ^ 32))
  else rangeCheck a 64 (2048 + (if hd && bit h 24 then 64 else 0))

/-- The exception an instruction raises instead of beginning (R213). -/
def beginCheck (x : Tile) (op : MatOp) : Option (Cause × W64) :=
  match op.instr with
  | .mma c _ _ _ l _ hd _ => macCheck x c l hd op.a
  | .mms c _ _ _ l _ hd _ => macCheck x c l hd op.a
  | .mlb _ l =>
    if x.mx.latch[l].st ≠ .free then some (.matrixMisuse, misuse 2 l)
    else (rangeCheck op.a 32 32).or (rangeCheck op.a 32 (32 * blockAt x op.a))
  | .mlarm l _ => if x.mx.latch[l].st ≠ .free then some (.matrixMisuse, misuse 2 l) else none
  | .mhdr _ l => if x.mx.latch[l].st = .free then some (.matrixMisuse, misuse 1 l) else none
  | .mst _ _ f => rangeCheck op.a 64 (if f = .f32 then 4096 else 2048)
  | _ => none

/-- Words of a half-row (R207). -/
def halfRow (c : AccNo) (row : Fin 32) (half : Bool) : Nat := 0x1000 * c.val + 128 * row.val + 64 * b2n half

/-- Accumulator bytes that an instruction consumes: offset and length (R205, R207, R208). -/
def accConsumed : Instr → Option (Nat × Nat)
  | .mma c _ _ _ _ _ _ z => if z then none else some (0x1000 * c.val, 0x1000)
  | .mms c _ _ _ _ _ _ z => if z then none else some (0x1000 * c.val, 0x1000)
  | .mst c _ _ => some (0x1000 * c.val, 0x1000)
  | .mrow c _ row half => some (halfRow c row half, 64)
  | _ => none

/-- EVAL of the machine check of an instruction that consumes accumulator bytes `p`: the window offset of a bad word, or the
number of an accumulator whose residue does not match (R213, R365). -/
def accBadAt (x : Tile) (p : Nat × Nat) : Option W64 :=
  ((badIn x.badAcc p.1 p.2).map fun w => w64 (0x80000 + 4 * w)).or
    ((x.accResidue.find? fun c => c == p.1 / 0x1000).map fun c => residueEval (64 + c))

/-- See `accBadAt`, for all that an instruction consumes. -/
def accBad (x : Tile) (i : Instr) : Option W64 := (accConsumed i).bind (accBadAt x)

/-! ### Claims -/

/-- The granule or flit of local memory that an instruction uses `k` cycles after its begin (R203). -/
def granuleAt (x : Tile) (i : Instr) (a : W64) (k : Nat) : Option Nat :=
  let mac (l : Fin 2) (hd : Bool) : Option Nat :=
    if k < 32 then some (a.toNat + 64 * k)
    else if k == 32 && hd && bit (latchHeader x.mx.latch[l]) 24 then some (a.toNat + 2048) else none
  match i with
  | .mma _ _ _ _ l _ hd _ => mac l hd
  | .mms _ _ _ _ l _ hd _ => mac l hd
  | .mlb _ l => if k = 0 ∨ k < x.mx.latch[l].size then some (a.toNat + 32 * k) else none
  | .mst _ _ f => if k < (if f = .f32 then 64 else 32) then some (a.toNat + 64 * k) else none
  | _ => none

/-- The address the matrix unit uses in the next cycle, as far as this cycle shows it: the next granule of the executing
instruction, or the first one of the queued instruction that then begins (R203). What this cycle does not show yet, an amo
meets in its second cycle. -/
def nextClaim (x : Tile) : Option Nat :=
  let first (c : Nat) : Option Nat := match x.mx.queue with
    | op :: _ =>
      if x.mx.beginFrom ≤ c && beginCond x.mx c op.instr && (beginCheck x op).isNone && (accBad x op.instr).isNone &&
          !((accNamed op.instr).any fun n => x.mx.accWait.any fun w => w.2 == n.val) then granuleAt x op.instr op.a 0
      else none
    | [] => none
  match x.mx.run with
  | some r =>
    if r.start + r.dur ≤ x.cycle + 1 then first (x.cycle + 1) else granuleAt x r.op.instr r.op.a (x.cycle + 1 - r.start)
  | none => first (x.cycle + 1)

/-- A party asks for the bank of an address for an amo, which holds it for two cycles and starts only when the matrix unit
claims it in neither (R250, R265). A claim that shows only in the second cycle undoes the start (`matrixTook`). -/
def takeBankAmo (p : BankParty) (a : Nat) (x : Tile) : Bool × Tile :=
  if (nextClaim x).map bankOf = some (bankOf a) then (false, waitFrom p (bankOf a) (wantsSince p a x) x)
  else takeBank p a 2 x

/-- The matrix unit has claimed the bank of an address in this cycle (R203). -/
def matrixTook (x : Tile) (a : Nat) : Bool := x.matrixAt.any fun p => p.1 == x.cycle && bankOf p.2 == bankOf a

/-! ### The running hart -/

/-- The party the running hart is at a bank (R265). -/
def partyOf : HartId → BankParty
  | .strand _ k => .strand k
  | _ => .engine

/-- A local access of the running hart asks for its bank: whether it has it (R117). -/
def askBank (a : Nat) (s : State) : Bool × State :=
  let r := takeBank (partyOf s.hart) a 1 s.myTile
  (r.1, s.modMyTile fun _ => r.2)

/-- See `askBank`, for an amo (R250). -/
def askBankAmo (a : Nat) (s : State) : Bool × State :=
  let r := takeBankAmo (partyOf s.hart) a s.myTile
  (r.1, s.modMyTile fun _ => r.2)

/-- The access of the running hart completes after `n` cycles (R115). -/
def busyFor (n : Nat) (s : State) : State := s.modRegs fun r => { r with accessFrom := s.cyc + n }

end Sys2Proof.Machine
end

