-- ==== Sys2Proof/Machine/Operands.lean ====
section
/-! DEFINITION. Operands: general, vector and mask registers, hard-wired g0 and m0, registers bound to stream queues
(R162-R166), the scoreboard (R98, R100, R127), and the words of a vector register. -/
namespace Sys2Proof.Machine

/-- The queue pair a register is bound to for the running strand: g24-g31 or v24-v31 (R164). -/
def boundTo (s : State) (vec : Bool) (r : Reg) : Option (Fin 8) :=
  match s.hart with
  | .strand t k =>
    if 24 ≤ r.val then
      let q : Fin 8 := fin8 (r.val - 24)
      if (s.tile t).binds[q] = some ⟨k, vec⟩ then some q else none
    else none
  | _ => none

/-- SSTAT after a pop (R166): the first word popped by the instruction, and the queue popped last. Of an instruction that pops a
scalar and a vector queue, VEC, H2 and E2 follow the first operand popped. DESIGN CHOICE, log 98. -/
def sstatPop (old : W64) (seen : Bool) (q : Fin 8) (vec : Bool) (e0 e4 : QEntry) : W64 :=
  if seen then w64 (old.toNat - bits old.toNat 8 3 * 2 ^ 8 + q.val * 2 ^ 8)
  else w64 (b2n e0.h + b2n e0.e * 2 + (if vec then b2n e4.h * 4 + b2n e4.e * 8 + 16 else 0) + e0.pos * 2 ^ 5 +
    q.val * 2 ^ 8 + 2 ^ 15)

/-- Take `n` words from an input queue of the running strand's tile, and set SSTAT (R165, R166). -/
def popWords (s : State) (seen vec : Bool) (q : Fin 8) (n : Nat) : List W64 × State :=
  let es := (s.myTile.inQ[q]).take n
  let s := s.modMyTile fun x => { x with inQ := x.inQ.set q (x.inQ[q].drop n) }
  let s := s.modMe fun x => { x with
    sstat := sstatPop x.sstat seen q vec (es[0]?.getD default) (es[4]?.getD default) }
  (es.map (·.word), s)

/-- Words popped at issue go back to the heads of their queues, and SSTAT is as it was: the instruction has trapped (R165).
A queue that has been filled up in between then holds more than 16 words until they are popped. DESIGN CHOICE, log 18. -/
def giveBack (h : HartId) (l : List (Fin 8 × List QEntry)) (old : W64) (s : State) : State :=
  match h, l with
  | .strand t k, _ :: _ =>
    let s := l.foldr (fun q s => s.modTile t fun x => { x with inQ := x.inQ.set q.1 (q.2 ++ x.inQ[q.1]) }) s
    s.modStrand t k fun z => { z with sstat := old }
  | _, _ => s

/-- The value of a general register: g0 reads 0 (R14). -/
def plainG (r : Regs) (a : Reg) : W64 := if a = 0 then 0 else r.g[a]

/-- Read a general register operand; a bound one pops a word (R165). `seen` says that the instruction has popped
already, and so does the second part of the answer. -/
def popG (seen : Bool) (a : Reg) (s : State) : W64 × Bool × State :=
  match boundTo s false a with
  | some q =>
    let (ws, s) := popWords s seen false q 1
    (ws.headD 0, true, s)
  | none => (plainG s.regs a, seen, s)

/-- A vector of eight words, word j at bits [64j + 63 : 64j] (R165). -/
def ofWords (ws : List W64) : V512 := BitVec.ofNat 512 (ws.foldr (fun w acc => w.toNat + 2 ^ 64 * acc) 0)

/-- Word j of a vector. -/
def vecWord (v : V512) (j : Nat) : W64 := v.extractLsb' (64 * j) 64

/-- The eight words of a vector. -/
def toWords (v : V512) : List W64 := (List.range 8).map (vecWord v)

/-- Read a vector register operand; a bound one pops eight words (R165). -/
def popV (seen : Bool) (a : Reg) (s : State) : V512 × Bool × State :=
  match boundTo s true a with
  | some q =>
    let (ws, s) := popWords s seen true q 8
    (ofWords ws, true, s)
  | none => (s.me.v[a], seen, s)

/-- The value of a mask register; m0 is all ones (R14). -/
def readM (s : State) (m : Reg8) : W64 := if m = 0 then BitVec.allOnes 64 else s.me.m[m]

/-- Append words to an output queue, available from cycle `c` or on the completion of access `id`, and no earlier
than the words before them (R165). -/
def pushWords (x : Tile) (k : Fin 8) (ws : List W64) (c : Nat) (id : Option Nat) : Tile :=
  let last := (x.outQ[k].getLast?.map (·.from_)).getD 0
  let p := x.outPos[k]
  let es := ws.zipIdx.map fun (w, i) =>
    { word := w, h := false, e := false, pos := (p.val + i) % 4, from_ := max c last, pending := id : QEntry }
  { x with
    outQ := x.outQ.set k (x.outQ[k] ++ es)
    outPos := x.outPos.set k ⟨(p.val + ws.length) % 4, Nat.mod_lt _ (by decide)⟩ }

/-- Set a general register with its latency; writes of g0 are discarded (R99). Its residue matches again (R122). -/
def setG (r : Regs) (d : Reg) (v : W64) (ready : Nat) : Regs :=
  if d = 0 then r
  else { r with g := r.g.set d v, gReady := r.gReady.set d ready, residue := r.residue.filter (· != d.val) }

/-- Set a vector register, readable from a cycle; its residue matches again (R153). -/
def setV (z : Strand) (d : Reg) (v : V512) (ready : Nat) : Strand :=
  { z with v := z.v.set d v, vReady := z.vReady.set d ready
           r := { z.r with residue := z.r.residue.filter (· != 32 + d.val) } }

/-- A result or flag of the running instruction is written at cycle `c`, wherever it goes (R118). -/
def noteResult (c : Nat) (s : State) : State := s.modRegs fun r => { r with resultsFrom := max r.resultsFrom c }

/-- Write a general register after latency `lat`: a bound one pushes a word (R165), g0 discards (R99). -/
def writeG (d : Reg) (v : W64) (lat : Nat) (s : State) : State :=
  noteResult (s.cyc + lat) <| match boundTo s false d with
  | some q => s.modMyTile fun x => pushWords x q [v] (s.cyc + lat) none
  | none => s.modRegs fun r => setG r d v (s.cyc + lat)

/-- Write a vector register after latency `lat`: a bound one pushes eight words (R165). -/
def writeV (d : Reg) (v : V512) (lat : Nat) (s : State) : State :=
  noteResult (s.cyc + lat) <| match boundTo s true d with
  | some q => s.modMyTile fun x => pushWords x q (toWords v) (s.cyc + lat) none
  | none => s.modMe fun x => setV x d v (s.cyc + lat)

/-- Write a mask register after latency `lat`; m0 is fixed (R14, R133). -/
def writeM (d : Reg8) (v : W64) (lat : Nat) (s : State) : State :=
  noteResult (s.cyc + lat) <| if d = 0 then s
  else s.modMe fun x => { x with m := x.m.set d v, mReady := x.mReady.set d (s.cyc + lat) }

/-! ### Results that arrive later -/

/-- The destination of a load: a register, or words of an output queue reserved at issue under `id` (R165). -/
def reserve (vec : Bool) (d : Reg) (id : Nat) (s : State) : Dest × State :=
  match boundTo s vec d with
  | some q => (.queue q id, s.modMyTile fun x => pushWords x q (List.replicate (if vec then 8 else 1) 0) s.cyc (some id))
  | none => (if vec then .v d else if d = 0 then .none else .g d, s)

/-- Give reserved queue words their data; they may leave from cycle `c` (R165). -/
def fillQueue (k : Fin 8) (id : Nat) (ws : List W64) (c : Nat) (x : Tile) : Tile :=
  let first := (x.outQ[k].findIdx? fun e => e.pending == some id).getD 0
  { x with outQ := x.outQ.set k (x.outQ[k].zipIdx.map fun (e, i) =>
      if e.pending == some id then { e with word := ws.getD (i - first) 0, from_ := c, pending := none }
      else e) }

/-- Release reserved queue words (R165). -/
def dropReserved (k : Fin 8) (id : Nat) (x : Tile) : Tile :=
  let n := (x.outQ[k].filter fun e => e.pending == some id).length
  { x with
    outQ := x.outQ.set k (x.outQ[k].filter fun e => e.pending != some id)
    outPos := x.outPos.set k ⟨(x.outPos[k].val + 4 * n - n) % 4, Nat.mod_lt _ (by decide)⟩ }

/-! ### Several operands -/

/-- One general source. -/
def src1 (a : Reg) (s : State) : W64 × State :=
  let (x, _, s) := popG false a s
  (x, s)

/-- Two general sources, taken in operand order a, b (R165). -/
def src2 (a b : Reg) (s : State) : W64 × W64 × State :=
  let (x, p, s) := popG false a s
  let (y, _, s) := popG p b s
  (x, y, s)

/-- Three general sources, taken in operand order a, b, d (R165). -/
def src3 (a b d : Reg) (s : State) : W64 × W64 × W64 × State :=
  let (x, p, s) := popG false a s
  let (y, p, s) := popG p b s
  let (z, _, s) := popG p d s
  (x, y, z, s)

end Sys2Proof.Machine
end

