-- ==== Sys2Proof/Machine/Window.lean ====
section
/-! DEFINITION. A tile's window (R223) and what stands in it: local memory, accumulators (R193), instruction and
switch memory, queue inboxes (R168), the engine's registers (R287-R293), the side-information table (R180), switch
and matrix status (R188, R212), stage barriers (R170-R173). -/
namespace Sys2Proof.Machine

/-- How a target answers an access: performed with its data, failed (R221), not yet, or an uncorrectable error in
the data (R366). -/
inductive Res
  | ok (data : List Byte)
  | fail
  | wait
  | poison
deriving DecidableEq, Repr

/-! ### Stage barriers -/

/-- A barrier completes when no arrival and no byte is missing (R170). -/
def barCheck (b : Barrier) : Barrier :=
  if b.remain = 0 ∧ b.bytes = 0 then { b with phase := !b.phase, remain := b.count } else b

/-- One arrival (R170); the caller has checked REMAIN. -/
def barArrive (b : Barrier) : Barrier := barCheck { b with remain := b.remain - 1 }

/-- A delivery of `v` bytes (R170); BYTES is a signed 32-bit count. -/
def barDeliver (v : Int) (b : Barrier) : Barrier := barCheck { b with bytes := (b.bytes - v).bmod (2 ^ 32) }

/-- Change a barrier of a tile. -/
def modBar (n : Fin 32) (f : Barrier → Barrier) (x : Tile) : Tile := { x with bars := x.bars.set n (f x.bars[n]) }

/-- A value lies in the signed 32-bit range. -/
def inI32 (v : Int) : Bool := -(2 ^ 31) ≤ v && v < 2 ^ 31

/-- An arrival by window store (R173). -/
def barWindowArrive (n : Fin 32) (x : Tile) : Option Tile :=
  if x.bars[n].remain = 0 then none else some (modBar n barArrive x)

/-- A delivery by window store, or of an engine (R173). -/
def barWindowDeliver (n : Fin 32) (v : Int) (x : Tile) : Option Tile :=
  if inI32 v && inI32 (x.bars[n].bytes - v) then some (modBar n (barDeliver v) x) else none

/-- Natural number of a signed value in `w` bits. -/
def twos (w : Nat) (v : Int) : Nat := (v % (2 ^ w : Nat)).toNat

/-- The window words of a barrier (R173). -/
def barWord (b : Barrier) (high : Bool) : Nat :=
  if high then twos 64 b.bytes else b.count + b.remain * 2 ^ 16 + b2n b.phase * 2 ^ 32

/-! ### Queues -/

/-- Free entries of an input queue. -/
def inRoom (x : Tile) (k : Fin 8) : Nat := 16 - x.inQ[k].length

/-- A flit becomes four entries of an input queue, poppable from cycle `c` (R163, R177). -/
def putFlit (x : Tile) (k : Fin 8) (f : Flit) (c : Nat) : Tile :=
  let es := (List.range 4).map fun j =>
    { word := f.data.extractLsb' (64 * j) 64, h := f.h, e := f.e, pos := j, from_ := c, pending := none : QEntry }
  { x with inQ := x.inQ.set k (x.inQ[k] ++ es) }

/-- The flit an output queue offers in cycle `c`: four entries that have entered (R163). -/
def peekFlit (x : Tile) (k : Fin 8) : Option Flit :=
  let es := x.outQ[k].take 4
  if es.length = 4 && es.all (fun e => e.from_ ≤ x.cycle && e.pending.isNone) then
    let e0 := es.headD default
    some { data := BitVec.ofNat 256 (es.foldr (fun e acc => e.word.toNat + 2 ^ 64 * acc) 0), h := e0.h, e := e0.e }
  else none

/-- Remove the flit at the head of an output queue. -/
def dropFlit (x : Tile) (k : Fin 8) : Tile := { x with outQ := x.outQ.set k (x.outQ[k].drop 4) }

/-! ### Engine registers -/

/-- A kick word that R288 rejects. -/
def kickBad (w : W64) : Bool :=
  let n := w.toNat
  bit n 19 || bits n 32 31 != 0 || (bit n 63 && bits n 0 63 != 0) || bits n 0 6 != 0 || 8 < bits n 20 4

/-- The mailbox (R291). -/
def mboxWord (e : Engine) : W64 :=
  w64 (e.done % 2 ^ 16 + e.kicks % 2 ^ 16 * 2 ^ 16 + e.tag % 256 * 2 ^ 32 + e.err % 256 * 2 ^ 40 +
    b2n e.errorBit * 2 ^ 48 + b2n e.idleBit * 2 ^ 49)

/-- Code of an engine's state (R293). -/
def engCode : EngState → Nat
  | .idle => 0 | .running => 1 | .waiting => 2 | .error => 3

/-- OP of a kick word (R288). -/
def kickOp (w : W64) : Nat := bits w.toNat 20 4

/-- ESTATE (R293). -/
def estateWord (e : Engine) : W64 :=
  w64 (engCode e.state + e.queue.length * 4 + (e.job.map kickOp).getD 0 * 2 ^ 5 + e.progress % 2 ^ 32 * 2 ^ 16)

/-- A CLEAR kick leaves the error state (R289). -/
def kickClear (e : Engine) : Engine :=
  if e.state = .error then { e with state := .idle, err := 0, errorBit := false, idleBit := true } else e

/-- Queue a job (R289). -/
def kickQueue (w : W64) (e : Engine) : Engine :=
  { e with queue := e.queue ++ [w], kicks := (e.kicks + 1) % 2 ^ 16, idleBit := false }

/-- A store to KICK (R287). -/
def kickStore (w : W64) (x : Tile) : Res × Tile :=
  if kickBad w then (.fail, x)
  else if bit w.toNat 63 then (.ok [], { x with eng := kickClear x.eng })
  else if x.eng.state = .error then (.fail, x)
  else if 4 ≤ x.eng.queue.length then (.wait, x)
  else (.ok [], { x with eng := kickQueue w x.eng })

/-! ### Side information, switch and matrix status -/

/-- A side-information entry as it reads (R180). -/
def sideWord (e : SideEntry) : Nat :=
  e.flow + e.seq * 2 ^ 16 + e.addr * 2 ^ 32 + e.len * 2 ^ 46 + b2n e.valid * 2 ^ 63

/-- Install an entry in the side table (R181): the entry of its key, else the lowest invalid one, else the oldest valid one
not in use by sdec. A write of the same cycle into its range clears it (R182). Where the entry of its key is the one in use
by sdec, the decode goes on and reads at the new address. DESIGN CHOICE, log 99. -/
def sideInstall (flow seq addr len : Nat) (x : Tile) : Tile :=
  let used : Option (Fin 64) := match x.sw.mode with
    | .decode e _ _ _ _ => some e
    | _ => none
  let all := List.finRange 64
  let pick : Option (Fin 64) :=
    (all.find? fun i => x.side[i].valid && x.side[i].flow == flow && x.side[i].seq == seq).or
      ((all.find? fun i => !x.side[i].valid).or (x.sideOrder.find? fun i => some i != used))
  match pick with
  | none => x
  | some i =>
    let x := { x with
      side := x.side.set i { flow := flow, seq := seq, addr := addr, len := len, valid := true }
      sideOrder := x.sideOrder.filter (· != i) ++ [i] }
    if x.wrote.any fun w => sideTouched w.1 w.2 x.side[i] then sideDrop (· == i) x else x

/-- Code of a switch's run state (R188). -/
def swCode : SwRun → Nat
  | .running => 0 | .waiting => 1 | .stopped => 2 | .halted => 3

/-- The switch state word (R188). -/
def switchWord (w : Switch) : W64 :=
  w64 (w.spc % 2 ^ 11 + w.rep % 2 ^ 12 * 2 ^ 12 + swCode w.run * 2 ^ 24 + w.cnt[0] % 2 ^ 12 * 2 ^ 27 +
    w.cnt[1] % 2 ^ 12 * 2 ^ 39 + w.inj % 2 ^ 12 * 2 ^ 51)

/-- Code of a latch state (R198). -/
def latchCode : LatchState → Nat
  | .free => 0 | .armed => 1 | .filling => 2 | .full => 3 | .forwarding => 4

/-- The latch that L fills: one filling from L, else the armed latch armed earliest (R199). -/
def fillTarget (m : Matrix) : Option (Fin 2) :=
  ([0, 1].find? fun l => m.latch[l].st = .filling && !m.latch[l].byMlb).or m.armOrder.head?

/-- Flits of the block a latch holds. R212 does not say whether L0CNT and L1CNT go on counting flits that have left on F
while forwarding; they count the whole block until the latch leaves that state. DESIGN CHOICE, log 83. -/
def latchCount (l : Latch) : Nat := l.flits.length

/-- MSTAT (R212). -/
def mstatWord (m : Matrix) : W64 :=
  let a := m.latch[0]
  let b := m.latch[1]
  let fwdOf (l : Latch) := if l.st = .forwarding then l.fwd else 0
  w64 (latchCode a.st + b2n a.ring * 8 + latchCode b.st * 16 + b2n b.ring * 2 ^ 7 + latchCount a * 2 ^ 8 +
    latchCount b * 2 ^ 16 + ((fillTarget m).map (·.val)).getD 0 * 2 ^ 23 + b2n m.run.isSome * 2 ^ 24 +
    m.queue.length * 2 ^ 25 + fwdOf a * 2 ^ 32 + fwdOf b * 2 ^ 40)

/-- The unit executes an instruction that names a block (R193). -/
def accBusy (m : Matrix) (blk : Nat) : Bool :=
  match m.run with
  | some r => (accNamed r.op.instr).map (·.val) == some blk
  | none => false

/-- Accumulators whose residue still does not match after `n` bytes at an offset have been written: one written whole matches
again. -/
def accHealed (l : List Nat) (off n : Nat) : List Nat :=
  l.filter fun c => !(decide (off ≤ 0x1000 * c) && decide (0x1000 * c + 0x1000 ≤ off + n))

/-- Write bytes of the accumulators (R192); words written whole are good again (R366). -/
def accStore (off : Nat) (bs : List Byte) (x : Tile) : Tile :=
  { x with acc := memWrite x.acc off bs, badAcc := healed x.badAcc off bs.length
           accResidue := accHealed x.accResidue off bs.length }

/-- A window access waits for an accumulator block no more. -/
def accDone (who : Waiter) (m : Matrix) : Matrix := { m with accWait := m.accWait.filter (·.1 != who) }

/-- A window access that waits at a tile is withdrawn (R221, R373): it holds no place in any line. -/
def withdrawn (who : Waiter) (x : Tile) : Tile :=
  { noWait (.window who) x with amoAt := x.amoAt.filter (·.1 != who), mx := accDone who x.mx }

/-- An accumulator access through the window (R193): it waits while the matrix unit executes an instruction that names the
block; the block serves one window access in a cycle (R265). -/
def accAccess (off n : Nat) (wr : Option (List Byte)) (who : Waiter) (x : Tile) : Res × Tile :=
  let blk := off / 0x1000
  if !(n == 4 || n == 8 || n == 32 || n == 64) || off % n != 0 || 0x10000 ≤ off then (.fail, x)
  else if accBusy x.mx blk || (x.running && x.accServed.contains blk) then
    (.wait, { x with mx := { x.mx with accWait := (who, blk) :: (accDone who x.mx).accWait } })
  else
    let x := { x with accServed := blk :: x.accServed, mx := accDone who x.mx }
    match wr with
    | none => if (badIn x.badAcc off n).isSome then (.poison, x) else (.ok (memBytes x.acc off n), x)
    | some bs => (.ok [], accStore off bs x)

/-- The party is a strand, which reaches no instruction or switch memory (R12, R21). -/
def byStrand : Waiter → Bool
  | .access (.strand ..) _ => true
  | _ => false

/-- A plain memory of the window: not for strands (R12, R21), read any time, written only while the clock stands (R223). -/
def codeAccess (get : Tile → Mem) (put : Mem → Tile → Tile) (off n : Nat) (wr : Option (List Byte)) (who : Waiter)
    (x : Tile) : Res × Tile :=
  if byStrand who then (.fail, x)
  else match wr with
    | none => (.ok (memBytes (get x) off n), x)
    | some bs => if x.running then (.fail, x) else (.ok [], put (memWrite (get x) off bs) x)

/-- An access to local memory through the window, once its bank serves it (R223, R265). -/
def localAccess (off n : Nat) (wr : Option (List Byte)) (who : Waiter) (x : Tile) : Res × Tile :=
  match takeBank (.window who) off 1 x, wr with
  | (false, x), _ => (.wait, x)
  | (true, x), none => if (badIn x.badLm off n).isSome then (.poison, x) else (.ok (memBytes x.lm off n), x)
  | (true, x), some bs => (.ok [], tileStore off bs x)

/-- An amo on local memory through the window asks for its bank, which it wants since a cycle (R250). -/
def amoAsks (off since : Nat) (who : Waiter) (x : Tile) : Res × Tile :=
  match takeBankAmo (.window who) off (waitFrom (.window who) (bankOf off) since x) with
  | (false, x) => (.wait, x)
  | (true, x) => (.wait, { x with amoAt := x.amoAt ++ [(who, since, x.cycle)] })

/-- The one step of an amo on local memory through the window (R250); `f` gives the new value. -/
def amoActs (off n : Nat) (f : Nat → Option Nat) (x : Tile) : Res × Tile :=
  if (badIn x.badLm off n).isSome then (.poison, x)
  else
    let m := tileLoad x off n
    (.ok (leBytes n m), match f m with
      | some v => tileStore off (leBytes n v) x
      | none => x)

/-- An amo on local memory through the window (R250): it holds its bank for two cycles and acts in the second; when the matrix
unit claims the bank in that one, it has not started, and asks again. -/
def localAmo (off n : Nat) (f : Nat → Option Nat) (who : Waiter) (x : Tile) : Res × Tile :=
  let y := { x with amoAt := x.amoAt.filter (·.1 != who) }
  if !x.running then amoActs off n f y
  else match x.amoAt.find? (·.1 == who) with
    | none => amoAsks off (wantsSince (.window who) off x) who x
    | some (_, since, c) =>
      if c = x.cycle then (.wait, x)
      else if c + 1 = x.cycle && !matrixTook x off then amoActs off n f y
      else amoAsks off since who y

/-- An inbox write (R168). -/
def inboxWrite (k : Fin 8) (h e : Bool) (data : W256) (x : Tile) : Res × Tile :=
  if k.val < 3 then (.fail, x)
  else if inRoom x k < 4 then (.wait, x)
  else (.ok [], putFlit x k { data, h, e } (x.cycle + 1))

/-- An access of `n` bytes at window offset `off`, a write when `wr` holds data (R223, R221). -/
def windowAccess (off n : Nat) (wr : Option (List Byte)) (who : Waiter) (x : Tile) : Res × Tile :=
  let rd (v : Nat) : Res × Tile := if wr.isNone && n == 8 && off % 8 == 0 then (.ok (leBytes 8 v), x) else (.fail, x)
  let size (ns : List Nat) := ns.contains n && off % n == 0
  if off < 0x80000 then
    if !size [1, 2, 4, 8, 32, 64] then (.fail, x) else localAccess off n wr who x
  else if off < 0x90000 then accAccess (off - 0x80000) n wr who x
  else if off < 0xA0000 then
    if size [4, 8, 32, 64] then codeAccess (·.imem) (fun m x => { x with imem := m }) (off - 0x90000) n wr who x
    else (.fail, x)
  else if off < 0xA4000 then
    if size [8, 32, 64] then codeAccess (·.smem) (fun m x => { x with smem := m }) (off - 0xA0000) n wr who x
    else (.fail, x)
  else if 0xB0300 ≤ off && off < 0xB0780 then
    match wr with
    | none => (.fail, x)
    | some bs =>
      if n == 32 && off % 0x20 == 0 && off % 0x100 < 0x80 then
        inboxWrite (fin8 (off / 0x100 % 16)) (bit off 5) (bit off 6) (BitVec.ofNat 256 (leVal bs)) x
      else (.fail, x)
  else if off = 0xC0000 then
    match wr with
    | some bs => if n == 8 then kickStore (w64 (leVal bs)) x else (.fail, x)
    | none => (.fail, x)
  else if off = 0xC0008 then rd (mboxWord x.eng).toNat
  else if off = 0xC0010 then rd (estateWord x.eng).toNat
  else if off = 0xC0018 then rd x.eng.efault.toNat
  else if 0xC1000 ≤ off && off < 0xC1200 then rd (sideWord (x.side[(off - 0xC1000) / 8 % 64]'(by omega)))
  else if off = 0xC2000 then rd (switchWord x.sw).toNat
  else if off = 0xC2008 then rd x.sw.fault.toNat
  else if off = 0xC2010 then rd (mstatWord x.mx).toNat
  else if 0xD0000 ≤ off && off < 0xD0200 then
    let b : Fin 32 := ⟨(off - 0xD0000) / 16 % 32, by omega⟩
    match wr with
    | none => rd (barWord x.bars[b] (bit off 3))
    | some bs =>
      if n != 8 || off % 8 != 0 then (.fail, x)
      else
        let r := if bit off 3 then barWindowDeliver b ((w64 (leVal bs)).toInt) x else barWindowArrive b x
        match r with
        | some x => (.ok [], x)
        | none => (.fail, x)
  else (.fail, x)

end Sys2Proof.Machine
end

