-- ==== Sys2Proof/Machine/FaultQ.lean ====
section
/-! DEFINITION. Held translations, fault records and replies: TRANSLATION_WALK, FAULT_RECORD_WRITE, FQREPLY and
FQHEAD_WRITE (R235, R236, R367-R371), and revocation (R237). -/
namespace Sys2Proof.Machine

/-- KIND of a fault record (R368). -/
def faultKind : WalkFault → Nat
  | .notPresent => 1 | .protection => 2 | .replicaWrite => 3 | .keyMismatch => 4 | .malformed => 5

/-- The trap a fatal fault raises (R236). -/
def fatalCause : WalkFault → Cause
  | .notPresent => .notPresent
  | _ => .protection

/-! ### Microcode -/

/-- The shipped microcode (R285): `op g3, g2` and `retire` at 8 × OP. -/
def shippedMicrocode : Mem :=
  (List.range 9).foldl (fun m f => memWrite m (8 * f) (leBytes 8 (0xF8620000 + f + 0x5C000001 * 2 ^ 32))) []

/-- The microcode of a die: what firmware has written, or the image that boot stage 2 loads (R285, R436). -/
def microcodeOf (s : State) (d : DieNo) : Mem :=
  (s.die d).microcode.getD (if 2 ≤ s.rot.stage then shippedMicrocode else [])

/-- The program of a die's management hart: what firmware has written, or the image that boot stage 2 loads (R424, R436). -/
def programOf (s : State) (d : DieNo) : Mem :=
  (s.die d).progMem.getD (if 2 ≤ s.rot.stage then memWrite [] 0 (Config.mgmtProgram.take 0xFFF0) else [])

/-! ### Records -/

/-- SOURCE of a fault record (R368): a strand, or the engine that made the access. An ered is the collective engine's and
a request under service the Sorus sampler's (R282, R308, R314). DEDUCED, log 82. -/
def faultSource (s : State) : HartId → Nat
  | .strand _ k => k.val
  | .engine t =>
    match (s.tile t).eng.shared with
    | .sorusRunning _ => 10
    | _ =>
      match decodeCore (memRead (microcodeOf s (tileDie t)) (s.tile t).eng.r.pc.toNat 4) with
      | .ok (.ered _ _) => 9
      | _ => 8
  | .mgmt _ => 8

/-- Hold or release the translation of a hart. -/
def State.setHeld (s : State) (h : HartId) (x : Option Held) : State := s.modRegsOf h fun r => { r with held := x }

/-- An access is held until its walk, which is made at a free, finite time (R235, R275). -/
def State.holdWalk (s : State) (h : HartId) (va : W64) (wr : Bool) : State :=
  let (n, s) := s.draw
  s.setHeld h (some { va := va, wr := wr, phase := .walk, due := s.now + Config.delay n })

/-- A fault record without its sequence number (R368). -/
def recordOf (s : State) (h : HartId) (kind : Nat) (wr : Bool) (va : W64) (old : Option (Nat × Nat)) : Nat :=
  let t := hartTile h
  let progress := match h with
    | .engine t => (s.tile t).eng.progress % 2 ^ 32
    | _ => 0
  let (od, os) := old.getD (0, 0)
  kind * 2 ^ 32 + b2n wr * 2 ^ 40 + b2n old.isSome * 2 ^ 41 + s.ctxOf h % 2 ^ 16 * 2 ^ 48 +
  va.toNat * 2 ^ 64 +
  ((tileDie t).val + tileIdx t * 2 ^ 8 + faultSource s h * 2 ^ 16 + od * 2 ^ 24 + progress * 2 ^ 32) * 2 ^ 128 +
  (lnumOf s t + os * 2 ^ 32) * 2 ^ 192

/-- Line up a record for the die's fault queue (R367). -/
def State.queueRecord (s : State) (h : HartId) (word : Nat) : State :=
  s.modDie (hartDie h) fun d => { d with faultWait := d.faultWait ++ [⟨h, word⟩] }

/-- A held access ends its instruction with an exception: a strand traps, an engine's job ends (R236, R286). -/
def endHeld (s : State) (h : HartId) (c : Cause) : State :=
  match (s.regsOf h).held with
  | some x =>
    let s := s.setHeld h none
    match h with
    | .strand t n => takeTrap s t n c x.va false (s.regsOf h).pc
    | .engine t => endJob s t (errCode c) x.va
    | .mgmt _ => s
  | none => s

/-- Make the walk of a held access (R233-R236): one that reads a failed line is a machine check (R366); on success the
translation cache holds the page and the access issues anew; on a fault its record is lined up. -/
def walkHeld (s : State) (h : HartId) : State :=
  match (s.regsOf h).held with
  | some x@⟨va, wr, .walk, old, _, _, _⟩ =>
    if walkPoisoned s (s.ctxOf h) va then endHeld s h .machineCheck
    else match walk s (s.viewAt h) (hartDie h) va wr with
    | .ok (hit, s) =>
      let e := { hit.entry with pinned := hintPins s (s.viewAt h) (hartDie h) hit.entry.page hit.entry.size }
      (s.modTile (hartTile h) fun x => tlbInsert x e).setHeld h none
    | .error k =>
      (s.setHeld h (some { x with phase := .record k })).queueRecord h (recordOf s h (faultKind k) wr va old)
  | _ => s

/-- TRANSLATION_WALK: the walker serves the held access of a hart. -/
def execTranslationWalk (h : HartId) (s : State) : Out State := .next (walkHeld s h)

/-- The fault is resolved by the host, not by die-controller firmware (R236): firmware resolves REPLICA_WRITE, and
NOT_PRESENT for pages that a hint places, or the loader, which places the region windows (R393). -/
def forHost (s : State) (word : Nat) : Bool :=
  match bits word 32 8 with
  | 1 => bits word (64 + 48) 9 != 0xFF && (match hintFor s (s.viewIn (bits word 192 32) (bits word 48 16)) (bits word 64 57) with
    | some r => r.kind == 0
    | none => true)
  | 3 => false
  | _ => true

/-- The oldest fault of a die that waits for room writes its record (R367, R368). -/
def writeRecord (s : State) (d : DieNo) : State :=
  let x := s.die d
  match x.faultWait with
  | [] => s
  | p :: rest =>
    if 512 ≤ (x.fqTail + 2 ^ 32 - x.fqHead) % 2 ^ 32 then s
    else
      let seq := x.fqNextSeq
      let s := s.setDie d { x with
        fq := tabSet (x.fqTail % 512) (p.record + seq) x.fq
        fqKeys := if 16 ≤ bits p.record 32 8 then x.fqKeys
          else tabSet seq (bits p.record 48 16, bits p.record 192 32) x.fqKeys
        fqTail := (x.fqTail + 1) % 2 ^ 32, fqNextSeq := (seq + 1) % 2 ^ 32, faultWait := rest }
      let (n, s) := s.draw
      let s := match (s.regsOf p.hart).held with
        | some x@⟨_, _, .record k, _, _, _, _⟩ => s.setHeld p.hart (some { x with
            phase := .reply k seq d.val, lastKey := some (d.val, seq), lastKind := k, due := s.now + Config.delay n })
        | _ => s
      if 16 ≤ bits p.record 32 8 then s.irq 5 else if forHost s p.record then s.irq 0 else s

/-- FAULT_RECORD_WRITE (R367). -/
def execFaultRecordWrite (d : DieNo) (s : State) : Out State := .next (writeRecord s d)

/-- The harts of a die that can hold an access: the strands and engines of its tiles. -/
def hartsOfDie (s : State) (d : DieNo) : List HartId :=
  (s.tiles.filter fun p => p.1 / 144 == d.val).flatMap fun p =>
    ((List.finRange 8).map fun k => .strand (tileOf p.1) k) ++ [.engine (tileOf p.1)]

/-- A hart holds the access whose latest record has this key (R368, R369). -/
def holdsKey (s : State) (seq die : Nat) (h : HartId) : Bool :=
  match (s.regsOf h).held with
  | some ⟨_, _, .reply _ q d, _, _, _, _⟩ => q == seq && d == die
  | _ => false

/-- A fatal fault of a held access (R236, R286). -/
def failHeld (s : State) (h : HartId) : State :=
  match (s.regsOf h).held with
  | some x => endHeld s h (fatalCause x.lastKind)
  | none => s

/-- Reply-list entry `e` of a save area (R374). -/
def replyAddr (area e : Nat) : Nat := area + 0x1000 + 8 * e

/-- The entries of a reply list, oldest first (R370); one in a line that is marked failed is not read (R366). -/
def replyList (s : State) (area : Nat) : List Nat :=
  ((List.range 1024).map fun e => (s.soundRead (replyAddr area e) 8).getD 0).filter fun w => bit w 40

/-- Write a reply list back, the rest of the 1,024 entries zero. -/
def State.setReplyList (s : State) (area : Nat) (l : List Nat) : State :=
  (List.range 1024).foldl (fun s e =>
    let w := l.getD e 0
    if s.hbmRead (replyAddr area e) 8 == w then s else s.soundWrite (replyAddr area e) (leBytes 8 w)) s

/-- Append a reply to a context's list, from a die; a full list drops its oldest (R370). A failed link on the way holds it
(R417). -/
def State.appendReply (s : State) (d : DieNo) (area w : Nat) : State :=
  if !s.tripOpen (dieSite d.val) (replyAddr area 0) 0x2000 then s
  else
  let l := replyList s area ++ [w]
  s.setReplyList area (l.drop (l.length - 1024))

/-- A reply that finds no holder (R370): appended to the list of the record's context, in the save area its launch was
admitted with (R323), unless there is none or the launch has finished. -/
def lateReply (s : State) (d : DieNo) (seq : Nat) (fatal : Bool) : State :=
  match (s.die d).fqKeys.lookup seq with
  | none => s
  | some (_, lnum) =>
    let area := ((s.launch? lnum).map (·.area)).getD 0
    if area == 0 then s
    else s.appendReply d area (seq + d.val * 2 ^ 32 + 2 ^ 40 + b2n fatal * 2 ^ 41)

/-- A held access walks again (R369), at a free, finite time (R275). -/
def State.retryWalk (s : State) (h : HartId) (x : Held) : State :=
  let (n, s) := s.draw
  s.setHeld h (some { x with phase := .walk, oldKey := none, due := s.now + Config.delay n })

/-- A write to FQREPLY (R369, R370). -/
def replyWrite (s : State) (d : DieNo) (v : W64) : State :=
  let n := v.toNat
  let verdict := bits n 40 2
  if bits n 32 8 != d.val || !(verdict == 1 || verdict == 2) then s
  else match (hartsOfDie s d).find? (holdsKey s (bits n 0 32) d.val) with
    | none => lateReply s d (bits n 0 32) (verdict == 2)
    | some h =>
      if verdict == 2 then failHeld s h
      else match (s.regsOf h).held with
        | some x => s.retryWalk h x
        | none => s

/-- FQREPLY (R369). -/
def execFqreply (d : DieNo) (v : W64) (s : State) : Out State := .next (replyWrite s d v)

/-- A write to FQHEAD; one beyond FQTAIL is ignored (R367). -/
def fqHeadSet (s : State) (d : DieNo) (v : W64) : State :=
  let x := s.die d
  let h := bits v.toNat 0 32
  if (h + 2 ^ 32 - x.fqHead) % 2 ^ 32 ≤ (x.fqTail + 2 ^ 32 - x.fqHead) % 2 ^ 32 then s.setDie d { x with fqHead := h }
  else s

/-- FQHEAD_WRITE (R367). -/
def execFqheadWrite (d : DieNo) (v : W64) (s : State) : Out State := .next (fqHeadSet s d v)

/-! ### Changing a leaf -/

/-- The accesses already translated, in a context, in a page (R237 step 4): they use the old mapping. -/
def translatedIn (s : State) (ctx page size : Nat) : List (HartId × Nat) :=
  (tileHarts s).flatMap fun h =>
    ((s.regsOf h).accesses.filter fun a =>
      a.ctx == ctx && decide (page ≤ bits a.va.toNat 0 57) && decide (bits a.va.toNat 0 57 < page + size)).map fun a => (h, a.id)

/-- Steps 1 to 3 of R237 for the page of `size` bytes that holds `va`: the leaf, the cached translations, the handles. -/
def changeLeaf (s : State) (ctx va slot leaf : Nat) : State :=
  let s := if inHbm slot 8 then s.soundWrite slot (leBytes 8 leaf) else s
  (s.tlbInvalidate ctx va).revokeHandles ctx va

/-- REVOCATION: firmware changes the leaf at `leafPa` that maps `va` in context `ctx`, then invalidates the cached
translations and the handles of its page (R237 steps 1-3, R249). It waits for the accesses translated before (step 4), and
then reports the change as done (step 5). -/
def execRevocation (ctx : Fin 256) (va : W64) (leafPa : Nat) (leaf : W64) (s : State) : Out State :=
  let a := bits va.toNat 0 57
  let size := leafSize s ctx.val a
  let left := translatedIn s ctx.val (a / size * size) size
  let s := changeLeaf s ctx.val a leafPa leaf.toNat
  .next { s with revoking := s.revoking ++ [⟨ctx.val, a, left⟩] }

end Sys2Proof.Machine
end

