-- ==== Sys2Proof/Machine/Num.lean ====
section
/-! DEFINITION. Number formats (R68-R76), exact values, the one rounding (R77-R78, R82-R83), conversions (R80-R85),
exact sums, products and fused forms (R128-R130), comparisons and minimumNumber/maximumNumber (R74, R132), and the
matrix accumulation (R93). -/
namespace Sys2Proof.Machine

/-- Exception flags (R78): invalid 16, divide-by-zero 8, overflow 4, underflow 2, inexact 1. -/
abbrev FFlags := BitVec 5

/-- Invalid. -/
def fInvalid : FFlags := 16
/-- Divide-by-zero. -/
def fDivZero : FFlags := 8
/-- Overflow with the inexact that always comes with it. -/
def fOverflow : FFlags := 5
/-- Underflow with inexact. -/
def fUnderflow : FFlags := 3
/-- Inexact. -/
def fInexact : FFlags := 1

/-- Rounding modes (R77), and the nearest mode whose ties go to the greater magnitude (R93 under a sticky bit). -/
inductive RMode
  | rne | rtz | rup | rdn | rna
deriving DecidableEq, Repr, Inhabited

/-- The mode of RMODE[1:0] (R77). -/
def modeOf (r : Nat) : RMode :=
  match r % 4 with
  | 0 => .rne
  | 1 => .rtz
  | 2 => .rup
  | _ => .rdn

/-- An exact value: NaN, an infinity, or ± m × 2^e, where m = 0 is a zero with its sign. -/
inductive Num
  | nan
  | inf (neg : Bool)
  | fin (neg : Bool) (m : Nat) (e : Int)
deriving DecidableEq, Repr, Inhabited

/-- The three families of floating formats (R71, R75, R76). -/
inductive FKind
  | ieee | signed8 | unsigned8
deriving DecidableEq, Repr, Inhabited

/-- A floating format: width, trailing significand bits, bias, the magnitude code of its largest finite value, of its
infinity if it has one, and its canonical NaN. -/
structure Fmt where
  kind : FKind
  width : Nat
  tb : Nat
  bias : Nat
  maxMag : Nat
  infMag : Option Nat
  nanBits : Nat
deriving DecidableEq, Repr, Inhabited

/-- binary32 (R71). -/
def fmtF32 : Fmt := ⟨.ieee, 32, 23, 127, 0x7F7FFFFF, some 0x7F800000, 0x7FC00000⟩
/-- bf16 (R71). -/
def fmtBf16 : Fmt := ⟨.ieee, 16, 7, 127, 0x7F7F, some 0x7F80, 0x7FC0⟩
/-- binary16 (R71). -/
def fmtF16 : Fmt := ⟨.ieee, 16, 10, 15, 0x7BFF, some 0x7C00, 0x7E00⟩

/-- A signed binary8 format of precision `p` (R75). -/
def fmtS8 (p : Nat) (ext : Bool) : Fmt :=
  ⟨.signed8, 8, p - 1, 2 ^ (7 - p), if ext then 0x7E else 0x7F, if ext then some 0x7F else none, 0x80⟩

/-- An unsigned binary8 format of precision `p` (R76). -/
def fmtU8 (p : Nat) (ext : Bool) : Fmt :=
  ⟨.unsigned8, 8, p - 1, 2 ^ (8 - p), if ext then 0xFD else 0xFE, if ext then some 0xFE else none, 0xFF⟩

/-- The binary8 format of a code (R70). -/
def fmt8Of (c : Nat) : Option Fmt :=
  if 0x10 ≤ c ∧ c ≤ 0x16 then some (fmtS8 (c - 0x0F) true)
  else if 0x18 ≤ c ∧ c ≤ 0x1E then some (fmtS8 (c - 0x17) false)
  else if 0x20 ≤ c ∧ c ≤ 0x26 then some (fmtU8 (c - 0x1F) true)
  else if 0x28 ≤ c ∧ c ≤ 0x2E then some (fmtU8 (c - 0x27) false)
  else none

/-- What a lane of a type holds (R68, R69). -/
inductive Elem
  | flt (f : Fmt)
  | int (w : Nat) (sgn : Bool)
deriving DecidableEq, Repr

/-- The element type of a type code under FMT8; none where FMT8 names none (R17, R69). -/
def elemOf (t : VType) (fmt8 : Nat) : Option Elem :=
  match t with
  | .f32 => some (.flt fmtF32)
  | .bf16 => some (.flt fmtBf16)
  | .f16 => some (.flt fmtF16)
  | .b8 =>
    if fmt8 = 0x30 then some (.int 8 true)
    else if fmt8 = 0x31 then some (.int 8 false)
    else (fmt8Of fmt8).map .flt
  | .i8 => some (.int 8 true)
  | .n8 => some (.int 8 false)
  | .i16 => some (.int 16 true)
  | .n16 => some (.int 16 false)
  | .i32 => some (.int 32 true)
  | .n32 => some (.int 32 false)
  | .i64 => some (.int 64 true)
  | .n64 => some (.int 64 false)

/-- Width of a type (R68). -/
def typeWidth (t : VType) : Nat :=
  match t with
  | .f32 => 32 | .bf16 => 16 | .f16 => 16 | .b8 => 8 | .i8 => 8 | .n8 => 8
  | .i16 => 16 | .n16 => 16 | .i32 => 32 | .n32 => 32 | .i64 => 64 | .n64 => 64

/-- Bits of a positive number. -/
def bitLen (m : Nat) : Nat := if m = 0 then 0 else Nat.log2 m + 1

/-- The signed value of `w` bits. -/
def signedOf (w x : Nat) : Int := if bit x (w - 1) then (x % 2 ^ w : Int) - 2 ^ w else (x % 2 ^ w : Int)

/-- Value of a magnitude code: exponent field above the trailing field (R71, R75, R76). -/
def magValue (f : Fmt) (neg : Bool) (mag : Nat) : Num :=
  let ef := mag / 2 ^ f.tb
  let t := mag % 2 ^ f.tb
  if ef = 0 then .fin neg t (1 - f.bias - f.tb) else .fin neg (2 ^ f.tb + t) (ef - f.bias - f.tb)

/-- Value of a code (R71, R75, R76). -/
def decodeF (f : Fmt) (x : Nat) : Num :=
  match f.kind with
  | .ieee =>
    let neg := bit x (f.width - 1)
    let mag := x % 2 ^ (f.width - 1)
    if f.infMag = some mag then .inf neg
    else if f.maxMag < mag then .nan
    else magValue f neg mag
  | .signed8 =>
    if x = 0x80 then .nan
    else if f.infMag = some (x % 128) then .inf (bit x 7)
    else magValue f (bit x 7) (x % 128)
  | .unsigned8 =>
    if x = 0xFF then .nan
    else if f.infMag = some x then .inf false
    else magValue f false x

/-- m / 2^sh rounded to a natural number under a mode, and whether that changed it (R77). -/
def roundShift (mode : RMode) (neg : Bool) (m : Nat) (sh : Int) : Nat × Bool :=
  match sh with
  | .negSucc k => (m * 2 ^ (k + 1), false)
  | .ofNat k =>
    let q := m / 2 ^ k
    let rem := m % 2 ^ k
    if rem = 0 then (q, false)
    else
      let up := match mode with
        | .rne => decide (2 ^ k < 2 * rem) || (decide (2 * rem = 2 ^ k) && q % 2 == 1)
        | .rna => decide (2 ^ k ≤ 2 * rem)
        | .rtz => false
        | .rup => !neg
        | .rdn => neg
      (if up then q + 1 else q, true)

/-- Magnitude code of a rounded significand `r` × 2^q. -/
def magCode (f : Fmt) (r : Nat) (q : Int) : Nat :=
  if bitLen r ≤ f.tb then r
  else
    let (r, q) := if f.tb + 1 < bitLen r then (r / 2, q + 1) else (r, q)
    (q + f.tb + f.bias).toNat * 2 ^ f.tb + (r - 2 ^ f.tb)

/-- Round m × 2^e to a format's precision and subnormal range with the exponent unbounded above (R77): the magnitude
code, inexact, and tiny (R78). A tie of a format without trailing field, whose codes have one-digit significands, goes to
the greater magnitude. DEDUCED, log 22. -/
def roundMag (f : Fmt) (mode : RMode) (neg : Bool) (m : Nat) (e : Int) : Nat × Bool × Bool :=
  let top : Int := e + bitLen m - 1
  let least : Int := 1 - f.bias
  let free := (roundShift mode neg m (top - f.tb - e)).1
  let tiny := decide (top - f.tb + bitLen free - 1 < least)
  let q : Int := max top least - f.tb
  let (r, nx) := roundShift mode neg m (q - e)
  (magCode f r q, nx, tiny)

/-- Put a sign on a magnitude code; a format without −0 has one zero (R81). -/
def signMag (f : Fmt) (neg : Bool) (mag : Nat) : Nat :=
  match f.kind with
  | .ieee => mag + b2n neg * 2 ^ (f.width - 1)
  | .signed8 => if neg && mag != 0 then mag + 128 else mag
  | .unsigned8 => mag

/-- Overflow into a format with an infinity: infinity or the largest finite value by mode (R82). -/
def overflowMag (f : Fmt) (mode : RMode) (neg : Bool) (inf : Nat) : Nat :=
  match mode with
  | .rne | .rna => inf
  | .rtz => f.maxMag
  | .rup => if neg then f.maxMag else inf
  | .rdn => if neg then inf else f.maxMag

/-- A negative source entering an unsigned format (R83). -/
def encodeNegative (f : Fmt) (sat : Bool) (mode : RMode) (v : Num) : Nat × FFlags :=
  let other : Nat × FFlags := if sat then (0, fInexact) else (f.nanBits, fInvalid)
  match v with
  | .fin _ 0 _ => (0, 0)
  | .fin neg m e => if (roundMag f mode neg m e).1 = 0 then (0, fUnderflow) else other
  | _ => other

/-- A finite nonzero value entering a format that has its sign (R77, R78, R82). -/
def encodeFin (f : Fmt) (sat : Bool) (mode : RMode) (neg : Bool) (m : Nat) (e : Int) : Nat × FFlags :=
  let (mag, nx, tiny) := roundMag f mode neg m e
  if f.maxMag < mag then
    if sat then (signMag f neg f.maxMag, fOverflow)
    else match f.infMag with
      | none => (f.nanBits, fOverflow)
      | some i => (signMag f neg (overflowMag f mode neg i), fOverflow)
  else (signMag f neg mag, if nx then (if tiny then fUnderflow else fInexact) else 0)

/-- An exact value entering a floating format (R80-R83). -/
def encodeF (f : Fmt) (sat : Bool) (mode : RMode) (v : Num) : Nat × FFlags :=
  match v with
  | .nan => (f.nanBits, 0)
  | .inf neg =>
    if f.kind = .unsigned8 ∧ neg = true then encodeNegative f sat mode v
    else if sat then (signMag f neg f.maxMag, fInexact)
    else match f.infMag with
      | none => (f.nanBits, fInvalid)
      | some i => (signMag f neg i, 0)
  | .fin neg m e =>
    if f.kind = .unsigned8 ∧ neg = true then encodeNegative f sat mode v
    else if m = 0 then (signMag f neg 0, 0)
    else encodeFin f sat mode neg m e

/-- A code with its NaN made canonical (R72). -/
def canonF (f : Fmt) (x : Nat) : Nat :=
  match decodeF f x with
  | .nan => f.nanBits
  | _ => x

/-! ### Integers -/

/-- Value of an integer lane. -/
def intValue (w : Nat) (sgn : Bool) (x : Nat) : Int := if sgn then signedOf w x else (x % 2 ^ w : Nat)

/-- Least and greatest value of an integer type. -/
def intRange (w : Nat) (sgn : Bool) : Int × Int :=
  if sgn then (-(2 ^ (w - 1)), 2 ^ (w - 1) - 1) else (0, 2 ^ w - 1)

/-- The low `w` bits of an integer. -/
def intBits (w : Nat) (x : Int) : Nat := (x % (2 ^ w : Nat)).toNat

/-- Clamp to a range. -/
def clamp (r : Int × Int) (x : Int) : Int := if x < r.1 then r.1 else if r.2 < x then r.2 else x

/-- A floating value entering an integer type (R84). -/
def toInt (w : Nat) (sgn : Bool) (mode : RMode) (v : Num) : Nat × FFlags :=
  match v with
  | .nan => (0, fInvalid)
  | .inf neg => (intBits w (if neg then (intRange w sgn).1 else (intRange w sgn).2), fInvalid)
  | .fin neg m e =>
    let (r, nx) := roundShift mode neg m (-e)
    let x : Int := if neg then -r else r
    let y := clamp (intRange w sgn) x
    (intBits w y, if y ≠ x then fInvalid else if nx then fInexact else 0)

/-- The exact value of an integer. -/
def ofInt (x : Int) : Num := .fin (decide (x < 0)) x.natAbs 0

/-- One lane converted from element type `a` to `b` (R80-R85, R138). -/
def convert (a b : Elem) (sat : Bool) (mode : RMode) (x : Nat) : Nat × FFlags :=
  match a, b with
  | .flt f, .flt g => if f = g then (canonF f x, 0) else encodeF g sat mode (decodeF f x)
  | .flt f, .int w sgn => toInt w sgn mode (decodeF f x)
  | .int w sgn, .flt g => encodeF g sat mode (ofInt (intValue w sgn x))
  | .int w sgn, .int w' sgn' =>
    (intBits w' (if sat then clamp (intRange w' sgn') (intValue w sgn x) else intValue w sgn x), 0)

/-! ### Exact operations -/

/-- The number with its sign inverted. -/
def negNum : Num → Num
  | .nan => .nan
  | .inf n => .inf (!n)
  | .fin n m e => .fin (!n) m e

/-- The exact sum of two finite values; a zero takes its sign from IEEE addition (R128). -/
def addFin (mode : RMode) (an : Bool) (am : Nat) (ae : Int) (bn : Bool) (bm : Nat) (be : Int) : Num :=
  let e := min ae be
  let x : Int := am * 2 ^ (ae - e).toNat
  let y : Int := bm * 2 ^ (be - e).toNat
  let s := (if an then -x else x) + (if bn then -y else y)
  if s = 0 then .fin (if am = 0 ∧ bm = 0 ∧ an = bn then an else mode = .rdn) 0 0
  else .fin (decide (s < 0)) s.natAbs e

/-- The exact sum (R128, R78). -/
def addNum (mode : RMode) (a b : Num) : Num × FFlags :=
  match a, b with
  | .nan, _ => (.nan, 0)
  | _, .nan => (.nan, 0)
  | .inf n, .inf n' => if n = n' then (.inf n, 0) else (.nan, fInvalid)
  | .inf n, .fin .. => (.inf n, 0)
  | .fin .., .inf n => (.inf n, 0)
  | .fin an am ae, .fin bn bm be => (addFin mode an am ae bn bm be, 0)

/-- The exact product (R128, R78). -/
def mulNum (a b : Num) : Num × FFlags :=
  match a, b with
  | .nan, _ => (.nan, 0)
  | _, .nan => (.nan, 0)
  | .inf n, .inf n' => (.inf (n != n'), 0)
  | .inf n, .fin n' m _ => if m = 0 then (.nan, fInvalid) else (.inf (n != n'), 0)
  | .fin n' m _, .inf n => if m = 0 then (.nan, fInvalid) else (.inf (n != n'), 0)
  | .fin an am ae, .fin bn bm be => (.fin (an != bn) (am * bm) (ae + be), 0)

/-- ± (a × b) ± c before its one rounding (R130): 0 × ∞ is invalid even beside a NaN c. -/
def fmaNum (mode : RMode) (negP negC : Bool) (a b c : Num) : Num × FFlags :=
  let (p, fl) := mulNum a b
  if fl ≠ 0 then (.nan, fl)
  else addNum mode (if negP then negNum p else p) (if negC then negNum c else c)

/-- Compare two values that are no NaN; the zeros are equal. -/
def cmpNum (a b : Num) : Ordering :=
  match a, b with
  | .inf n, .inf n' => if n = n' then .eq else if n then .lt else .gt
  | .inf n, _ => if n then .lt else .gt
  | _, .inf n => if n then .gt else .lt
  | .fin an am ae, .fin bn bm be =>
    let e := min ae be
    let x : Int := am * 2 ^ (ae - e).toNat
    let y : Int := bm * 2 ^ (be - e).toNat
    compare (if an then -x else x) (if bn then -y else y)
  | _, _ => .eq

/-- The sign of a value. -/
def numNeg : Num → Bool
  | .nan => false
  | .inf n => n
  | .fin n _ _ => n

/-- `a` lies below `b`, −0 below +0 (R74). -/
def belowNum (a b : Num) : Bool :=
  match cmpNum a b with
  | .lt => true
  | .gt => false
  | .eq => numNeg a && !numNeg b

/-- minimumNumber or maximumNumber (R74): true for the second operand. -/
def takesSecond (wantMax : Bool) (a b : Num) : Bool :=
  match a, b with
  | .nan, _ => true
  | _, .nan => false
  | _, _ => if wantMax then belowNum a b else belowNum b a

/-! ### Single-precision helpers -/

/-- Value of an f32 pattern. -/
def f32 (x : Nat) : Num := decodeF fmtF32 x

/-- Round to f32 under a mode. -/
def round32 (mode : RMode) (v : Num) : Nat × FFlags := encodeF fmtF32 false mode v

/-- Round to f32 to nearest. -/
def rne32 (v : Num) : Nat := (round32 .rne v).1

/-- The f32 sum under a mode, as amo.fadd forms it (R250). -/
def addF32 (mode : RMode) (a b : Nat) : Nat := (round32 mode (addNum mode (f32 a) (f32 b)).1).1

/-! ### Matrix accumulation (R93) -/

/-- A term of a sum: its value, and whether it is a NaN that no operand or scale was (0 × ∞). -/
structure Term where
  v : Num
  made : Bool := false
deriving DecidableEq, Repr

/-- The leading bit's exponent of the largest finite nonzero term. -/
def topExp : List Term → Option Int
  | [] => none
  | t :: r =>
    match t.v with
    | .fin _ m e =>
      if m = 0 then topExp r
      else match topExp r with
        | none => some (e + bitLen m - 1)
        | some x => some (max x (e + bitLen m - 1))
    | _ => topExp r

/-- The terms truncated to multiples of 2^q and summed, in units of 2^q, with the sticky bit. -/
def windowSum (q : Int) : List Term → Int × Bool
  | [] => (0, false)
  | t :: r =>
    let (s, st) := windowSum q r
    match t.v with
    | .fin n m e =>
      let (u, nx) := roundShift .rtz false m (q - e)
      ((if n then s - u else s + u), st || nx)
    | _ => (s, st)

/-- A zero or infinite or NaN sum, when the terms force one (R93). A NaN accumulator counts among the operands, beside which
a product 0 × ∞ raises nothing. DEDUCED, log 91. -/
def specialSum (ts : List Term) : Option (Nat × FFlags) :=
  if ts.any (·.v == .nan) then
    some (0x7FC00000, if ts.any (fun t => t.v == .nan && !t.made) then 0 else fInvalid)
  else
    let p := ts.any (·.v == .inf false)
    let n := ts.any (·.v == .inf true)
    if p && n then some (0x7FC00000, fInvalid)
    else if p then some (0x7F800000, 0)
    else if n then some (0xFF800000, 0)
    else none

/-- mac_sum of R93: the new f32 accumulator value, and its flags; a result of zero raises no underflow. -/
def macSum (mode : RMode) (ts : List Term) : Nat × FFlags :=
  match specialSum ts with
  | some r => r
  | none =>
    match topExp ts with
    | none =>
      let neg := ts.all (fun t => numNeg t.v) || (mode == .rdn && ts.any (fun t => numNeg t.v))
      (if neg then 0x80000000 else 0, 0)
    | some top =>
      let q := top - 50
      let (s, sticky) := windowSum q ts
      if s = 0 then ((if mode = .rdn then 0x80000000 else 0), if sticky then fInexact else 0)
      else
        let mode' := if mode = .rne ∧ sticky = true then .rna else mode
        let (x, fl) := encodeFin fmtF32 false mode' (decide (s < 0)) s.natAbs q
        let (_, _, tiny) := roundMag fmtF32 mode' (decide (s < 0)) s.natAbs q
        (x, if x % 2 ^ 31 = 0 then fInexact else if sticky then fl ||| (if tiny then fUnderflow else fInexact) else fl)

end Sys2Proof.Machine
end

