-- ==== Sys2Proof/Machine/Flags.lean ====
section
/-! DEFINITION. The sticky exception flags FFLAGS (R16, R78, R79) and the rounding mode in force (R77, R283). -/
namespace Sys2Proof.Machine

/-- Or conditions into the running strand's FFLAGS (R78, R79). -/
def raiseFlags (f : FFlags) (s : State) : State := s.modMe fun x => { x with fflags := x.fflags ||| f }

/-- The rounding mode in force: RMODE of a strand; an engine hart rounds to nearest (R77, R283). -/
def modeNow (s : State) : RMode := modeOf s.me.rmode.toNat

/-- The union of the conditions of lanes (R79). -/
def orFlags (l : List FFlags) : FFlags := l.foldl (· ||| ·) 0

end Sys2Proof.Machine
end

