-- ==== Sys2Proof/Machine/Ready.lean ====
section
/-! DEFINITION. When an instruction may issue: the harts that take it (R50, R282, R283, R424), the scoreboard (R98,
R100, R101, R125), outstanding accesses (R115, R222, R243, R261, R263), and the queues (R165). An instruction that may
not issue leaves the state as it is, and the hart tries again in a later cycle (R158). -/
namespace Sys2Proof.Machine

/-! ### Admission -/

/-- Words that only a strand admits: majors 0x20-0x33 and 0x38-0x3A, writing csr forms and eret (R50). -/
def strandOnly : Instr → Bool
  | .vaddFp .. | .vsubFp .. | .vmulFp .. | .vminFp .. | .vmaxFp .. | .vabsFp .. | .vneg .. | .vcpysgn .. => true
  | .vfma .. | .vfms .. | .vfnma .. | .vfnms .. => true
  | .vaddInt .. | .vsubInt .. | .vmulInt .. | .vmulh .. | .vminInt .. | .vmaxInt .. | .vand .. | .vor .. => true
  | .vxor .. | .vshl .. | .vshr .. | .vsra .. | .vabsInt .. => true
  | .veq .. | .vne .. | .vlt .. | .vle .. | .vunord .. => true
  | .vsel .. | .vswp .. | .vperm .. | .vslup .. | .vsldn .. | .vzipl .. | .vziph .. | .vuzpe .. | .vuzpo .. => true
  | .vbcast .. | .vrsum .. | .vrmax .. | .vrmin .. | .vrsumi .. | .vcvt .. | .vcvtSat .. | .vcvtRtz .. => true
  | .vrsq .. | .vrcp .. | .vredh .. | .vquad .. | .vsin .. | .vcos .. | .vexp2 .. | .vlog2 .. | .vsqrt .. => true
  | .vldL .. | .vldG .. | .vstL .. | .vstG .. => true
  | .vgathW .. | .vscatW .. | .vgathH .. | .vscatH .. | .vgathB .. | .vscatB .. => true
  | .mand .. | .mor .. | .mxor .. | .mnot .. | .mpopc .. | .mfirst .. | .mset .. | .mget .. => true
  | .vldi .. | .vmovg .. | .vext .. | .vins .. => true
  | .mma .. | .mms .. | .mlb .. | .mlarm .. | .mlfree .. | .mrow .. | .mwrow .. | .mst .. | .mzero .. => true
  | .mwait | .mhdr .. | .mtag .. => true
  | .sbind .. | .sfree .. | .speek .. | .scnt .. | .sinj .. | .side .. | .sclr .. | .sresume | .sresumeSkip => true
  | .sstat .. | .sbinit .. | .sbexp .. | .sbarr .. | .sbwait .. | .ekick .. | .embox .. | .ewait => true
  | .csrw .. | .csrs .. | .csrc .. | .eret => true
  | _ => false

/-- Words of major 0x3E (R48). -/
def engineOnlyWord : Instr → Bool
  | .emove .. | .estrd .. | .egath .. | .escat .. | .estream .. | .edrain .. | .ered .. | .esamp .. | .esort .. => true
  | _ => false

/-- Handle forms and local forms, which a management hart does not allow (R424). -/
def tileWord : Instr → Bool
  | .ldh .. | .sth .. | .xlat .. | .xrel .. | .ldl .. | .stl .. => true
  | .amo _ _ loc _ _ _ _ => loc
  | _ => false

/-- The running hart admits the word (R50, R282, R424). -/
def admits (s : State) (i : Instr) : Bool :=
  match s.hart with
  | .strand .. => !engineOnlyWord i
  | .engine _ => !strandOnly i
  | .mgmt _ => !strandOnly i && !engineOnlyWord i && !tileWord i

/-! ### The hart -/

/-- An access that holds every later instruction is outstanding (R222). -/
def blocked (r : Regs) : Bool := r.accesses.any (·.blocking)

/-- The hart may issue its next instruction at all: it runs, waits for no matrix instruction, held access or access to
a target other than HBM, and is not inside a yield (R158, R161, R222, R235, R285, R424). -/
def hartFree (s : State) : Bool :=
  let r := s.regs
  !blocked r && r.held.isNone && decide (r.yieldUntil ≤ s.cyc) &&
    (match s.hart with
     | .strand .. => s.me.run == .active && !s.me.matrixWait
     | .engine t => (s.tile t).eng.job.isSome && (s.tile t).eng.ending.isNone
     | .mgmt d => (s.die d).mgmt.running)

/-- An outstanding access is to write this destination (R98, R243). -/
def awaits (s : State) (d : Dest) : Bool := s.regs.accesses.any (·.dest == d)

/-- A general register is available: g0 and bound registers always, another when its writer has written it (R98, R165). -/
def gFree (s : State) (r : Reg) : Bool :=
  r == 0 || (boundTo s false r).isSome || (decide (s.regs.gReady[r] ≤ s.cyc) && !awaits s (.g r) && s.regs.amo.all (·.dest != .g r))

/-- A gather under way is to write vector register `r` (R142). -/
def gathering (s : State) (r : Reg) : Bool := s.me.gather.any fun x => x.dest == .v r

/-- A vector register is available (R125, R165). -/
def vFree (s : State) (r : Reg) : Bool :=
  (boundTo s true r).isSome || (decide (s.me.vReady[r] ≤ s.cyc) && !awaits s (.v r) && !gathering s r)

/-- A mask register is available (R125). -/
def mFree (s : State) (r : Reg8) : Bool := r == 0 || decide (s.me.mReady[r] ≤ s.cyc)

/-! ### Operands -/

/-- The registers an instruction reads and writes, in the fields of its word. -/
structure Need where
  gs : List Reg := []
  vs : List Reg := []
  ms : List Reg8 := []
  gd : Option Reg := none
  vd : Option Reg := none
  md : Option Reg8 := none
deriving DecidableEq, Repr, Inhabited

/-- Words an instruction pops from queue `k` (R165). -/
def popCount (s : State) (n : Need) (k : Fin 8) : Nat :=
  (n.gs.filter fun r => boundTo s false r == some k).length + 8 * (n.vs.filter fun r => boundTo s true r == some k).length

/-- Words an instruction pushes to queue `k` (R165). -/
def pushCount (s : State) (n : Need) (k : Fin 8) : Nat :=
  (if n.gd.any fun r => boundTo s false r == some k then 1 else 0) +
    (if n.vd.any fun r => boundTo s true r == some k then 8 else 0)

/-- The head of an input queue holds `c` words that may be popped now (R165, R177). -/
def canPop (s : State) (k : Fin 8) (c : Nat) : Bool :=
  let es := (s.myTile.inQ[k]).take c
  es.length == c && es.all fun e => decide (e.from_ ≤ s.cyc)

/-- No unmarked access is outstanding, and none may still hold back an access or a push (R115, R142, R189). -/
def pushOpen (s : State) : Bool :=
  decide (s.regs.accessFrom ≤ s.cyc) && s.regs.accesses.all (·.relaxed) && s.me.sinj.isNone && s.me.gather.isNone &&
    s.regs.amo.isNone

/-- Each queue has the words to pop and the room to push (R165). -/
def queuesReady (s : State) (n : Need) : Bool :=
  (List.finRange 8).all fun k =>
    canPop s k (popCount s n k) &&
      (pushCount s n k == 0 || (decide ((s.myTile.outQ[k]).length + pushCount s n k ≤ 16) && pushOpen s))

/-- Every register and queue an instruction names is ready (R98, R125, R165). -/
def operandsReady (s : State) (n : Need) : Bool :=
  n.gs.all (gFree s) && n.vs.all (vFree s) && n.ms.all (mFree s) && n.gd.all (gFree s) && n.vd.all (vFree s) &&
    n.md.all (mFree s) && queuesReady s n

/-! ### Accesses -/

/-- A further access may issue (R115, R263): no unmarked and no acquiring access is outstanding. -/
def accessOpen (s : State) : Bool := pushOpen s && s.regs.accesses.all (!·.acquire)

/-- Every earlier access has completed (R261, R263). -/
def drained (s : State) : Bool := accessOpen s && s.regs.accesses.isEmpty

/-! ### Issue -/

/-- The first register an instruction consumes whose residue does not match, by its number in R365 (R122, R153). Queue words
have none, and g0 and m0 are constants. -/
def unsound (s : State) (n : Need) : Option Nat :=
  let plain (vec : Bool) (l : List Reg) : List Nat := (l.filter fun r => (boundTo s vec r).isNone).map Fin.val
  ((plain false n.gs).filter (· != 0) ++ (plain true n.vs).map (32 + ·)).find? s.regs.residue.contains

/-- Try to issue an instruction: a hart that is not free leaves it; a word the hart does not allow raises the
illegal-instruction exception with the word in EVAL (R51); an operand that is not ready leaves it; a register whose residue
does not match raises the machine check (R122, R153, R365); otherwise `k` gives its effect. -/
def issue (i : Instr) (n : Need) (k : State → State) (s : State) : Out State :=
  if !hartFree s then .next s
  else if !admits s i then .next (raise .illegal (w64 (encode i)) s)
  else if !operandsReady s n then .next s
  else match unsound s n with
    | some r => .next (raise .machineCheck (residueEval r) s)
    | none => .next (k s)

/-- An instruction that accesses local memory, one unmarked access (R115, R261). -/
def issueLocal (i : Instr) (n : Need) (k : State → State) (s : State) : Out State :=
  issue i n (fun s => if drained s then k s else s) s

end Sys2Proof.Machine
end

