-- ==== Sys2Proof/Machine/Alu.lean ====
section
/-! DEFINITION. The alu major 0x01 (R37, R98-R104): each instruction reads its sources, writes gd after its latency,
and raises no exception of its own. -/
namespace Sys2Proof.Machine

/-- A binary alu form of latency `lat` (R37, R100). -/
def aluOp2 (i : Instr) (lat : Nat) (f : W64 → W64 → W64) (d a b : Reg) (s : State) : Out State :=
  issue i { gs := [a, b], gd := some d } (fun s =>
    let (x, y, s) := src2 a b s
    complete (writeG d (f x y) lat s)) s

/-- A unary alu form (R37). -/
def aluOp1 (i : Instr) (f : W64 → W64) (d a : Reg) (s : State) : Out State :=
  issue i { gs := [a], gd := some d } (fun s =>
    let (x, s) := src1 a s
    complete (writeG d (f x) 1 s)) s

/-- An alu form that reads gd as its third source (R37, R103). -/
def aluOp3 (i : Instr) (f : W64 → W64 → W64 → W64) (d a b : Reg) (s : State) : Out State :=
  issue i { gs := [a, b, d], gd := some d } (fun s =>
    let (x, y, z, s) := src3 a b d s
    complete (writeG d (f x y z) 1 s)) s

/-- The divider of the hart's tile is free (R101). A division of an engine or management hart neither waits for the divider
that a tile's strands share nor holds it. DEDUCED, log 97. -/
def dividerFree (s : State) : Bool := !hartIsStrand s.hart || decide (s.myTile.dividerUntil ≤ s.cyc)

/-- Hold the divider of a strand's tile for 24 cycles (R101). -/
def holdDivider (s : State) : State :=
  if hartIsStrand s.hart then s.modMyTile fun x => { x with dividerUntil := s.cyc + 24 } else s

/-- A division (R101, R104). -/
def divOp (i : Instr) (f : W64 → W64 → W64) (d a b : Reg) (s : State) : Out State :=
  issue i { gs := [a, b], gd := some d } (fun s =>
    if !dividerFree s then s
    else
      let (x, y, s) := src2 a b (holdDivider s)
      complete (writeG d (f x y) 24 s)) s

/-- One or zero as a register value. -/
def flagWord (b : Bool) : W64 := if b then 1 else 0

/-- Shift amounts come from the low six bits (R102). -/
def amount (y : W64) : Nat := y.toNat % 64

/-- The smaller or larger of two values under an order `lt`. -/
def choose (c : Bool) (x y : W64) : W64 := if c then x else y

/-- Leading zero bits (R102). -/
def clzWord (x : W64) : W64 := if x = 0 then 64 else w64 (63 - Nat.log2 x.toNat)

/-- Trailing zero bits (R102). -/
def ctzWord (x : W64) : W64 := if x = 0 then 64 else w64 (Nat.log2 (x &&& -x).toNat)

/-- One bits of the low `n` bits of a number. -/
def popCountNat : Nat → Nat → Nat
  | 0, _ => 0
  | n + 1, x => x % 2 + popCountNat n (x / 2)

/-- One bits (R102). -/
def popcWord (x : W64) : W64 := w64 (popCountNat 64 x.toNat)

/-- Signed quotient (R104). -/
def divWord (x y : W64) : W64 := if y = 0 then BitVec.allOnes 64 else x.sdiv y
/-- Natural quotient (R104). -/
def divNWord (x y : W64) : W64 := if y = 0 then BitVec.allOnes 64 else x / y
/-- Signed remainder (R104). -/
def remWord (x y : W64) : W64 := if y = 0 then x else x.srem y
/-- Natural remainder (R104). -/
def remNWord (x y : W64) : W64 := if y = 0 then x else x % y

/-- bfx (R103). -/
def bfxWord (x y : W64) : W64 :=
  let w := bits y.toNat 8 6 + 1
  let v := bits (x.toNat / 2 ^ (y.toNat % 64)) 0 w
  if bit y.toNat 16 && decide (w < 64) && bit v (w - 1) then w64 (v + (2 ^ 64 - 2 ^ w)) else w64 v

/-- bfi (R103). -/
def bfiWord (x y z : W64) : W64 :=
  let p := y.toNat % 64
  let mask := w64 ((2 ^ (bits y.toNat 8 6 + 1) - 1) * 2 ^ p)
  (z &&& ~~~mask) ||| ((x <<< p) &&& mask)

/-- sel (R103). -/
def selWord (x y z : W64) : W64 := if z ≠ 0 then x else y

/-- ADD (R102). -/
def execAdd (d a b : Reg) (s : State) : Out State := aluOp2 (.add d a b) 1 (fun x y => x + y) d a b s
/-- SUB (R102). -/
def execSub (d a b : Reg) (s : State) : Out State := aluOp2 (.sub d a b) 1 (fun x y => x - y) d a b s
/-- AND (R102). -/
def execAnd (d a b : Reg) (s : State) : Out State := aluOp2 (.and d a b) 1 (fun x y => x &&& y) d a b s
/-- OR (R102). -/
def execOr (d a b : Reg) (s : State) : Out State := aluOp2 (.or d a b) 1 (fun x y => x ||| y) d a b s
/-- XOR (R102). -/
def execXor (d a b : Reg) (s : State) : Out State := aluOp2 (.xor d a b) 1 (fun x y => x ^^^ y) d a b s
/-- ANDN (R102). -/
def execAndn (d a b : Reg) (s : State) : Out State := aluOp2 (.andn d a b) 1 (fun x y => x &&& ~~~y) d a b s
/-- SHL (R102). -/
def execShl (d a b : Reg) (s : State) : Out State := aluOp2 (.shl d a b) 1 (fun x y => x <<< amount y) d a b s
/-- SHR (R102). -/
def execShr (d a b : Reg) (s : State) : Out State := aluOp2 (.shr d a b) 1 (fun x y => x >>> amount y) d a b s
/-- SRA (R102). -/
def execSra (d a b : Reg) (s : State) : Out State := aluOp2 (.sra d a b) 1 (fun x y => x.sshiftRight (amount y)) d a b s
/-- ROT (R102). -/
def execRot (d a b : Reg) (s : State) : Out State := aluOp2 (.rot d a b) 1 (fun x y => x.rotateRight (amount y)) d a b s
/-- MIN (R102). -/
def execMin (d a b : Reg) (s : State) : Out State := aluOp2 (.min d a b) 1 (fun x y => choose (x.slt y) x y) d a b s
/-- MAX (R102). -/
def execMax (d a b : Reg) (s : State) : Out State := aluOp2 (.max d a b) 1 (fun x y => choose (y.slt x) x y) d a b s
/-- MINN (R102). -/
def execMinN (d a b : Reg) (s : State) : Out State := aluOp2 (.minN d a b) 1 (fun x y => choose (x.ult y) x y) d a b s
/-- MAXN (R102). -/
def execMaxN (d a b : Reg) (s : State) : Out State := aluOp2 (.maxN d a b) 1 (fun x y => choose (y.ult x) x y) d a b s
/-- ADDW (R102). -/
def execAddw (d a b : Reg) (s : State) : Out State := aluOp2 (.addw d a b) 1 (fun x y => sextN 32 (x + y)) d a b s
/-- SUBW (R102). -/
def execSubw (d a b : Reg) (s : State) : Out State := aluOp2 (.subw d a b) 1 (fun x y => sextN 32 (x - y)) d a b s
/-- MUL (R102). -/
def execMul (d a b : Reg) (s : State) : Out State := aluOp2 (.mul d a b) 4 (fun x y => x * y) d a b s
/-- MULH (R102). -/
def execMulh (d a b : Reg) (s : State) : Out State := aluOp2 (.mulh d a b) 4 (fun x y => BitVec.ofInt 64 (x.toInt * y.toInt / 2 ^ 64)) d a b s
/-- MULHN (R102). -/
def execMulhN (d a b : Reg) (s : State) : Out State := aluOp2 (.mulhN d a b) 4 (fun x y => w64 (x.toNat * y.toNat / 2 ^ 64)) d a b s
/-- SEQ (R102). -/
def execSeq (d a b : Reg) (s : State) : Out State := aluOp2 (.seq d a b) 1 (fun x y => flagWord (x == y)) d a b s
/-- SNE (R102). -/
def execSne (d a b : Reg) (s : State) : Out State := aluOp2 (.sne d a b) 1 (fun x y => flagWord (x != y)) d a b s
/-- SLT (R102). -/
def execSlt (d a b : Reg) (s : State) : Out State := aluOp2 (.slt d a b) 1 (fun x y => flagWord (x.slt y)) d a b s
/-- SLTN (R102). -/
def execSltN (d a b : Reg) (s : State) : Out State := aluOp2 (.sltN d a b) 1 (fun x y => flagWord (x.ult y)) d a b s
/-- SLE (R102). -/
def execSle (d a b : Reg) (s : State) : Out State := aluOp2 (.sle d a b) 1 (fun x y => flagWord (x.sle y)) d a b s
/-- SLEN (R102). -/
def execSleN (d a b : Reg) (s : State) : Out State := aluOp2 (.sleN d a b) 1 (fun x y => flagWord (x.ule y)) d a b s
/-- CLZ (R102). -/
def execClz (d a : Reg) (s : State) : Out State := aluOp1 (.clz d a) (fun x => clzWord x) d a s
/-- CTZ (R102). -/
def execCtz (d a : Reg) (s : State) : Out State := aluOp1 (.ctz d a) (fun x => ctzWord x) d a s
/-- POPC (R102). -/
def execPopc (d a : Reg) (s : State) : Out State := aluOp1 (.popc d a) (fun x => popcWord x) d a s
/-- SEXTB (R102). -/
def execSextB (d a : Reg) (s : State) : Out State := aluOp1 (.sextB d a) (fun x => sextN 8 x) d a s
/-- SEXTH (R102). -/
def execSextH (d a : Reg) (s : State) : Out State := aluOp1 (.sextH d a) (fun x => sextN 16 x) d a s
/-- SEXTW (R102). -/
def execSextW (d a : Reg) (s : State) : Out State := aluOp1 (.sextW d a) (fun x => sextN 32 x) d a s
/-- ZEXTB (R102). -/
def execZextB (d a : Reg) (s : State) : Out State := aluOp1 (.zextB d a) (fun x => zextN 8 x) d a s
/-- ZEXTH (R102). -/
def execZextH (d a : Reg) (s : State) : Out State := aluOp1 (.zextH d a) (fun x => zextN 16 x) d a s
/-- ZEXTW (R102). -/
def execZextW (d a : Reg) (s : State) : Out State := aluOp1 (.zextW d a) (fun x => zextN 32 x) d a s
/-- BFX (R103): it reads gd as a third source, on which its result does not depend. Log 12. -/
def execBfx (d a b : Reg) (s : State) : Out State := aluOp3 (.bfx d a b) (fun x y _ => bfxWord x y) d a b s
/-- BFI (R103). -/
def execBfi (d a b : Reg) (s : State) : Out State := aluOp3 (.bfi d a b) (bfiWord) d a b s
/-- SEL (R103). -/
def execSel (d a b : Reg) (s : State) : Out State := aluOp3 (.sel d a b) (selWord) d a b s
/-- DIV (R104). -/
def execDiv (d a b : Reg) (s : State) : Out State := divOp (.div d a b) divWord d a b s
/-- DIVN (R104). -/
def execDivN (d a b : Reg) (s : State) : Out State := divOp (.divN d a b) divNWord d a b s
/-- REM (R104). -/
def execRem (d a b : Reg) (s : State) : Out State := divOp (.rem d a b) remWord d a b s
/-- REMN (R104). -/
def execRemN (d a b : Reg) (s : State) : Out State := divOp (.remN d a b) remNWord d a b s

/-- YIELD_EXPIRY: eight cycles after a yield the strand is ready again (R121). -/
def execYieldExpiry (t : TileNo) (k : Fin 8) (s : State) : Out State :=
  .next (s.modStrand t k fun x =>
    if x.r.yieldUntil ≤ (s.tile t).cycle then { x with r := { x.r with yieldUntil := 0 } } else x)

/-- DIVIDER_FREE: 24 cycles after a division issues the divider is free (R101). -/
def execDividerFree (t : TileNo) (s : State) : Out State :=
  .next (s.modTile t fun x => if x.dividerUntil ≤ x.cycle then { x with dividerUntil := 0 } else x)

end Sys2Proof.Machine
end

