-- ==== Sys2Proof/Machine/Imm.lean ====
section
/-! DEFINITION. The immediate majors 0x02-0x0A (R35, R38, R105). -/
namespace Sys2Proof.Machine

/-- An immediate sign-extended to 64 bits (R35). -/
def simm (imm : BitVec 16) : W64 := imm.signExtend 64
/-- An immediate zero-extended to 64 bits (R35). -/
def zimm (imm : BitVec 16) : W64 := imm.setWidth 64

/-- A shift or rotation by a fixed amount (R105, R102). -/
def shiftBy (k : ShiftKind) (n : Nat) (x : W64) : W64 :=
  match k with
  | .shl => x <<< n
  | .shr => x >>> n
  | .sra => x.sshiftRight n
  | .rot => x.rotateRight n

/-- ADDI (R105). -/
def execAddi (d a : Reg) (imm : BitVec 16) (s : State) : Out State := aluOp1 (.addi d a imm) (· + simm imm) d a s
/-- ANDI (R105). -/
def execAndi (d a : Reg) (imm : BitVec 16) (s : State) : Out State := aluOp1 (.andi d a imm) (· &&& zimm imm) d a s
/-- ORI (R105). -/
def execOri (d a : Reg) (imm : BitVec 16) (s : State) : Out State := aluOp1 (.ori d a imm) (· ||| zimm imm) d a s
/-- XORI (R105). -/
def execXori (d a : Reg) (imm : BitVec 16) (s : State) : Out State := aluOp1 (.xori d a imm) (· ^^^ zimm imm) d a s
/-- SHI (R105). -/
def execShi (k : ShiftKind) (d a : Reg) (n : Fin 64) (s : State) : Out State :=
  aluOp1 (.shi k d a n) (shiftBy k n.val) d a s
/-- LDI (R105). -/
def execLdi (d : Reg) (imm : BitVec 16) (s : State) : Out State :=
  issue (.ldi d imm) { gd := some d } (fun s => complete (writeG d (simm imm) 1 s)) s
/-- LDIH (R105). -/
def execLdih (d a : Reg) (imm : BitVec 16) (s : State) : Out State :=
  aluOp1 (.ldih d a imm) (· + (simm imm <<< 16)) d a s
/-- SLTI (R105). -/
def execSlti (d a : Reg) (imm : BitVec 16) (s : State) : Out State :=
  aluOp1 (.slti d a imm) (fun x => flagWord (x.slt (simm imm))) d a s
/-- SLTI_N (R105): the immediate is sign-extended and then read as a natural. -/
def execSltiN (d a : Reg) (imm : BitVec 16) (s : State) : Out State :=
  aluOp1 (.sltiN d a imm) (fun x => flagWord (x.ult (simm imm))) d a s

end Sys2Proof.Machine
end

