-- ==== Sys2Proof/Machine/Control.lean ====
section
/-! DEFINITION. Branches, jumps, hardware loops (R106-R113), nop, yield, brk (R121) and retire (R29, R285, R424). -/
namespace Sys2Proof.Machine

/-- The target `n` words from the instruction (R35). -/
def wordTarget (pc : W64) {n : Nat} (off : BitVec n) : W64 := pc + 4 * off.signExtend 64

/-- A branch condition (R106). -/
def condHolds (c : Cond) (x y : W64) : Bool :=
  match c with
  | .eq => x == y
  | .ne => x != y
  | .lt => x.slt y
  | .ge => !x.slt y
  | .ltN => x.ult y
  | .geN => !x.ult y

/-- J (R107). -/
def execJ (off : BitVec 26) (s : State) : Out State :=
  issue (.j off) {} (fun s => jumpTo (wordTarget s.regs.pc off) id s) s

/-- JAL (R107): the link goes to g23. -/
def execJal (off : BitVec 26) (s : State) : Out State :=
  issue (.jal off) { gd := some 23 }
    (fun s => jumpTo (wordTarget s.regs.pc off) (writeG 23 (s.regs.pc + 4) 1) s) s

/-- B (R106): a target beyond instruction memory raises bounds only when the branch is taken, and then nothing is
popped (R165). -/
def execB (c : Cond) (a b : Reg) (off : BitVec 13) (s : State) : Out State :=
  issue (.b c a b off) { gs := [a, b] } (fun s0 =>
    let (x, y, s) := src2 a b s0
    if condHolds c x y then
      let t := wordTarget s0.regs.pc off
      if pcLimit s0.hart < t.toNat then raise .bounds t s0 else completeTo t s
    else complete s) s

/-- JALR (R108): alignment before bounds; the target uses g[a] as it stood. -/
def execJalr (d a : Reg) (imm : BitVec 16) (s : State) : Out State :=
  issue (.jalr d a imm) { gs := [a], gd := some d } (fun s0 =>
    let (x, s) := src1 a s0
    let t := x + simm imm
    if t.toNat % 4 ≠ 0 then raise .alignment t s0
    else if pcLimit s0.hart < t.toNat then raise .bounds t s0
    else completeTo t (writeG d (s0.regs.pc + 4) 1 s)) s

/-- Open loop level `k` with a count (R110). -/
def openLoop (k : Fin 2) (count : W64) (e : W64) (r : Regs) : Regs :=
  { r with lb := r.lb.set k (r.pc + 4), le := r.le.set k e, lc := r.lc.set k count }

/-- loop and loopi with their count (R110): a count of 0 skips the body. `s0` is the state before the pop. -/
def enterLoop (k : Fin 2) (count : W64) (body : Fin 8192) (s0 s : State) : State :=
  let e := s0.regs.pc + 4 + w64 (4 * body.val)
  if count = 0 then
    if pcLimit s0.hart < e.toNat then raise .bounds e s0
    else completeTo e (s.modRegs (openLoop k 0 e))
  else completeOn (s.modRegs (openLoop k count e))

/-- LOOP (R110). -/
def execLoop (k : Fin 2) (a : Reg) (body : Fin 8192) (s : State) : Out State :=
  issue (.loop k a body) { gs := [a] } (fun s0 =>
    let (x, s) := src1 a s0
    enterLoop k (zextN 32 x) body s0 s) s

/-- LOOPI (R110). -/
def execLoopi (k : Fin 2) (n : Fin 4096) (body : Fin 8192) (s : State) : Out State :=
  issue (.loopi k n body) {} (fun s => enterLoop k (w64 n.val) body s s) s

/-- NOP (R121). -/
def execNop (s : State) : Out State := issue .nop {} complete s

/-- YIELD (R121): not ready in the eight cycles after the issue. -/
def execYield (s : State) : Out State :=
  issue .yield {} (fun s => complete (s.modRegs fun r => { r with yieldUntil := s.cyc + 9 })) s

/-- BRK (R121): no effect while debug is disabled; otherwise the strand halts here and a BRK record enters the fault queue
(R368). DBGRESUME completes it (R439). -/
def execBrk (s : State) : Out State :=
  issue .brk {} (fun s =>
    match s.hart with
    | .strand t k =>
      if (s.die (tileDie t)).dbgen then
        (s.modStrand t k fun x => { x with run := .halted }).queueRecord s.hart
          (recordOf s s.hart 16 false s.regs.pc none)
      else complete s
    | _ => complete s) s

/-- The running strand holds a stream binding (R29). -/
def holdsBinding (s : State) : Bool :=
  (List.finRange 8).any fun q => (boundTo s false ⟨24 + q.val, by omega⟩).isSome || (boundTo s true ⟨24 + q.val, by omega⟩).isSome

/-- RETIRE: a strand retires once its accesses have completed, and traps while a stream register is bound (R29); an
engine's job ends (R285); a management hart stops (R424). -/
def execRetire (s : State) : Out State :=
  issue .retire {} (fun s =>
    match s.hart with
    | .strand .. =>
      if holdsBinding s then raise .streamMisuse 0 s
      else if !drained s then s
      else s.modMe fun x => { x with run := .retired, r := { x.r with issued := x.r.issued + 1 } }
    | .engine t => endJob (s.modRegs fun r => { r with issued := r.issued + 1 }) t 0 0
    | .mgmt d => s.modDie d fun x => { x with mgmt := { x.mgmt with running := false } }) s

end Sys2Proof.Machine
end

