-- ==== Sys2Proof/Machine/Local.lean ====
section
/-! DEFINITION. Local loads and stores (R114-R117). A local access is performed in its issue cycle, once its bank serves it:
until then the instruction has not issued (R360); later accesses and pushes wait for the next cycle (R115). -/
namespace Sys2Proof.Machine

/-- Effective address of a scaled 11-bit offset (R35, R114, R139). -/
def scaled (x : W64) {n : Nat} (imm : BitVec n) (k : Nat) : W64 := x + imm.signExtend 64 * w64 k

/-- A local access of the running hart to `n` bytes at `a` (R115, R117): while its bank serves others it has not issued and
asks again (R360); a bad word that it reads raises the machine check (R122, R153); otherwise `k` gives its effect, and it
completes with the cycle. -/
def onBank (read : Bool) (a n : Nat) (s0 : State) (k : State → State) : State :=
  match askBank a s0 with
  | (false, s) => s
  | (true, s) =>
    match if read then badIn s0.myTile.badLm a n else none with
    | some w => raise .machineCheck (w64 (4 * w)) s0
    | none => k (busyFor 1 s)

/-- LDL (R114). -/
def execLdl (z : Size) (sx : Bool) (d a : Reg) (imm : BitVec 11) (s : State) : Out State :=
  issueLocal (.ldl z sx d a imm) { gs := [a], gd := some d } (fun s0 =>
    let n := sizeBytes z
    let ea := scaled (src1 a s0).1 imm n
    if ea.toNat % n ≠ 0 then raise .alignment ea s0
    else if 0x7FFFF < ea.toNat then raise .bounds ea s0
    else onBank true ea.toNat n s0 fun s =>
      let s := (src1 a s).2
      let v := w64 (tileLoad s.myTile ea.toNat n)
      complete (writeG d (if sx then sextN (8 * n) v else v) 4 s)) s

/-- STL (R114, R116). -/
def execStl (z : Size) (d a : Reg) (imm : BitVec 11) (s : State) : Out State :=
  issueLocal (.stl z d a imm) { gs := [a, d] } (fun s0 =>
    let n := sizeBytes z
    let (x, v, _) := src2 a d s0
    let ea := scaled x imm n
    if ea.toNat % n ≠ 0 then raise .alignment ea s0
    else if 0x7FFFF < ea.toNat then raise .bounds ea s0
    else onBank false ea.toNat n s0 fun s =>
      let (_, _, s) := src2 a d s
      complete (s.modMyTile (tileStore ea.toNat (leBytes n v.toNat)))) s

end Sys2Proof.Machine
end

