-- ==== Sys2Proof/Machine/Paging.lean ====
section
/-! DEFINITION. What the loader and die-controller firmware do with pages: moving one (R237, R239, R241), giving one its
first frame, and collapsing replicas (R236, R240). Which frames firmware holds free the manual does not say: they are free
values, of which those are taken that the rules allow. DESIGN CHOICE, log 88. -/
namespace Sys2Proof.Machine

/-- A frame of `size` bytes at `pa` can be given to a context: aligned, in HBM, under the context's key (R228, R232). -/
def frameFits (s : State) (c : View) (pa size : Nat) : Bool :=
  pa % size == 0 && inHbm pa size &&
    (List.range ((size + 0x1FFFFF) / 0x200000)).all fun i => s.keyOf (pa + 0x200000 * i) == c.key

/-- A frame lies in a domain (R220). -/
def inDomain (d pa size : Nat) : Bool := pa / domainBytes == d && (pa + size - 1) / domainBytes == d

/-- A frame lies in an HBM stack (R225). -/
def inStack (k pa size : Nat) : Bool := pa / 0xC00000000 == k && (pa + size - 1) / 0xC00000000 == k

/-! ### Moving a page -/

/-- The move of the page of `va` to a frame in the domain of die `d`, when a record of KIND 0 governs it, it stands in HBM
elsewhere, and the frame can take it (R239). -/
def moveFor (s : State) (c : View) (d : DieNo) (va new : Nat) : Option Move :=
  match leafOf s c.ctx va, hintFor s c va with
  | some (slot, lvl, e), some r =>
    let size := pageSize lvl
    let old := bits e 12 40 * 4096
    if r.kind == 0 && size != 0 && inHbm old size && old % size == 0 && !bit e 5 && old / domainBytes != dieDomain d.val &&
        frameFits s c new size && inDomain (dieDomain d.val) new size && (s.moveOf c.ctx va).isNone && bits va 48 9 != 0xFF then
      some { ctx := c.ctx, page := va / size * size, size := size, slot := slot, leaf := e - old + new, old := old, new := new
             left := translatedIn s c.ctx (va / size * size) size }
    else none
  | _, _ => none

/-- Steps 1 to 3 of R237 for a move: the leaf is cleared. A walk for the page waits until the move is done (R241). -/
def beginMove (s : State) (m : Move) : State :=
  let s := changeLeaf s m.ctx m.page m.slot (m.leaf - b2n (bit m.leaf 0))
  { s with moves := s.moves ++ [m] }

/-- Copy a line of a page that moves: an uncorrectable error goes with it, and is never passed on in data (R366). -/
def copyLine (s : State) (old new : Nat) : State :=
  if s.failedIn old 128 then
    { s with failedLines := if s.failedLines.contains (new / 128) then s.failedLines else s.failedLines ++ [new / 128] }
  else s.lineWrite new (s.hbmBytes old 128)

/-- Step 5 of R237 for a move: the data, the leaf, and the report. -/
def endMove (s : State) (m : Move) : State :=
  let s := (List.range (m.size / 128)).foldl (fun s i => copyLine s (m.old + 128 * i) (m.new + 128 * i)) s
  (changeLeaf s m.ctx m.page m.slot m.leaf).emit (.revoked m.ctx m.page)

/-- None of some accesses is outstanding any more. -/
def allDone (s : State) (l : List (HartId × Nat)) : Bool := l.all fun q => !stillOut s q

/-- Changes of leaves, and moves of pages, whose accesses translated before have completed, are done (R237 steps 4 and 5). -/
def revocationSlot (s : State) : State :=
  let s := (s.revoking.filter fun r => allDone s r.left).foldl (fun s r => s.emit (.revoked r.ctx r.va))
    { s with revoking := s.revoking.filter fun r => !allDone s r.left }
  (s.moves.filter fun m => allDone s m.left).foldl endMove { s with moves := s.moves.filter fun m => !allDone s m.left }

/-- The loader looks for the pages that a group on die `d` will touch and that a placement claims, and begins to move them
(R239). -/
def claimPages (s : State) (c : View) (d : DieNo) : State :=
  let (n, s) := s.draw
  (Config.touched n).foldl (fun s va =>
    let (m, s) := s.draw
    match moveFor s c d va (Config.frame m) with
    | some m => beginMove s m
    | none => s) s

/-! ### Faults that firmware resolves -/

/-- Collapse the replicas of a page to the copy that its leaf names (R240 steps 1 and 2): REPL clears and W is set, under
R237. -/
def collapse (s : State) (ctx va slot e : Nat) : State :=
  let size := leafSize s ctx va
  let left := translatedIn s ctx (va / size * size) size
  let s := changeLeaf s ctx va slot ((e ||| 4) - 32)
  { s with revoking := s.revoking ++ [⟨ctx, va, left⟩] }

/-- A page under KIND 1 or KIND 2 gets its first frame, in the domain or stack that the record names (R239). A table that the
walk misses is made first, in a frame of its own (R231). `n` indexes the free values. -/
def placePage (n : Nat) (s : State) (c : View) (va : Nat) : State :=
  let f := Config.frame n
  match lastEntry s va [4, 3, 2, 1] (s.ctxWord c.ctx 1), hintFor s c va with
  | some (slot, lvl, e), some r =>
    let named : Bool := (r.kind == 1 && inDomain r.place f 0x10000) || (r.kind == 2 && inStack r.place f 0x10000)
    if bit e 0 then s
    else if lvl = 1 then (if named && frameFits s c f 0x10000 then s.soundWrite slot (leBytes 8 (f + 7)) else s)
    else if frameFits s c f 0x1000 then
      ((List.range 32).foldl (fun s i => s.lineWrite (f + 128 * i) (List.replicate 128 0)) s).soundWrite slot
        (leBytes 8 (f + 1))
    else s
  | _, _ => s

/-- The walk of an address would end without the fault of kind `k` now. -/
def mended (s : State) (h : HartId) (x : Held) : Bool :=
  match walk s (s.viewAt h) (hartDie h) x.va x.wr with
  | .ok _ => true
  | .error k => k != x.lastKind

/-- What firmware does for a held access whose fault is its own to resolve (R236, R240): it retries the walk once the cause is
mended and no change of a leaf is under way for the page; else it mends it. -/
def resolveOwn (s : State) (h : HartId) (x : Held) : State :=
  let ctx := s.ctxOf h
  let va := bits x.va.toNat 0 57
  let size := leafSize s ctx va
  if s.revoking.any fun r => r.ctx == ctx && r.va / size == va / size then s
  else if mended s h x then s.retryWalk h x
  else match x.lastKind with
    | .replicaWrite => match leafOf s ctx va with
      | some (slot, _, e) => if bit e 5 then collapse s ctx va slot e else s
      | none => s
    | .notPresent =>
      let (n, s) := s.draw
      if bits va 48 9 = 0xFF then s else placePage n s (s.viewAt h) va
    | _ => s

/-- Die-controller firmware resolves the faults of its die that are its own (R236): those whose records it has, at a free,
finite time. -/
def firmwareSlot (d : DieNo) (s : State) : State :=
  (hartsOfDie s d).foldl (fun s h => match (s.regsOf h).held with
    | some x@⟨va, wr, .reply k _ _, _, _, _, due⟩ =>
      if s.now < due || forHost s (recordOf s h (faultKind k) wr va none) then s else resolveOwn s h x
    | _ => s) s

end Sys2Proof.Machine
end

