-- ==== Sys2Proof/Machine/Switch.lean ====
section
/-! DEFINITION. The tile switch: link ports, seams and terminators (R174-R177, R394-R398), the switch words
(R178, R184, R185), switch faults (R186, R187). Each execution of a word is one cycle of
the switch: one repetition, or a wait. -/
namespace Sys2Proof.Machine

/-! ### Links -/

/-- What a link port of a tile is joined to (R175, R397, R398). -/
inductive Link
  | open_
  | tile (t : TileNo)
  /-- A seam: as an output the selector that carries this lane, as a source the selector that drives it. -/
  | lane (c : DieNo) (i : Fin 48)
  | term
deriving DecidableEq, Repr

/-- The region index of the neighbour across port `p` (0 N, 1 E, 2 S, 3 W), when it lies in the region. -/
def neighbour (g : Group) (p : Nat) : Option Nat :=
  let x := g.index % g.w
  let y := g.index / g.w
  match p with
  | 0 => if y = 0 then none else some (g.index - g.w)
  | 1 => if x + 1 < g.w then some (g.index + 1) else none
  | 2 => if y + 1 < g.h then some (g.index + g.w) else none
  | _ => if x = 0 then none else some (g.index - 1)

/-- The selector that carries an input lane onward (R395). -/
def carrier (c : CacheDie) (q l : Nat) : Option (Fin 48) :=
  (List.finRange 48).find? fun i =>
    let y := c.sels[i]
    y.en && !y.term && y.side == q && y.lane == l

/-- Where port `p` of a tile leads, as an output or as a source. A port of a gang's region that no seam joins is joined to
a terminator (R398); at the edge of the die its selector says so, and once the selector is cleared, its partner being
freed, the port is unconnected (R175, R399). -/
def linkOf (s : State) (t : TileNo) (p : Nat) (out : Bool) : Link :=
  match (s.tile t).group with
  | none => .open_
  | some g =>
    match neighbour g p with
    | some i => .tile (tileOf (regionTile g.origin g.w i))
    | none =>
      if !g.gang then .open_
      else match seamOf t.val p with
        | none => .term
        | some (c, q, l) =>
          let x := s.cache (dieOf c)
          let i : Fin 48 := ⟨(q * 12 + l) % 48, by omega⟩
          let y := x.sels[i]
          if out then
            match carrier x q l with
            | some i => .lane (dieOf c) i
            | none => if y.term then .term else .open_
          else if y.term then .term
          else if y.en then .lane (dieOf c) i
          else .open_

/-- A port buffer of a switch (0 N, 1 E, 2 S, 3 W). -/
def portBuf (w : Switch) (p : Nat) : PortBuf :=
  match p with
  | 0 => w.n | 1 => w.e | 2 => w.s | _ => w.w

/-- Replace a port buffer. -/
def setPortBuf (p : Nat) (b : PortBuf) (w : Switch) : Switch :=
  match p with
  | 0 => { w with n := b } | 1 => { w with e := b } | 2 => { w with s := b } | _ => { w with w := b }

/-- The opposite port. -/
def opposite (p : Nat) : Nat := (p + 2) % 4

/-- The flit a terminator offers (R398). -/
def termFlit : Flit := { e := true }

/-- Port number of a link source. -/
def srcPort : Src → Option Nat
  | .n => some 0 | .e => some 1 | .s => some 2 | .w => some 3
  | _ => none

/-- Output queue of a core source. -/
def srcQueue : Src → Option (Fin 8)
  | .d0 => some 0 | .d1 => some 1 | .d2 => some 2 | .d3 => some 3
  | _ => none

/-- The flit F offers in this cycle (R200). -/
def forwardFlit (x : Tile) : Option Flit :=
  match x.mx.fwdOrder with
  | [] => none
  | l :: _ =>
    let y := x.mx.latch[l]
    if y.fwdBegin + y.fwd ≤ x.cycle && x.mx.lastF != some x.cycle then y.flits[y.fwd]? else none

/-- The flit a source holds in this cycle. -/
def srcFlit (s : State) (t : TileNo) (a : Src) : Option Flit :=
  let x := s.tile t
  match srcPort a with
  | some p =>
    match linkOf s t p false with
    | .open_ => none
    | .term => some termFlit
    | _ => (portBuf x.sw p).buf.head?.filter fun f => f.from_ ≤ x.cycle
  | none =>
    match srcQueue a with
    | some k => peekFlit x k
    | none => if a = .f then forwardFlit x else none

/-- Free a latch whose forwarded block has left, or arm it again in ring mode (R198). -/
def releaseLatch (l : Fin 2) (m : Matrix) (cycle : Nat) : Matrix :=
  let y := m.latch[l]
  let y' : Latch := { ({} : Latch) with st := if y.ring then .armed else .free, ring := y.ring, since := cycle + 1 }
  { m with latch := m.latch.set l y', armOrder := if y.ring then m.armOrder ++ [l] else m.armOrder }

/-- A flit leaves on F (R200, R198). -/
def takeForward (x : Tile) : Tile :=
  match x.mx.fwdOrder with
  | [] => x
  | l :: rest =>
    let y := { x.mx.latch[l] with fwd := x.mx.latch[l].fwd + 1 }
    let m := { x.mx with latch := x.mx.latch.set l y, lastF := some x.cycle }
    if y.fwd < y.flits.length then { x with mx := m }
    else
      let m := { m with fwdOrder := rest }
      { x with mx := if y.inUse then m else releaseLatch l m x.cycle }

/-- A flit moves out of a port buffer. -/
def popPort (p : Nat) (x : Tile) : Tile :=
  { x with sw := setPortBuf p { buf := (portBuf x.sw p).buf.tail, lastPop := some x.cycle } x.sw }

/-- Take the flit of a source: out of a lane's port buffer, its credit returns 6 cycles later (R397). -/
def takeFlit (s : State) (t : TileNo) (a : Src) : State :=
  match srcPort a with
  | some p =>
    match linkOf s t p false with
    | .tile _ => s.modTile t (popPort p)
    | .lane c i => (s.modTile t (popPort p)).modCache c fun x =>
        { x with sels := x.sels.set i { x.sels[i] with returns := x.sels[i].returns ++ [s.now + 6] } }
    | _ => s
  | none =>
    match srcQueue a with
    | some k => s.modTile t fun x => dropFlit x k
    | none => if a = .f then s.modTile t takeForward else s

/-- The outputs of a switch word. -/
inductive OutPort
  | link (p : Nat)
  | core (k : Fin 8)
  | latch
deriving DecidableEq, Repr

/-- The outputs a route names, each with its source (R52, R53). -/
def routeOuts (r : Route) : List (OutPort × Src) :=
  [(.link 0, r.n), (.link 1, r.e), (.link 2, r.s), (.link 3, r.w), (.core 0, r.c0), (.core 1, r.c1), (.core 2, r.c2),
    (.latch, r.l)].filter fun p => p.2 != .none

/-- An output has room in this cycle (R176). -/
def outRoom (s : State) (t : TileNo) (o : OutPort) : Bool :=
  match o with
  | .link p =>
    match linkOf s t p true with
    | .open_ => false
    | .term => true
    | .tile u =>
      let y := s.tile u
      let b := portBuf y.sw (opposite p)
      b.buf.length + (if b.lastPop = some y.cycle then 1 else 0) < 2
    | .lane c i => 0 < (s.cache c).sels[i].credit
  | .core k => 4 ≤ inRoom (s.tile t) k
  | .latch => (fillTarget (s.tile t).mx).isSome

/-- A flit arrives at the fill target (R198, R199). -/
def fillLatch (f : Flit) (x : Tile) : Tile :=
  match fillTarget x.mx with
  | none => x
  | some l =>
    let y := x.mx.latch[l]
    let size := if y.st = .armed then 65 + latchScales f.data.toNat else y.size
    let flits := y.flits ++ [f]
    let full := size ≤ flits.length
    let y' := { y with
      st := if full then .full else .filling, flits := flits, size := size, byMlb := false, since := x.cycle + 1 }
    { x with mx := { x.mx with latch := x.mx.latch.set l y', armOrder := x.mx.armOrder.filter (· != l) } }

/-- Deliver a flit on an output (R163, R174, R397). -/
def putOut (s : State) (t : TileNo) (o : OutPort) (f : Flit) : State :=
  match o with
  | .link p =>
    match linkOf s t p true with
    | .tile u => s.modTile u fun y =>
        let b := portBuf y.sw (opposite p)
        { y with sw := setPortBuf (opposite p) { b with buf := b.buf ++ [{ f with from_ := y.cycle + 1 }] } y.sw }
    | .lane c i => s.modCache c fun x =>
        let y := x.sels[i]
        { x with sels := x.sels.set i { y with
            path := y.path ++ [{ f with from_ := s.now + 6 }], credit := y.credit - 1
            flits := (y.flits + 1) % 2 ^ 16 } }
    | _ => s
  | .core k => s.modTile t fun x => putFlit x k f (x.cycle + 1)
  | .latch => s.modTile t (fillLatch f)

/-! ### Running a word -/

/-- Change the switch of a tile. -/
def State.modSw (s : State) (t : TileNo) (f : Switch → Switch) : State :=
  s.modTile t fun x => { x with sw := f x.sw }

/-- The strand that takes a switch fault (R187): the one bound to the input queue of the lowest core output the word
names, else the lowest started strand that has not retired. -/
def faultStrand (x : Tile) (outs : List (Fin 8)) : Option (Fin 8) :=
  let byBind : Option (Fin 8) := match outs with
    | k :: _ => x.binds[k].map Bind.strand
    | [] => none
  let mask : BitVec 8 := (x.group.map Group.mask).getD 0
  byBind.or ((List.finRange 8).find? fun k => mask.getLsbD k.val && x.strands[k].run != RunState.retired)

/-- Stop the switch with a cause (R186, R187). The words it names in C0-C2 are `outs`. -/
def stopSwitch (s : State) (t : TileNo) (cause word offset flow partner : Nat) (outs : List (Fin 8)) : State :=
  let x := s.tile t
  let k := faultStrand x outs
  let v := w64 (word + cause * 2 ^ 11 + 2 ^ 15 + (k.map (·.val)).getD 0 * 2 ^ 16 + offset * 2 ^ 20 + flow * 2 ^ 32 +
    partner * 2 ^ 48)
  let s := s.modSw t fun w => { w with run := .stopped, fault := v, inj := 0 }
  match k with
  | some k => s.modStrand t k fun z => { z with swpend := true }
  | none => s.failGroup t 0x11 v 0 0 0

/-- The core outputs a route names, lowest first. -/
def coreOuts (r : Route) : List (Fin 8) :=
  (routeOuts r).filterMap fun (o, _) => match o with
    | .core k => some k
    | _ => none

/-- The switch waits in this cycle. -/
def swWait (s : State) (t : TileNo) : State := s.modSw t fun w => { w with run := .waiting }

/-- Go to a word (R178). -/
def swGoto (s : State) (t : TileNo) (spc : Nat) : State :=
  s.modSw t fun w => { w with spc := spc, rep := 0, run := .running }

/-- Step to the next word; past the last one, which names the core outputs `outs`, the switch stops with SWITCH_BOUNDS
(R55, R187). -/
def swNext (s : State) (t : TileNo) (outs : List (Fin 8) := []) : State :=
  let w := (s.tile t).sw
  if 2047 ≤ w.spc then stopSwitch (s.modSw t fun w => { w with rep := 0 }) t 2 2047 0 0 0 outs
  else swGoto s t (w.spc + 1)

/-- A repetition is done: the word ends after count + 1 of them, or at an end mark with E-stop (R176). -/
def swRepDone (s : State) (t : TileNo) (count : Nat) (stopNow : Bool) (outs : List (Fin 8) := []) : State :=
  let s := s.modSw t fun w => { w with rep := w.rep + 1, run := .running }
  if count < (s.tile t).sw.rep || stopNow then swNext s t outs else s

/-- Ports a word names that are not connected (R175). -/
def namesOpen (s : State) (t : TileNo) (srcs : List Src) (outs : List (OutPort × Src)) : Bool :=
  srcs.any (fun a => match srcPort a with
    | some p => linkOf s t p false == .open_
    | none => false) ||
  outs.any (fun o => match o.1 with
    | .link p => linkOf s t p true == .open_
    | _ => false)

/-- What X is for the flits taken, or the fault that stops the word: cause, offset, flow, partner, block length. -/
inductive XResult
  | x (f : Flit) (mode : DecMode)
  | stop (cause offset flow partner len : Nat)
  | busy

/-- The distinct sources of a routing word with sources `extra` beside its route's (R176). -/
def wordSources (extra : List Src) (r : Route) : List Src :=
  ((extra ++ (routeOuts r).map (·.2)).filter fun a => a != .x && a != .none).eraseDups

/-- One cycle of a routing word with sources `extra` beside its route's (R176). While the bank of the held block is busy,
STATE shows 1, waiting. DESIGN CHOICE, log 100. -/
def swRoute (estop : Bool) (count : Nat) (extra : List Src) (r : Route)
    (form : State → TileNo → List (Src × Flit) → XResult) (s : State) : State :=
  let t := s.swTile
  let outs := routeOuts r
  let srcs := wordSources extra r
  let w := (s.tile t).sw
  if count < w.rep then swNext s t (coreOuts r)
  else if namesOpen s t srcs outs then stopSwitch s t 3 w.spc 0 0 0 (coreOuts r)
  else
    let flits := srcs.filterMap fun a => (srcFlit s t a).map fun f => (a, f)
    if flits.length < srcs.length || !outs.all (fun o => outRoom s t o.1) then swWait s t
    else match form s t flits with
      | .busy => swWait s t
      | .stop cause off flow partner len =>
        stopSwitch (s.modSw t fun w => { w with missLen := len }) t cause w.spc off flow partner (coreOuts r)
      | .x xf mode =>
        let s := srcs.foldl (fun s a => takeFlit s t a) s
        let s := outs.foldl (fun s o => putOut s t o.1 (if o.2 = .x then xf else ((flits.lookup o.2).getD {}))) s
        let s := s.modSw t fun w => { w with mode := mode }
        swRepDone s t count (estop && flits.any (·.2.e)) (coreOuts r)

/-- X when the word forms none. -/
def formNone (s : State) (t : TileNo) (_ : List (Src × Flit)) : XResult := .x {} (s.tile t).sw.mode

/-- X of sxor from sources a and b (R184). -/
def formXor (a b : Src) (s : State) (t : TileNo) (flits : List (Src × Flit)) : XResult :=
  let fa := (flits.lookup a).getD {}
  let fb := (flits.lookup b).getD {}
  let ha := fa.data.toNat
  let hb := fb.data.toNat
  if fa.h != fb.h || fa.e != fb.e then .stop 6 0 0 0 0
  else if fa.h then
    if bits ha 0 25 != bits hb 0 25 || bits ha 32 16 != bits hb 32 16 || bits ha 80 16 != bits hb 80 16 ||
        hdrCoded ha || hdrCoded hb then .stop 6 0 0 0 0
    else
      let x := putField (putField (putField ha 25 1 1) 96 16 (hdrFlow hb)) 112 16 (hdrSeq hb)
      .x { fa with data := BitVec.ofNat 256 x } (s.tile t).sw.mode
  else .x { fa with data := fa.data ^^^ fb.data } (s.tile t).sw.mode

/-- A valid entry of a key and length (R185). -/
def sideLookup (x : Tile) (flow seq len : Nat) : Option (Fin 64) :=
  (List.finRange 64).find? fun i =>
    let e := x.side[i]
    e.valid && e.flow == flow && e.seq == seq && e.len == len

/-- X of sdec for a header flit (R185). -/
def formHeader (x : Tile) (f : Flit) : XResult :=
  let h := f.data.toNat
  if !headerOk h then .stop 5 0 (hdrFlow h) (hdrPartner h) 0
  else if !hdrCoded h then .x f .pass
  else
    let len := blockLen h
    let clean := putField (putField (putField h 25 1 0) 96 16 0) 112 16 0
    match sideLookup x (hdrPartner h) (hdrPartnerSeq h) len with
    | some e => .x { f with data := BitVec.ofNat 256 clean } (.decode e 1 len (hdrFlow h) (hdrPartner h))
    | none =>
      match sideLookup x (hdrFlow h) (hdrSeq h % 2 ^ 16) len with
      | some e =>
        let y := putField (putField clean 48 16 (hdrPartner h)) 64 16 (hdrPartnerSeq h)
        .x { f with data := BitVec.ofNat 256 y } (.decode e 1 len (hdrFlow h) (hdrPartner h))
      | none => .stop 4 0 (hdrFlow h) (hdrPartner h) len

/-- The decode mode as a repetition finds it: an entry lost in the middle of a block is looked up again once sresume has
restarted the word (R190). -/
def decodeMode (x : Tile) : DecMode :=
  match x.sw.mode with
  | .lost j len flow partner kf ks true =>
    match sideLookup x kf ks len with
    | some e => .decode e j len flow partner
    | none => .lost j len flow partner kf ks true
  | m => m

/-- Local address of the flit of a held block that entry `e` gives for flit `j` (R185). -/
def heldAt (x : Tile) (e : Fin 64) (j : Nat) : Nat := x.side[e].addr * 32 + 32 * j

/-- X of sdec from its coded source (R185); a data flit needs the bank of the held block in this cycle. -/
def formDec (a : Src) (s : State) (t : TileNo) (flits : List (Src × Flit)) : XResult :=
  let x := s.tile t
  let f := (flits.lookup a).getD {}
  match decodeMode x with
  | .decode e j len flow partner =>
    if f.h then formHeader x f
    else if x.decodeAt != some (x.cycle, heldAt x e j) then .busy
    else
      .x { f with data := f.data ^^^ BitVec.ofNat 256 (tileLoad x (heldAt x e j) 32) }
        (if j + 1 = len then .pass else .decode e (j + 1) len flow partner)
  | .lost j len flow partner .. => .stop 4 j flow partner len
  | .pass => if f.h then formHeader x f else .x f .pass

/-- Every source of a word holds a flit and every output has room (R176). -/
def wordReady (s : State) (t : TileNo) (extra : List Src) (r : Route) : Bool :=
  (wordSources extra r).all (fun a => (srcFlit s t a).isSome) && (routeOuts r).all fun o => outRoom s t o.1

/-- The local address that an sdec word reads in this cycle, when it is otherwise ready (R185). -/
def decodeRead (s : State) (t : TileNo) (count : Nat) (a : Src) (r : Route) : Option Nat :=
  let x := s.tile t
  match decodeMode x, srcFlit s t a with
  | .decode e j _ _ _, some f =>
    if !f.h && x.sw.skip = 0 && decide (x.sw.rep ≤ count) && wordReady s t [a] r then some (heldAt x e j) else none
  | _, _ => none

/-- An sdec word asks for the bank of its read, unless it has it in this cycle already (R185, R265). A bad word that it
would read fails the group's launch (R366). -/
def claimDecode (count : Nat) (a : Src) (r : Route) (t : TileNo) (s : State) : State :=
  let x := s.tile t
  match decodeRead s t count a r with
  | none => s
  | some at_ =>
    if (badIn x.badLm at_ 32).isSome then s.failGroup t 0x13 0x0D 0 (w64 at_) 0
    else if x.decodeAt = some (x.cycle, at_) then s
    else match takeBank .switch at_ 1 x with
      | (true, x) => s.setTile t { x with decodeAt := some (x.cycle, at_) }
      | (false, x) => s.setTile t x

/-- One discarding cycle after sresume.skip (R190). Whether an end mark on a discarded flit ends an E-stop word the spec does
not say; it does not. DESIGN CHOICE, log 84. -/
def swSkip (count : Nat) (a : Src) (r : Route) (s : State) : State :=
  let t := s.swTile
  match srcFlit s t a with
  | none => swWait s t
  | some _ =>
    let s := (takeFlit s t a).modSw t fun w => { w with
      rep := w.rep + 1, skip := w.skip - 1, run := .running, mode := if w.skip = 1 then .pass else w.mode }
    let w := (s.tile t).sw
    if w.skip = 0 && count < w.rep then swNext s t (coreOuts r) else s

/-- sroute (R176). -/
def execSroute (estop : Bool) (count : Fin 4096) (r : Route) (s : State) : Out State :=
  .next (swRoute estop count.val [] r formNone s)

/-- sxor (R184). -/
def execSxor (estop : Bool) (count : Fin 4096) (a b : Src) (r : Route) (s : State) : Out State :=
  .next (swRoute estop count.val [a, b] r (formXor a b) s)

/-- sdec (R185), and the discarding that sresume.skip asks for (R190). -/
def execSdec (estop : Bool) (count : Fin 4096) (a : Src) (r : Route) (s : State) : Out State :=
  .next (if (s.tile s.swTile).sw.skip = 0 then
      swRoute estop count.val [a] r (formDec a) (claimDecode count.val a r s.swTile s)
    else swSkip count.val a r s)

/-- sskip (R178): a routing word without outputs. -/
def execSskip (estop : Bool) (count : Fin 4096) (a : Src) (s : State) : Out State :=
  .next (swRoute estop count.val [a] ⟨.none, .none, .none, .none, .none, .none, .none, .none⟩ formNone s)

/-- The stage barrier of a switch signal. -/
def swBar (k : Fin 8) : Fin 32 := ⟨k.val, by omega⟩

/-- srtw (R178, R179): wait for the next completion of a barrier, and record its phase. -/
def execSrtw (k : Fin 8) (s : State) : Out State :=
  let t := s.swTile
  let x := s.tile t
  let ph := x.bars[swBar k].phase
  .next (if ph = x.sw.sph[k] then swWait s t
    else swNext (s.modSw t fun w => { w with sph := w.sph.set k ph }) t)

/-- sjump (R178). -/
def execSjump (target : Fin 2048) (s : State) : Out State := .next (swGoto s s.swTile target.val)

/-- sloop (R178): the count field is CNT's new value. -/
def execSloop (c : Fin 2) (n : Fin 4096) (s : State) : Out State :=
  .next (swNext (s.modSw s.swTile fun w => { w with cnt := w.cnt.set c n.val }) s.swTile)

/-- sbnz (R178). -/
def execSbnz (c : Fin 2) (target : Fin 2048) (s : State) : Out State :=
  let t := s.swTile
  .next (if (s.tile t).sw.cnt[c] = 0 then swNext s t
    else swGoto (s.modSw t fun w => { w with cnt := w.cnt.set c (w.cnt[c] - 1) }) t target.val)

/-- ssig (R178, R172): one arrival, or a stop with BARRIER_OVERRUN. -/
def execSsig (k : Fin 8) (s : State) : Out State :=
  let t := s.swTile
  let x := s.tile t
  .next (if x.bars[swBar k].remain = 0 then stopSwitch s t 7 x.sw.spc 0 0 0 []
    else swNext (s.modTile t (modBar (swBar k) barArrive)) t)

/-- shalt (R178). -/
def execShalt (s : State) : Out State := .next (s.modSw s.swTile fun w => { w with run := .halted })

/-- snop (R178): idle for count + 1 cycles, counted in REP. DEDUCED, log 10. -/
def execSnop (count : Fin 4096) (s : State) : Out State := .next (swRepDone s s.swTile count.val false)

/-- A word that R55 rejects stops the switch with ILLEGAL_SWITCH_WORD. Which of C0-C2 such a word names (R187) the spec does
not say: those whose selector nibbles, at bits 16-27, are not zero, whatever the rest of the word. DESIGN CHOICE, log 85. -/
def execIllegalSwitchWord (w : W64) (s : State) : Out State :=
  let t := s.swTile
  let outs : List (Fin 8) := [0, 1, 2].filter fun k : Fin 8 => bits w.toNat (16 + 4 * k.val) 4 != 0
  .next (stopSwitch s t 1 (s.tile t).sw.spc 0 0 0 outs)

/-! ### sinj in the background -/

/-- The X outputs of the word a stopped switch stands at (R189). -/
def stoppedX (x : Tile) : List OutPort :=
  match decodeSwitch (memRead x.smem (8 * x.sw.spc) 8) with
  | .ok (.sdec _ _ _ r) => (routeOuts r).filterMap fun o => if o.2 = .x then some o.1 else none
  | _ => []

/-- The switch stands stopped with DECODE_MISS (R189, R190). -/
def missStopped (w : Switch) : Bool := w.run = .stopped && bits w.fault.toNat 11 4 == 4

/-- One flit of a strand's running sinj, when there is room (R189). Flits to destination 7 that are left when sresume
restarts the switch wait until it stops with DECODE_MISS again. DESIGN CHOICE, log 101. -/
def sinjCycle (t : TileNo) (s : State) (k : Fin 8) : State :=
  let x := s.tile t
  match x.strands[k].sinj with
  | none => s
  | some j =>
    let last := j.done + 1 = j.n
    let a := j.addr + 32 * j.done
    let f : Flit := { data := BitVec.ofNat 256 (tileLoad x a 32), h := j.markH && j.done = 0, e := j.markE && last }
    let next := if last then none else some { j with done := j.done + 1 }
    let finish (s : State) := s.modStrand t k fun z => { z with sinj := next }
    let idle : State := s.modTile t (noWait (.strand k))
    let read (s : State) (k2 : State → State) : State :=
      match takeBank (.strand k) a 1 (s.tile t), badIn x.badLm a 32 with
      | (false, x), _ => s.setTile t x
      | (true, _), some w => s.failGroup t 0x13 0x0D 0 (w64 (4 * w)) k.val
      | (true, x), none => k2 (s.setTile t x)
    if j.dest < 4 then
      let q := fin8 j.dest
      if 16 < x.outQ[q].length + 4 then idle
      else read s fun s =>
        let es := (List.range 4).map fun i =>
          { word := f.data.extractLsb' (64 * i) 64, h := f.h, e := f.e, pos := i, from_ := x.cycle, pending := none : QEntry }
        finish (s.modTile t fun x => { x with outQ := x.outQ.set q (x.outQ[q] ++ es) })
    else
      let outs := stoppedX x
      if !missStopped x.sw || !outs.all (outRoom s t) then idle
      else read s fun s =>
        let s := outs.foldl (fun s o => putOut s t o f) s
        finish (s.modSw t fun w => { w with inj := w.inj + 1 })

/-- The sinj instructions that run on a tile, one flit each in a cycle (R189). -/
def sinjSlot (t : TileNo) (s : State) : State := (List.finRange 8).foldl (sinjCycle t) s

/-- Credits that are due come back to a seam lane (R397). -/
def creditReturn (c : DieNo) (i : Fin 48) (s : State) : State :=
  s.modCache c fun x =>
    let y := x.sels[i]
    match y.returns with
    | d :: rest => if d ≤ s.now then { x with sels := x.sels.set i { y with credit := y.credit + 1, returns := rest } } else x
    | [] => x

/-- SEAM_CREDIT_RETURN (R397). -/
def execSeamCreditReturn (c : DieNo) (q : Fin 4) (l : Fin 12) (s : State) : Out State :=
  .next (creditReturn c ⟨q.val * 12 + l.val, by omega⟩ s)

end Sys2Proof.Machine
end

