-- ==== Sys2Proof/Machine/Admission.lean ====
section
/-! DEFINITION. Reading and admitting launch records (R320, R324-R329, R334, R335, R337), the launch queues' and the
dispatcher's registers (R318-R323), counters and cancellation (R339-R344). -/
namespace Sys2Proof.Machine

/-! ### Reading in a context -/

/-- `n` bytes from a virtual address, cut at 64 KiB pages: offset and length of each piece. -/
def ctxPieces (va : W64) (n : Nat) : List (Nat × Nat) :=
  let first := 0x10000 - va.toNat % 0x10000
  ((List.range (n / 0x10000 + 2)).map fun i =>
    if i = 0 then (0, min n first)
    else (first + (i - 1) * 0x10000, min 0x10000 (n - (first + (i - 1) * 0x10000)))).filter fun p => p.2 != 0

/-- Read `n` bytes at a virtual address, page by page; `none` when one of them fails (R326 check 5). -/
def ctxBytes (s : State) (c : View) (va : W64) (n : Nat) : Option (List Byte × State) :=
  (ctxPieces va n).foldl (fun acc p => acc.bind fun (bs, s) =>
    (ctxWalk s c (va + w64 p.1) false).bind fun (pa, s) => (s.plainRead pa p.2).map fun b => (bs ++ b, s)) (some ([], s))

/-- A part of `n` bytes at a virtual address stands in host memory behind a module that is down (R407), or beyond a failed link
(R417): the reading waits. -/
def ctxHeld (s : State) (c : View) (va : W64) (n : Nat) : Bool :=
  (ctxPieces va n).any fun p => walkCut s (cornerSite 0) c.ctx (va + w64 p.1) ||
    match ctxWalk s c (va + w64 p.1) false with
    | some (pa, _) => (paRange pa == 0xF && !s.hostReady pa p.2) || !s.tripOpen (cornerSite 0) pa p.2
    | none => false

/-- A field of `n` bytes at byte `o` of a byte string. -/
def fld (bs : List Byte) (o n : Nat) : Nat := leVal ((bs.drop o).take n)

/-! ### Images -/

/-- One init entry obeys R24; `len` is the image length. -/
def initOk (img : List Byte) (len at_ : Nat) : Bool :=
  let d := fld img at_ 4
  let n := fld img (at_ + 4) 4
  let o := fld img (at_ + 8) 4
  at_ + 16 ≤ len && d % 4 == 0 && n % 4 == 0 && d + n ≤ lmSize && o + n ≤ len && fld img (at_ + 12) 4 == 0

/-- Tile entry `t` obeys R23 and R24. -/
def tileEntryOk (img : List Byte) (len t : Nat) : Bool :=
  let e := 0x40 + 32 * t
  let f (o n : Nat) := fld img (e + o) n
  e + 32 ≤ len && f 0 4 % 64 == 0 && f 4 4 % 4 == 0 && f 4 4 ≤ 65536 && f 0 4 + f 4 4 ≤ len &&
    f 8 4 % 64 == 0 && f 12 4 % 8 == 0 && f 12 4 ≤ 16384 && f 8 4 + f 12 4 ≤ len && f 16 4 % 16 == 0 &&
    f 0x17 1 == 0 && f 0x1C 4 == 0 && (List.range (f 0x14 2)).all fun i => initOk img len (f 16 4 + 16 * i)

/-- The image obeys R22-R24 for a region of w × h. -/
def imageOk (img : List Byte) (w h : Nat) : Bool :=
  let len := fld img 12 4
  len ≤ img.length && fld img 0 4 == 0x4D495A4E && fld img 4 2 == 1 && fld img 6 2 == 0 && fld img 8 1 == w &&
    fld img 9 1 == h && fld img 10 2 == 0 && 0x40 ≤ len && (List.range 6).all (fun i => fld img (16 + 8 * i) 8 == 0) &&
    (List.range (w * h)).all (tileEntryOk img len)

/-- Read the image of a record: its header gives its length (R22). -/
def readImage (s : State) (c : View) (va : W64) : Option (List Byte × State) :=
  match ctxBytes s c va 64 with
  | none => none
  | some (h, s) => ctxBytes s c va (max 64 (fld h 12 4))

/-- The reading of an image waits for a module that is down (R407). -/
def imageHeld (s : State) (c : View) (va : W64) : Bool :=
  ctxHeld s c va 64 || (match ctxBytes s c va 64 with
    | some (h, s) => ctxHeld s c va (max 64 (fld h 12 4))
    | none => false)

/-! ### Launch records -/

/-- A counter field of a record: 0xFFFF_FFFF means none (R28). -/
def counterField (c v : Nat) : Option (Nat × Nat) := if c = 0xFFFFFFFF then none else some (c, v)

/-- A signed byte. -/
def sbyte (n : Nat) : Int := (BitVec.ofNat 8 n).toInt

/-- The fields of a 128-byte record (R324). -/
def parseRecord (b : List Byte) : Record :=
  let f := fld b
  { detReq := bit (f 2 2) 0, gang := bit (f 2 2) 1, split := bit (f 2 2) 2, standing := bit (f 2 2) 3
    ctx := f 4 2, slot := f 6 1, prio := f 7 1, image := w64 (f 8 8), args := w64 (f 0x10 8)
    nx := f 0x18 2, ny := f 0x1A 2, nz := f 0x1C 2, order := f 0x1E 1
    deps := (List.range (min 4 (f 0x1F 1))).map fun i =>
      (sbyte (f (0x20 + 4 * i) 1), sbyte (f (0x21 + 4 * i) 1), sbyte (f (0x22 + 4 * i) 1))
    wait0 := counterField (f 0x30 4) (f 0x38 8), wait1 := counterField (f 0x34 4) (f 0x40 8)
    done := counterField (f 0x48 4) (f 0x4C 4), dur := f 0x50 4, latclass := f 0x54 1, bwclass := f 0x55 1
    gangSize := f 0x56 2, w := f 0x58 1, h := f 0x59 1, saveMask := f 0x5A 2, status := w64 (f 0x60 8) }

/-- A counter number within its limits (R324). -/
def counterOk (c : Nat) : Bool := c ≤ 4095 || c == 0xFFFFFFFF

/-- The limits of R324, apart from those of check 1. -/
def recordOk (b : List Byte) : Bool :=
  let f := fld b
  let r := parseRecord b
  f 0 2 == 1 && f 2 2 / 16 == 0 && (r.slot < 32 || r.slot == 0xFF) && r.prio ≤ 15 &&
    canonical r.image && r.image.toNat % 64 == 0 && [r.nx, r.ny, r.nz].all (fun n => 1 ≤ n && n ≤ 4096) &&
    r.order ≤ 5 && f 0x1F 1 ≤ 4 &&
    (List.range 4).all (fun i => f (0x23 + 4 * i) 1 == 0 && (i < f 0x1F 1 || f (0x20 + 4 * i) 4 == 0)) &&
    counterOk (f 0x30 4) && counterOk (f 0x34 4) && counterOk (f 0x48 4) && r.latclass ≤ 15 &&
    (if r.gang then 1 ≤ r.gangSize else r.gangSize == 0) && 1 ≤ r.w && r.w ≤ 12 && 1 ≤ r.h && r.h ≤ 12 &&
    r.saveMask < 2 ^ 12 && f 0x5C 4 == 0 && canonical r.status && r.status.toNat % 64 == 0 &&
    [0x68, 0x70, 0x78].all fun o => f o 8 == 0

/-- Axis numbers (0 x, 1 y, 2 z) from most to least significant (R328). -/
def axes (order : Nat) : List Nat :=
  match order with
  | 0 => [2, 1, 0] | 1 => [2, 0, 1] | 2 => [1, 2, 0] | 3 => [1, 0, 2] | 4 => [0, 2, 1] | _ => [0, 1, 2]

/-- A component of a triple. -/
def comp {α : Type} (p : α × α × α) (a : Nat) : α :=
  match a with
  | 0 => p.1 | 1 => p.2.1 | _ => p.2.2

/-- Sizes of the index space. -/
def dims (r : Record) : Nat × Nat × Nat := (r.nx, r.ny, r.nz)

/-- Linear sweep rank (R328). -/
def rankOf (r : Record) (g : Nat × Nat × Nat) : Nat :=
  (axes r.order).foldl (fun acc a => acc * comp (dims r) a + comp g a) 0

/-- The group of a rank (R328). -/
def groupOf (r : Record) (rank : Nat) : Nat × Nat × Nat :=
  let a := axes r.order
  let a2 := a.getD 0 0
  let a1 := a.getD 1 0
  let a0 := a.getD 2 0
  let n0 := comp (dims r) a0
  let n1 := comp (dims r) a1
  let v (x : Nat) : Nat := if x = a0 then rank % n0 else if x = a1 then rank / n0 % n1 else if x = a2 then rank / (n0 * n1) else 0
  (v 0, v 1, v 2)

/-- The predecessor of a group along a vector, inside the index space (R329). -/
def predecessor (r : Record) (g : Nat × Nat × Nat) (d : Int × Int × Int) : Option (Nat × Nat × Nat) :=
  let x := (g.1 : Int) + d.1
  let y := (g.2.1 : Int) + d.2.1
  let z := (g.2.2 : Int) + d.2.2
  if 0 ≤ x && x < r.nx && 0 ≤ y && y < r.ny && 0 ≤ z && z < r.nz then some (x.toNat, y.toNat, z.toNat) else none

/-- A vector is lexicographically negative in the launch's axis order (R329). -/
def lexNegative (order : Nat) (d : Int × Int × Int) : Bool :=
  match ((axes order).map (comp d)).find? (· != 0) with
  | some c => c < 0
  | none => false

/-- Some group has a predecessor in its own gang (R337). -/
def gangCyclic (r : Record) : Bool :=
  (List.range (groupCount r)).any fun k =>
    r.deps.any fun d => match predecessor r (groupOf r k) d with
      | some p => rankOf r p / r.gangSize == k / r.gangSize
      | none => false

/-! ### Standing regions and frames -/

/-- A launch's placed group stands on the region with this origin. -/
def regionUser (s : State) (origin : Nat) : Option (Launch × Placed) :=
  s.hub.launches.findSome? fun l => (l.placed.find? (·.origin == origin)).map fun p => (l, p)

/-- FRAMESZ of a save area; zero where its line is marked failed (R366, R374). -/
def frameSize (s : State) (area : Nat) : Nat := (s.soundRead (area + 8) 8).getD 0

/-- A frame of a save area holds no frozen group; one whose bit stands in a line that is marked failed is not free (R366). -/
def frameUnused (s : State) (area f : Nat) : Bool :=
  (s.soundRead (inuseWord area f) 8).any fun w => !bit w (f % 64)

/-- Free frames of a save area that fit a region and that nothing has reserved (R374, R335). -/
def freeFrames (s : State) (area w h : Nat) : List Nat :=
  if area = 0 || frameSize s area < 0x1000 + w * h * 0x98000 then []
  else (List.range (min 4096 ((s.soundRead area 2).getD 0))).filter fun f =>
    frameUnused s area f && !s.hub.launches.any (fun l => l.reserved.contains (area, f))

/-- Groups of an accepted latency launch that have not been placed yet: regions promised to it, until a debug halt
voids the promise (R335, R378). -/
def promised (l : Launch) : Nat := if l.voided then 0 else groupCount l.r - l.placed.length - finishedCount l

/-- Two ranks are frozen and restored together: they belong to one gang, or are the same (R337, R372). -/
def together (r : Record) (a b : Nat) : Bool := if r.gang then a / r.gangSize == b / r.gangSize else a == b

/-- The groups that freeze with a placed one: itself, or its gang (R337, R372). -/
def gangOf (l : Launch) (p : Placed) : List Placed := l.placed.filter fun q => together l.r q.rank p.rank

/-- Cluster of a tile on its die (19). -/
def clusterOf (i : Nat) : Fin 4 := ⟨(i / 12 / 6 * 2 + i % 12 / 6) % 4, by omega⟩

/-- The tile stands in an ACTIVE cluster with no command running, on a die that is not halted (R430, R378). -/
def tileAwake (s : State) (t : TileNo) : Bool :=
  let d := s.die (tileDie t)
  let c := d.clusters[clusterOf (tileIdx t)]
  c.st == 0 && c.busy.isNone && !d.halted

/-- A group could be frozen to be moved if it had a frame: it and the rest of its gang run, on dies that run, in ACTIVE
clusters, and have not been asked to freeze (R337, R372, R378, R433). -/
def canFreeze (s : State) (l : Launch) (p : Placed) : Bool :=
  l.ending.isNone && (gangOf l p).all fun q =>
    q.started && !q.freezeAsked && (regionTiles q.origin l.r.w l.r.h).all (tileAwake s)

/-- For each group that has been asked to freeze and has still to take a frame of a save area, the latency launch it freezes
for, if any. -/
def askedIn (s : State) (area : Nat) : List (Option Nat) :=
  (s.hub.launches.filter fun l => l.area == area && l.ending.isNone).flatMap fun l =>
    (l.placed.filter (·.freezeAsked)).map (·.by_)

/-- Frames of a save area that a launch has reserved. -/
def reservedIn (l : Launch) (area : Nat) : Nat := (l.reserved.filter fun f => f.1 == area).length

/-- Frames of a save area that a launch has reserved and for which no group has been asked to freeze yet (R335). -/
def framesOwed (s : State) (area : Nat) (l : Launch) : Nat :=
  reservedIn l area - ((askedIn s area).filter (· == some l.lnum)).length

/-- Groups asked to freeze that are to take a free frame of a save area: each but those for which one is reserved. -/
def framesDue (s : State) (area : Nat) : Nat :=
  (s.hub.launches.foldl (fun xs l => (List.range (reservedIn l area)).foldl (fun xs _ => xs.erase (some l.lnum)) xs)
    (askedIn s area)).length

/-- The regions of a slot whose class-0 groups can be frozen, but for as many as the frames that latency launches accepted
earlier have reserved and have still to make use of (R335). -/
def displaceable (s : State) (slot : Nat) (regions : List Nat) : List Nat :=
  let taken := (s.hub.launches.filter fun m => m.slot == some slot && 0 < promised m).flatMap fun m =>
    (m.reserved.map (·.1)).eraseDups.flatMap fun a => List.replicate (framesOwed s a m) a
  taken.foldl (fun os area => os.eraseP fun o => (regionUser s o).any fun u => u.1.area == area)
    (regions.filter fun o => (regionUser s o).any fun u => u.1.r.latclass == 0 && canFreeze s u.1 u.2)

/-- Frames to reserve for freezing at least `n` class-0 groups on regions, a gang with all of its groups, when there are so
many: each as save area and frame, with the region it is for (R335, R372). -/
def reserveFrames (s : State) (regions : List Nat) (n : Nat) : List ((Nat × Nat) × Nat) :=
  regions.foldl (fun acc o =>
    if n ≤ acc.length || acc.any (·.2 == o) then acc
    else match regionUser s o with
      | some (l, p) =>
        let ps := gangOf l p
        let fs := ((freeFrames s l.area l.r.w l.r.h).drop (framesDue s l.area)).filter fun f =>
          !acc.any (·.1 == (l.area, f))
        if fs.length < ps.length then acc else acc ++ (ps.zip fs).map fun (q, f) => ((l.area, f), q.origin)
      | none => acc) []

/-- Regions of a slot that no group stands on, but for `gone`, which are being vacated. -/
def freeRegions (s : State) (sl : Slot) (gone : List Nat) : List Nat :=
  sl.regions.filter fun o => (regionUser s o).isNone || gone.contains o

/-- Regions promised to the latency launches of a slot that a list holds (R335). -/
def promisedBy (slot : Nat) (ls : List Launch) : Nat :=
  (ls.filter fun l => l.slot == some slot && l.r.latclass != 0).foldl (fun a l => a + promised l) 0

/-- The latency checks R334 and R335: the frames to reserve, when the launch can be promised. -/
def latencyOk (s : State) (r : Record) (q : LQueue) (slot : Nat) : Option (List (Nat × Nat)) :=
  let sl := s.hub.slots[slot % 32]'(by omega)
  let n := groupCount r
  let bound := (s.hub.latbound.toList.getD (r.latclass - 1) 0)
  let f := (freeRegions s sl []).length - promisedBy slot s.hub.launches
  let l := (reserveFrames s (displaceable s slot sl.regions) (n - f)).map (·.1)
  if !(r.standing && r.latclass == q.latclass && 0 < r.dur && waitsMet s r.wait0 r.wait1 && r.deps.isEmpty &&
      n ≤ sl.standing && 0 < bound) then none
  else if n ≤ f && sl.sstart ≤ bound then some []
  else if n ≤ f + l.length && sl.sstart + sl.sfreeze ≤ bound then some l
  else none

/-! ### Admission -/

/-- Launches of the active set (R326). -/
def activeCount (s : State) : Nat := (s.hub.launches.filter (·.active)).length
/-- Launches of the waiting list (R342). -/
def waitingCount (s : State) : Nat := (s.hub.launches.filter fun l => !l.active).length

/-- A record is refused with a code, or may be accepted with an effective slot and reserved frames. -/
inductive Verdict
  | refuse (code : Nat)
  | accept (slot : Option Nat) (reserved : List (Nat × Nat))

/-- Check 4 of R326: the slot of a record. -/
def slotOk (s : State) (r : Record) (q : LQueue) : Bool :=
  let eff := if r.slot = 0xFF then q.slot else r.slot
  (r.slot == 0xFF || r.slot == q.slot || q.slot == 0xFF) && (if r.standing then eff != 0xFF else eff == 0xFF) &&
    (eff == 0xFF ||
      (let sl := s.hub.slots[eff % 32]'(by omega)
       sl.st == 2 && sl.image == r.image && sl.w == r.w && sl.h == r.h))

/-- The checks of R326 in table order. -/
def admission (s : State) (q : LQueue) (b : List Byte) : Verdict :=
  let r := parseRecord b
  let eff := if r.slot = 0xFF then q.slot else r.slot
  let slot := if eff = 0xFF then none else some eff
  let img : Bool := r.standing || (match readImage s (s.viewOf r.ctx) r.image with
    | some (bs, _) => imageOk bs r.w r.h
    | none => false)
  let waits := !waitsMet s r.wait0 r.wait1
  let lat : Option (List (Nat × Nat)) := if r.latclass = 0 then some [] else latencyOk s r q eff
  if 255 < r.ctx || !s.ctxValid r.ctx || !bit (s.ctxWord r.ctx 0) 0 || bits (s.ctxWord r.ctx 0) 16 4 != r.bwclass then
    .refuse 2
  else if !recordOk b then .refuse 1
  else if r.detReq && !q.det then .refuse 9
  else if !slotOk s r q then .refuse 8
  else if !img then .refuse 3
  else if !r.deps.all (lexNegative r.order) then .refuse 4
  else if r.split && r.deps.any (fun d => comp d ((axes r.order).getD 0 0) != 0) then .refuse 10
  else if r.gang && (gangCyclic r || (if r.standing then (s.hub.slots[eff % 32]'(by omega)).standing < r.gangSize
      else 200 * (12 / r.w) * (12 / r.h) < r.gangSize)) then .refuse 5
  else if 512 ≤ activeCount s then .refuse 7
  else if waits && 8192 ≤ waitingCount s then .refuse 6
  else match lat with
    | none => .refuse 7
    | some rs => .accept slot rs

/-- Refuse a record: REFUSED and the status record (R326, R327). -/
def refuseRecord (s : State) (q : Fin 64) (b : List Byte) (code : Nat) : State :=
  let r := parseRecord b
  let s := s.modQueue q fun x => { x with refused := (x.refused + 1) % 2 ^ 32 }
  if r.status ≠ 0 && !s.ctxValid r.ctx then s.statusLost q.val
  else s.statusWrite q.val (s.viewOf r.ctx) r.status (statusBytes 2 code false 0 0 0 0 0 0 0 0)

/-- Accept a record: a launch number, the status record, and a place in the active set or on the waiting list (R326, R327).
The dispatcher keeps what it has read of the descriptor (R323). Whether it runs a split-allowed launch slice by slice is its
own choice (R346). -/
def acceptRecord (s : State) (q : Fin 64) (b : List Byte) (slot : Option Nat) (rs : List (Nat × Nat)) : State :=
  let r := parseRecord b
  let x := s.hub.queues[q]
  let n := s.hub.nextLnum
  let met := waitsMet s r.wait0 r.wait1
  let (k, s) := s.draw
  let l : Launch := {
    lnum := n, r := r, queue := q.val, prio := min r.prio x.prio, slot := slot, det := x.det, active := met
    satisfied := met, satisfiedSeq := 0, reserved := rs, taccept := s.dcycle, key := s.ctxKey r.ctx
    hints := s.ctxWord r.ctx 2, hintCount := s.ctxWord r.ctx 3, area := s.ctxWord r.ctx 4, sliced := r.split && Config.sliced k }
  let s := s.modHub fun h => { h with
    launches := h.launches ++ [l], nextLnum := if n + 1 = 2 ^ 32 then 1 else n + 1 }
  s.statusWrite q.val l.view r.status (statusBytes 1 0 false n 0 0 0 0 0 l.taccept 0)

/-- The queue may be read now (R319, R320, R326, R407). -/
def readable (s : State) (i : Nat) : Bool :=
  let q := s.hub.queues[i % 64]'(by omega)
  q.en && queueUsable q && queueWaiting q != 0 && ringReady s (cornerSite 0) q q.qhead && (0 < q.latclass || activeCount s < 512)

/-- The queue to read next: latency queues first, round robin within each kind (R320). -/
def nextQueue (s : State) : Option (Fin 64) :=
  let order (last : Nat) := (List.range 64).map fun i => (last + 1 + i) % 64
  let lat (i : Nat) : Bool := 0 < (s.hub.queues[i % 64]'(by omega)).latclass
  (((order s.hub.lastLat).find? fun i => readable s i && lat i).or
    ((order s.hub.lastOrd).find? fun i => readable s i && !lat i)).map fun i => ⟨i % 64, by omega⟩

/-- A launch was satisfied before another: in an earlier dispatcher cycle, or with a smaller launch number (R342). -/
def satisfiedBefore (l m : Launch) : Bool :=
  decide (l.satisfiedSeq < m.satisfiedSeq) || (l.satisfiedSeq == m.satisfiedSeq && decide (l.lnum < m.lnum))

/-- The launch that moves next to the active set: satisfied, in the order of satisfaction (R342). It does not move in a
dispatcher cycle in which a record has been read (R320). -/
def nextActive (s : State) : Option Launch :=
  if 512 ≤ activeCount s || s.hub.lastRead == some s.dcycle then none
  else (s.hub.launches.filter fun l => !l.active && l.satisfied && l.ending.isNone).foldl
    (fun b l => match b with
      | some m => if satisfiedBefore l m then some l else some m
      | none => some l) none

/-- The record that stands at the head of a queue. -/
def headRecord (s : State) (q : Fin 64) : List Byte :=
  let x := s.hub.queues[q]
  (s.plainRead (queueEntry x x.qhead) 128).getD []

/-- The image that a record names waits to be read (R407). -/
def recordHeld (s : State) (b : List Byte) : Bool :=
  let r := parseRecord b
  s.ctxValid r.ctx && !r.standing && imageHeld s (s.viewOf r.ctx) r.image

/-- The dispatcher may read a record in this dispatcher cycle (R318, R320, R417, R443). -/
def mayRead (s : State) : Bool :=
  s.hub.en && !s.hub.down && s.hub.lastRead != some s.dcycle && s.hub.lastMove != some s.dcycle && (nextActive s).isNone &&
    (nextQueue s).any fun q => !recordHeld s (headRecord s q)

/-- LAUNCH_RECORD_READ: the dispatcher reads one waiting record, advances QHEAD and admits or refuses it (R320, R326). -/
def execLaunchRecordRead (s : State) : Out State :=
  .next <| if !mayRead s then s
  else match nextQueue s with
    | none => s
    | some q =>
      let x := s.hub.queues[q]
      let b := headRecord s q
      let s := s.modQueue q fun x => { x with qhead := (x.qhead + 1) % 2 ^ 32 }
      let s := s.modHub fun h =>
        if 0 < x.latclass then { h with lastRead := some s.dcycle, lastLat := q.val }
        else { h with lastRead := some s.dcycle, lastOrd := q.val }
      match admission s x b with
      | .refuse c => refuseRecord s q b c
      | .accept slot rs => acceptRecord s q b slot rs

/-- LAUNCH_ACTIVATE: the next satisfied launch moves to the active set (R342). -/
def execLaunchActivate (s : State) : Out State :=
  .next <| match nextActive s with
    | none => s
    | some l => (s.modLaunch l.lnum fun l => { l with active := true }).modHub
        fun h => { h with lastMove := some s.dcycle }

/-! ### Host transactions -/

/-- Module of a host transaction that waits. -/
def hostModule : Instr → Option Nat
  | .hostRead m _ _ => some m.val
  | .hostWrite m _ _ => some m.val
  | _ => none

/-- A transaction must wait: its module is down, or an earlier one of the module still waits (R406, R407). -/
def hostHeld (s : State) (m : Nat) : Bool := !bit s.hub.up m || s.deferred.any fun i => hostModule i == some m

/-- A counter update must wait: it publishes the earlier writes of its module, and one of them is withheld by its post
(R272, R412). -/
def counterHeld (s : State) (m : Nat) : Bool := hostHeld s m || s.hub.heldDone.any fun w => w.m == m

/-- An event that is a host write to the dispatcher's register at `off` is a write on module 0, log 68. While it must wait it
does so as that write. -/
def inTurn (held : Bool) (off : Nat) (v : W64) (f : State → State) (s : State) : State :=
  s.accepts fun s => if held then s.defer (.hostWrite 0 (0xA000000000000 + off) (leBytes 8 v.toNat)) else f s

/-! ### Registers of the queues and counters -/

/-- A rejected doorbell: BELLERR and interrupt cause QUEUE (R320, R409). -/
def bellError (s : State) (q : Fin 64) : State := (s.modQueue q fun x => { x with bellerr := true }).irq 3

/-- A write to QTAIL (R319-R321). -/
def doorbellWrite (s : State) (q : Fin 64) (v : W64) : State :=
  let x := s.hub.queues[q]
  let n := bits v.toNat 0 32
  if x.eth || !(1 ≤ x.size && x.size ≤ 16) || (x.en && !queueUsable x) || 2 ^ x.size < (n + 2 ^ 32 - x.qhead) % 2 ^ 32 then
    bellError s q
  else s.modQueue q fun x => { x with qtail := n }

/-- DOORBELL (R320): after the writes that the host has made before it over the same module (R272). -/
def execDoorbell (q : Fin 64) (v : W64) (s : State) : Out State :=
  .next (inTurn (hostHeld s 0) (0x010018 + 0x100 * q.val) v (doorbellWrite · q v) s)

/-- A write to QCFG (R319): only EN while the queue is enabled. -/
def qcfgSet (s : State) (q : Fin 64) (v : W64) : State :=
  let n := v.toNat
  s.modQueue q fun x =>
    if x.en then { x with en := bit n 0 }
    else { x with
      en := bit n 0, det := bit n 1, prio := bits n 2 4, latclass := bits n 6 4, slot := bits n 10 8, eth := bit n 18 }

/-- QCFG_WRITE (R319). -/
def execQcfgWrite (q : Fin 64) (v : W64) (s : State) : Out State := .next (s.accepts (qcfgSet · q v))

/-- A write to DCTL: EN is writable from boot stage 3 on (R318, R436). -/
def dctlSet (s : State) (v : W64) : State :=
  if s.rot.stage = 3 then s.modHub fun h => { h with en := bit v.toNat 0 } else s

/-- DCTL_WRITE (R318). -/
def execDctlWrite (v : W64) (s : State) : Out State := .next (dctlSet s v)

/-- TIMELINE_COUNTER_WRITE (R339, R341), after the host's earlier writes over the module (R272). -/
def execTimelineCounterWrite (n : Fin 4096) (v : W64) (s : State) : Out State :=
  .next (inTurn (counterHeld s 0) (0x100000 + 8 * n.val) v (State.counterWrite · (hostSource 0) n.val v.toNat) s)

/-- TIMELINE_COUNTER_INCREMENT (R339, R272). -/
def execTimelineCounterIncrement (n : Fin 4096) (v : W64) (s : State) : Out State :=
  .next (inTurn (counterHeld s 0) (0x108000 + 8 * n.val) v (State.counterAdd · (hostSource 0) n.val v.toNat) s)

end Sys2Proof.Machine
end

