-- ==== Sys2Proof/Machine/Dispatcher.lean ====
section
/-! DEFINITION. The dispatcher's work on admitted launches: release order and placement (R330-R333, R336, R337,
R345, R392, R393, R396), loading and starting a group (R27, R338, R396-R399), finishing it (R30), overrun (R363,
R364), quantum (R345), model slots (R338) and cancellation (R344). -/
namespace Sys2Proof.Machine

/-! ### Which group is next -/

/-- Groups of a slice: those with one value of the A2 coordinate (R328, R346). -/
def sliceLen (r : Record) : Nat := comp (dims r) ((axes r.order).getD 1 0) * comp (dims r) ((axes r.order).getD 2 0)

/-- The rank at which the sweep of a rank begins: that of the launch, or of its slice (R346). -/
def sweepStart (l : Launch) (r : Nat) : Nat := if l.sliced then r / sliceLen l.r * sliceLen l.r else 0

/-- The base of the window of a rank's sweep: below it all ranks of the sweep have retired (R330, R346). -/
def sweepBase (l : Launch) (r : Nat) : Nat :=
  if l.sliced then
    ((List.range (sliceLen l.r)).find? fun i => !rankRetired l (sweepStart l r + i)).getD 0 + sweepStart l r
  else l.base

/-- A group of the launch may be released (R331). -/
def releasable (l : Launch) (r : Nat) : Bool :=
  !rankRetired l r && !l.placed.any (·.rank == r) && !l.frozen.any (·.rank == r) &&
    (l.r.deps.isEmpty || r < sweepBase l r + 65536) &&
    l.r.deps.all fun d => match predecessor l.r (groupOf l.r r) d with
      | some p => rankRetired l (rankOf l.r p)
      | none => true

/-- Ranks of gang `k` (R337). -/
def gangRanks (r : Record) (k : Nat) : List Nat :=
  (List.range (min r.gangSize (groupCount r - k * r.gangSize))).map (k * r.gangSize + ·)

/-- What a launch would place next: its ranks, and whether they are frozen (R332, R337). A frozen gang is restored with
all of its members that have not finished, once none of them still stands on tiles. -/
def nextRanks (l : Launch) : Option (List Nat × Bool) :=
  match l.frozen.filter fun f => !l.placed.any fun p => together l.r p.rank f.rank with
  | f :: fs =>
    let low := fs.foldl (fun a x => min a x.rank) f.rank
    some (if l.r.gang then (gangRanks l.r (low / l.r.gangSize)).filter fun k => l.frozen.any (·.rank == k) else [low], true)
  | [] =>
    if l.r.gang then
      ((List.range ((groupCount l.r + l.r.gangSize - 1) / l.r.gangSize)).find? fun k =>
        (gangRanks l.r k).all (releasable l)).map fun k => (gangRanks l.r k, false)
    else ((List.range (groupCount l.r)).find? (releasable l)).map fun r => ([r], false)

/-- The launch competes in a pool: the standing regions of a slot, or all other tiles (R332). -/
def inPool (s : State) (pool : Option (Fin 32)) (l : Launch) : Bool :=
  l.active && l.satisfied && l.ending.isNone && !s.hub.down &&
    (match pool with
      | some i => l.r.standing && l.slot == some i.val
      | none => !l.r.standing)

/-- Sort key of R332. -/
def poolKey (s : State) (l : Launch) (frozen : Bool) : Nat :=
  ((((15 - min 15 l.prio) * 2 + b2n (!frozen)) * 64 + (l.queue + 127 - s.hub.lastServed) % 64) * 2 ^ 33) + l.lnum

/-- The first releasable group or gang of a pool, of the launches that a test names (R332). -/
def firstAmong (s : State) (pool : Option (Fin 32)) (ok : Launch → Bool) : Option (Launch × List Nat × Bool) :=
  (s.hub.launches.filter fun l => inPool s pool l && ok l).foldl (fun best l =>
    match nextRanks l with
    | none => best
    | some (rs, f) =>
      match best with
      | some (m, _, g) => if poolKey s l f < poolKey s m g then some (l, rs, f) else best
      | none => some (l, rs, f)) none

/-- The first releasable group or gang of a pool (R332). -/
def firstOfPool (s : State) (pool : Option (Fin 32)) : Option (Launch × List Nat × Bool) := firstAmong s pool fun _ => true

/-! ### Where it may stand -/

/-- The origin's column and row on its die. -/
def originXY (o : Nat) : Nat × Nat := (o % 144 % 12, o % 144 / 12)

/-- Two regions of w × h overlap. -/
def overlap (w h o p : Nat) : Bool :=
  o / 144 == p / 144 && (originXY o).1 < (originXY p).1 + w && (originXY p).1 < (originXY o).1 + w &&
    (originXY o).2 < (originXY p).2 + h && (originXY p).2 < (originXY o).2 + h

/-- The tile belongs to a standing region (R338). -/
def inStanding (s : State) (t : TileNo) : Bool :=
  s.hub.slots.toList.any fun sl => sl.regions.any fun o => (regionTiles o sl.w sl.h).contains t

/-- Neither the region nor its clusters keep a group out, were the tiles `gone` vacated. `asleep` asks for regions that a wake
would free (R432). -/
def regionFree (s : State) (gone : List TileNo) (pool : Option (Fin 32)) (w h o : Nat) (asleep : Bool) : Bool :=
  (originXY o).1 + w ≤ 12 && (originXY o).2 + h ≤ 12 &&
    (regionTiles o w h).all fun t =>
      ((s.tile t).group.isNone || gone.contains t) && (pool.isSome || !inStanding s t) && (asleep || tileAwake s t)

/-- The neighbour of a group along an axis (0 x, 1 y) toward + or -, when it is joined by a seam (R396). -/
def joined (r : Record) (rank axis : Nat) (up : Bool) : Option Nat :=
  let g := groupOf r rank
  let len := if axis = 0 then r.w else r.h
  let c := comp g axis
  let next : Option Nat := if up then (if c + 1 < comp (dims r) axis then some (c + 1) else none) else (if c = 0 then none else some (c - 1))
  next.bind fun c' =>
    let p := rankOf r (if axis = 0 then (c', g.2.1, g.2.2) else (g.1, c', g.2.2))
    let low := if up then c else c'
    if r.gang && p / r.gangSize == rank / r.gangSize && (len == 12 || low % 2 == 0) then some p else none

/-- An origin obeys the seam positions of R396 toward the groups of its gang placed before. -/
def seamFits (r : Record) (done : List (Nat × Nat)) (rank o : Nat) : Bool :=
  let (x, y) := originXY o
  let (c, w) := dieSite (o / 144)
  let look (axis : Nat) (up : Bool) : Bool :=
    match joined r rank axis up with
    | none => true
    | some p =>
      (if axis = 0 then x == (if up then 12 - r.w else 0) else y == (if up then 12 - r.h else 0)) &&
      (match done.lookup p with
        | none => true
        | some q =>
          let (x', y') := originXY q
          let (c', w') := dieSite (q / 144)
          if axis = 0 then y == y' && w == w' && (if up then c' == c + 2 else c == c' + 2)
          else x == x' && c == c' && (if up then w' == w + 2 else w == w' + 2))
  look 0 true && look 0 false && look 1 true && look 1 false

/-- Origins in the order the dispatcher tries them: its own choice (R333). -/
def originsFrom (choice : Nat) : List Nat := (List.range 28800).map fun i => (choice + i) % 28800

/-- Place ranks one after the other; `none` when a rank finds no place (R333, R337). -/
def placeRanks (r : Record) (free : Nat → Bool) (cands : List Nat) : List Nat → List (Nat × Nat) → Option (List (Nat × Nat))
  | [], acc => some acc
  | k :: ks, acc =>
    cands.findSome? fun o =>
      if free o && !acc.any (fun p => overlap r.w r.h o p.2) && seamFits r acc k o then
        placeRanks r free cands ks (acc ++ [(k, o)])
      else none

/-- Window ranks of a context do not meet (R393). -/
def windowFree (s : State) (l : Launch) (ranks : List Nat) : Bool :=
  !l.r.gang || !s.hub.launches.any fun m => m.r.gang && m.r.ctx == l.r.ctx &&
    m.placed.any fun p => ranks.any fun k => p.rank % 2 ^ 20 == k % 2 ^ 20

/-- The relocation table has room for the dies of new regions (R392). -/
def relocRoom (s : State) (lnum : Nat) (places : List (Nat × Nat)) : Bool :=
  let dies := (places.map fun p => p.2 / 144).eraseDups
  let have_ (d : Nat) := s.hub.reloc.any fun (_, e) => e.valid && e.lnum == lnum && e.die == d
  (s.hub.reloc.filter (·.2.valid)).length + (dies.filter fun d => !have_ d).length ≤ 1024

/-- Regions of a slot that a launch may take: free, were the regions `gone` vacated, and not promised to a latency launch; to
one accepted earlier, when it is one itself (R335). -/
def slotSpare (s : State) (i : Fin 32) (l : Launch) (gone : List Nat) : Nat :=
  (freeRegions s s.hub.slots[i] gone).length - promisedBy i.val
    (if l.r.latclass = 0 then s.hub.launches else s.hub.launches.takeWhile (·.lnum != l.lnum))

/-- A region: its origin and sides. -/
abbrev Region := Nat × Nat × Nat

/-- Places for the ranks of a launch, if there are any now, or were the regions `gone` vacated. -/
def findPlaces (s : State) (gone : List Region) (pool : Option (Fin 32)) (choice : Nat) (l : Launch) (ranks : List Nat)
    (asleep : Bool) : Option (List (Nat × Nat)) :=
  let cands : List Nat := match pool with
    | some i => s.hub.slots[i].regions
    | none => originsFrom choice
  let spare : Bool := match pool with
    | some i => ranks.length ≤ slotSpare s i l (gone.map (·.1))
    | none => true
  let ts := gone.flatMap fun r => regionTiles r.1 r.2.1 r.2.2
  if !spare || !windowFree s l ranks then none
  else (placeRanks l.r (fun o => regionFree s ts pool l.r.w l.r.h o asleep) cands ranks []).filter
    fun ps => relocRoom s l.lnum ps

/-- There is no place for the ranks now. -/
def mustWait (s : State) (pool : Option (Fin 32)) (l : Launch) (ranks : List Nat) : Bool :=
  (findPlaces s [] pool 0 l ranks false).isNone

/-! ### Taking a place -/

/-- Record a region in the relocation table (R391, R392). -/
def relocAdd (s : State) (lnum o w h : Nat) : State :=
  let d := o / 144
  s.modHub fun hb =>
    match hb.reloc.find? fun (_, e) => e.valid && e.lnum == lnum && e.die == d with
    | some (n, e) => { hb with reloc := tabSet n { e with origins := e.origins ++ [o % 144] } hb.reloc }
    | none =>
      match (List.range 1024).find? fun n => !(tabGet {} n hb.reloc).valid with
      | some n => { hb with reloc := tabSet n ⟨lnum, d, w, h, true, [o % 144]⟩ hb.reloc }
      | none => hb

/-- What tile `i` of a placed group knows of it (R16). -/
def groupAt (l : Launch) (rank o i : Nat) : Group :=
  { lnum := l.lnum, rank := rank, index := i, origin := o, w := l.r.w, h := l.r.h, args := l.r.args
    gidx := groupOf l.r rank, gdim := dims l.r, ctx := l.r.ctx, dur := l.r.dur, mask := 0, gang := l.r.gang
    standing := l.r.standing, latency := l.r.latclass != 0, det := l.det }

/-- Note a placed group; a launch that waits for no further region keeps no frame reserved (R335). -/
def notePlaced (p : Placed) (l : Launch) : Launch :=
  let l := { l with placed := l.placed ++ [p] }
  { l with reserved := if promised l = 0 then [] else l.reserved }

/-- Take a region for a rank: from now on its tiles hold the group (R223). -/
def takePlace (l : Launch) (frozen : Bool) (s : State) (p : Nat × Nat) : State :=
  let s := (List.range (l.r.w * l.r.h)).foldl (fun s i =>
    s.modTile (tileOf (regionTile p.2 l.r.w i)) fun x => { x with group := some (groupAt l p.1 p.2 i) }) s
  (relocAdd s l.lnum p.2 l.r.w l.r.h).modLaunch l.lnum (notePlaced ⟨p.1, p.2, false, 0, 0, false, frozen, none, false, none⟩)

/-- A group, with the rest of its gang, may be frozen to be moved: a frame fits each of them, a free one, or one that the
latency launch `who` that it freezes for has reserved (R335, R337, R372). -/
def mayFreeze (s : State) (who : Option Launch) (l : Launch) (p : Placed) : Bool :=
  canFreeze s l p && decide ((gangOf l p).length ≤
    (freeFrames s l.area l.r.w l.r.h).length - framesDue s l.area + ((who.map (framesOwed s l.area)).getD 0))

/-- Ask for the freeze of a group, with its whole gang, for a latency launch `who` if any (R336, R372): its tiles stop at once
(R373 step 1). -/
def askFreeze (s : State) (who : Option Nat) (l : Launch) (p : Placed) : State :=
  let mine (q : Placed) : Bool := together l.r q.rank p.rank
  let s := (gangOf l p).foldl (fun s q => s.stopTiles (regionTiles q.origin l.r.w l.r.h)) s
  s.modLaunch l.lnum fun l => { l with placed := l.placed.map fun q => if mine q then { q with freezeAsked := true, by_ := who } else q }

/-- Placed groups of all launches. -/
def allPlacedCount (s : State) : Nat := (s.hub.launches.map fun l => l.placed.length).sum

/-- Groups that may be frozen, with their launches, by a condition on the launch. -/
def victims (s : State) (who : Option Launch) (ok : Launch → Placed → Bool) : List (Launch × Placed) :=
  s.hub.launches.flatMap fun l => (l.placed.filter fun p => ok l p && mayFreeze s who l p).map fun p => (l, p)

/-- The victim of R345: lowest priority, then most recently started. -/
def pickVictim (vs : List (Launch × Placed)) : Option (Launch × Placed) :=
  vs.foldl (fun b v => match b with
    | none => some v
    | some w => if v.1.prio < w.1.prio || (v.1.prio == w.1.prio && w.2.startedAt < v.2.startedAt) then some v else b) none

/-- A launch's groups stand in a pool (R332). -/
def ofPool (pool : Option (Fin 32)) (l : Launch) : Bool :=
  match pool with
  | some i => l.r.standing && l.slot == some i.val
  | none => !l.r.standing

/-- A freeze that has been asked for in a pool is still to be carried out. -/
def freezePending (s : State) (pool : Option (Fin 32)) : Bool :=
  s.hub.launches.any fun l => ofPool pool l && l.placed.any (·.freezeAsked)

/-- A launch may freeze another's groups to free regions of a pool: a latency launch a class-0 one's of its slot (R336), an
ordinary launch one's of lower effective priority (R345). -/
def mayDisplace (pool : Option (Fin 32)) (l m : Launch) : Bool :=
  ofPool pool m && m.r.latclass == 0 && (if pool.isSome then l.r.latclass != 0 else decide (m.prio < l.prio))

/-- The regions that freeze with a placed group. -/
def vacated (v : Launch × Placed) : List Region := (gangOf v.1 v.2).map fun q => (q.origin, v.1.r.w, v.1.r.h)

/-- The lists that leave out any of the elements of one. -/
def subsets {α : Type} : List α → List (List α)
  | [] => [[]]
  | a :: r => subsets r ++ (subsets r).map (a :: ·)

/-- Of some lists of groups to freeze, the first of those that freeze the fewest. -/
def fewest (vss : List (List (Launch × Placed))) : Option (List (Launch × Placed)) :=
  let size (vs : List (Launch × Placed)) : Nat := (vs.flatMap vacated).length
  vss.foldl (fun b vs => match b with
    | none => some vs
    | some c => if size vs < size c then some vs else b) none

/-- The launch whose reserved frames its victims take: itself, when it is a latency launch (R335). -/
def freezesFor (l : Launch) : Option Launch := if l.r.latclass = 0 then none else some l

/-- The groups to freeze for the ranks of a launch (R345): as many in the order of that rule as are needed for there to be a
place, the others of which keep theirs; and of those no more than some place needs. In `s` the groups of `got` have been
asked to freeze. -/
def roomFor (pool : Option (Fin 32)) (choice : Nat) (l : Launch) (ranks : List Nat) :
    Nat → State → List (Launch × Placed) → Option (List (Launch × Placed))
  | 0, _, _ => none
  | n + 1, s, got =>
    match pickVictim (victims s (freezesFor l) fun m _ => mayDisplace pool l m) with
    | none => none
    | some v =>
      let room (vs : List (Launch × Placed)) : Bool := (findPlaces s (vs.flatMap vacated) pool choice l ranks false).isSome
      if room (got ++ [v]) then fewest ((subsets (got ++ [v])).filter room)
      else roomFor pool choice l ranks n (askFreeze s ((freezesFor l).map (·.lnum)) v.1 v.2) (got ++ [v])

/-- Free regions for a group that found none, by freezing other groups: no more than it needs, and none when no freezing would
make a place (R336, R345). -/
def makeRoom (s : State) (pool : Option (Fin 32)) (choice : Nat) (l : Launch) (ranks : List Nat) : State :=
  if freezePending s pool then s
  else ((roomFor pool choice l ranks (allPlacedCount s) s []).getD []).foldl
    (fun s v => askFreeze s ((freezesFor l).map (·.lnum)) v.1 v.2) s

/-- A wake request for a cluster (R432). -/
def wakeCluster (s : State) (d : DieNo) (k : Fin 4) : State :=
  s.modDie d fun x => { x with clusters := x.clusters.set k { x.clusters[k] with wakereq := true, wake := true } }

/-- Wake requests for the sleeping clusters that a placement would need (R432). -/
def wakeClusters (s : State) (w h : Nat) (places : List (Nat × Nat)) : State :=
  places.foldl (fun s p => (regionTiles p.2 w h).foldl (fun s t =>
    let k := clusterOf (tileIdx t)
    if (s.die (tileDie t)).clusters[k].st = 0 then s else wakeCluster s (tileDie t) k) s) s

/-- Place ranks of a launch, if there is a place (R333). -/
def tryPlace (s : State) (pool : Option (Fin 32)) (choice : Nat) (c : Launch × List Nat × Bool) : Option State :=
  (findPlaces s [] pool choice c.1 c.2.1 false).map fun ps =>
    (ps.foldl (takePlace c.1 c.2.2) s).modHub fun h => { h with lastServed := c.1.queue }

/-- There is no place for ranks of a launch: wake clusters that hold one, or make room (R432, R336, R345). -/
def openRoom (s : State) (pool : Option (Fin 32)) (choice : Nat) (c : Launch × List Nat × Bool) : State :=
  match findPlaces s [] pool choice c.1 c.2.1 true with
  | some ps => wakeClusters s c.1.r.w c.1.r.h ps
  | none => makeRoom s pool choice c.1 c.2.1

/-- What the dispatcher places next in a pool: its first releasable group or gang (R332). A class-0 one that must wait holds
up no latency launch, whose promise stands (R335). DEDUCED, log 11. -/
def nextOfPool (s : State) (pool : Option (Fin 32)) : Option (Launch × List Nat × Bool) :=
  match firstOfPool s pool with
  | none => none
  | some c =>
    if c.1.r.latclass = 0 && mustWait s pool c.1 c.2.1 then (firstAmong s pool fun l => l.r.latclass != 0).or (some c)
    else some c

/-- Place the next group or gang of a pool, or make room for it (R331-R333, R336, R337, R345). -/
def placeFirst (s : State) (pool : Option (Fin 32)) (choice : Nat) : State :=
  match nextOfPool s pool with
  | none => s
  | some c => (tryPlace s pool choice c).getD (openRoom s pool choice c)

/-- GROUP_PLACE (R332). -/
def execGroupPlace (pool : Option (Fin 32)) (choice : Nat) (s : State) : Out State := .next (placeFirst s pool choice)

/-! ### Loading and starting -/

/-- Local memory as the init list leaves it (R20, R24). -/
def initMemory (img : List Byte) (at_ count : Nat) : Mem :=
  (List.range count).foldl (fun m i =>
    let e := at_ + 16 * i
    memWrite m (fld img e 4) ((img.drop (fld img (e + 8) 4)).take (fld img (e + 4) 4))) []

/-- A strand at group start (R14-R16). -/
def startStrand (vector : W64) (mask : BitVec 8) (k : Fin 8) : Strand :=
  { r := { pc := BitVec.ofNat 64 (4 * k.val) }, etvec := vector
    run := if mask.getLsbD k.val then .active else .notStarted }

/-- A tile loaded for its group by R27: `resident` keeps instruction and switch memory (R338). -/
def loadTile (img : List Byte) (resident : Bool) (x : Tile) : Tile :=
  match x.group with
  | none => x
  | some g =>
    let e := 0x40 + 32 * g.index
    let f (o n : Nat) := fld img (e + o) n
    let mask := BitVec.ofNat 8 (f 0x16 1)
    { ({} : Tile) with
      group := some { g with mask := mask }
      imem := if resident then x.imem else memWrite [] 0 ((img.drop (f 0 4)).take (f 4 4))
      smem := if resident then x.smem else memWrite [] 0 ((img.drop (f 8 4)).take (f 12 4))
      lm := initMemory img (f 16 4) (f 0x14 2)
      strands := Vector.ofFn (startStrand (w64 (f 0x18 4)) mask)
      sw := { run := if f 12 4 = 0 then .halted else .running } }

/-- Join the seams and terminators of a gang's region (R396, R398, R399). A seam to a partner that no longer stands on
tiles is not joined. -/
def joinSeams (s : State) (l : Launch) (rank o : Nat) : State :=
  let r := l.r
  (regionTiles o r.w r.h).foldl (fun s t =>
    (List.range 4).foldl (fun s p =>
      let i := tileIdx t
      let (x, y) := originXY o
      let edge : Bool := match p with
        | 0 => i / 12 == y
        | 1 => i % 12 == x + r.w - 1
        | 2 => i / 12 == y + r.h - 1
        | _ => i % 12 == x
      if !edge then s
      else match seamOf t.val p with
        | none => s
        | some (c, q, lane) =>
          let mate := joined r rank (if p % 2 = 0 then 1 else 0) (p == 1 || p == 2)
          let sel : Selector := match mate with
            | some m =>
              if l.placed.any (·.rank == m) then { en := true, side := (q + 2) % 4, lane := lane, credit := 12 } else {}
            | none => { en := true, term := true }
          s.modCache (dieOf c) fun z => { z with sels := z.sels.set ((q * 12 + lane) % 48) sel (by omega) }) s) s

/-- The image a launch's groups load: the slot's resident one, or the record's (R338, R27). An image that can no longer be
read when the group starts reads as no bytes: no strand starts, and the switch is halted. DESIGN CHOICE, log 89. -/
def imageFor (s : State) (l : Launch) : List Byte × State :=
  match l.slot with
  | some i => ((s.hub.slots[i % 32]'(by omega)).loaded, s)
  | none => match readImage s l.view l.r.image with
    | some (b, s) => (b, s)
    | none => ([], s)

/-- The placed groups that start with a rank: its whole gang, once all of it is placed (R337). -/
def startSet (l : Launch) (rank : Nat) : List Placed :=
  l.placed.filter fun p => !p.started && (if l.r.gang then p.rank / l.r.gangSize == rank / l.r.gangSize else p.rank == rank)

/-- Start the clocks of a set of placed groups, and note the start (R27, R327). -/
def startClocks (s : State) (l : Launch) (ps : List Placed) : State :=
  let s := ps.foldl (fun s p => (regionTiles p.origin l.r.w l.r.h).foldl
    (fun s t => s.modTile t fun x => { x with running := true, stopped := false }) s) s
  s.modLaunch l.lnum fun l => { l with
    tstart := s.dcycle
    placed := l.placed.map fun q => if ps.any (·.rank == q.rank) then
      { q with started := true, startedAt := s.dcycle, quantumAt := s.dcycle, restoring := false } else q }

/-- The loader looks once for the pages that each of some groups will touch (R239). -/
def claimFor (s : State) (l : Launch) (ps : List Placed) : State :=
  let new := ps.filter (!·.paged)
  if new.isEmpty then s
  else (new.foldl (fun s p => claimPages s l.view (dieOf (p.origin / 144))) s).modLaunch l.lnum fun l => { l with
    placed := l.placed.map fun q => if new.any (·.rank == q.rank) then { q with paged := true } else q }

/-- The start of a group waits: for a page of its context that moves (R239), or for its image (R407). -/
def startHeld (s : State) (l : Launch) : Bool :=
  s.moves.any (·.ctx == l.r.ctx) || (!l.r.standing && imageHeld s l.view l.r.image)

/-- Load and start the placed groups that start with a rank (R27, R239, R333, R338, R393, R396). -/
def startGroup (s : State) (lnum rank : Nat) : State :=
  match s.launch? lnum with
  | none => s
  | some l =>
    let ps := (startSet l rank).filter fun p => !p.restoring
    if ps.isEmpty || l.ending.isSome then s
    else
      let s := claimFor s l ps
      if startHeld s l then s
      else
        let (img, s) := imageFor s l
        let s := ps.foldl (fun s p => (regionTiles p.origin l.r.w l.r.h).foldl
          (fun s t => s.modTile t (loadTile img l.r.standing)) s) s
        let s := if l.r.gang then ps.foldl (fun s p => joinSeams s l p.rank p.origin) s else s
        startClocks s l ps

/-- GROUP_START (R27). -/
def execGroupStart (lnum rank : Nat) (s : State) : Out State := .next (startGroup s lnum rank)

/-! ### Finishing -/

/-- A tile has done its part of R30. -/
def tileDone (x : Tile) : Bool :=
  let mask := (x.group.map Group.mask).getD 0
  (List.finRange 8).all (fun k => !mask.getLsbD k.val || x.strands[k].run == RunState.retired) &&
    x.sw.run == .halted && x.inQ.toList.all (·.isEmpty) && x.outQ.toList.all (·.isEmpty) &&
    (x.eng.state == .idle || x.eng.state == .error) && x.eng.queue.isEmpty && x.eng.job.isNone && tileDrained x

/-- A group has finished (R30). -/
def groupDone (s : State) (l : Launch) (p : Placed) : Bool :=
  p.started && !p.freezeAsked && (regionTiles p.origin l.r.w l.r.h).all fun t => tileDone (s.tile t)

/-- MBOX of a group that finished with an engine in error (R293, R343). -/
def groupMbox (s : State) (l : Launch) (p : Placed) : Option W64 :=
  ((regionTiles p.origin l.r.w l.r.h).find? fun t => (s.tile t).eng.state == .error).map fun t => mboxWord (s.tile t).eng

/-- Finish a group: its retire bit, its region, and the launch when it was the last (R30, R330, R343). A launch that is
ending discards its drained groups instead. -/
def finishGroup (s : State) (lnum rank : Nat) : State :=
  match s.launch? lnum with
  | none => s
  | some l =>
    if l.ending.isSome then s.settle lnum
    else match l.placed.find? (·.rank == rank) with
      | none => s
      | some p =>
        if !groupDone s l p then s
        else
          let fault : Option (Nat × W64) := match groupMbox s l p, l.engFault with
            | some m, some (r, n) => if rank < r then some (rank, m) else some (r, n)
            | some m, none => some (rank, m)
            | none, f => f
          let s := s.releaseRegion lnum p.origin l.r.w l.r.h
          let s := if l.r.gang then s.unmapWindows l.r.ctx rank l.r.w l.r.h else s
          let s := s.modLaunch lnum fun l =>
            { setRetired l rank with placed := l.placed.filter (·.rank != rank), engFault := fault }
          match s.launch? lnum with
          | some l => if finishedCount l = groupCount l.r then s.endLaunch lnum else s
          | none => s

/-- GROUP_FINISH (R30). -/
def execGroupFinish (lnum rank : Nat) (s : State) : Out State := .next (finishGroup s lnum rank)

/-- A write to CANCEL (R344): it names an admitted launch by its number. It is judged when the dispatcher cycle is over, since
it yields to the retire-bit store that finishes the launch in the same one. -/
def cancelLaunch (s : State) (v : W64) : State :=
  s.modLaunch v.toNat fun l => { l with cancelAt := l.cancelAt.or (some s.dcycle) }

/-- The cancellations that the dispatcher cycles before this one have brought, of launches that have not ended (R344). -/
def judgeCancels (s : State) : State :=
  (s.hub.launches.filter fun l => l.cancelAt.any fun c => decide (c < s.dcycle)).foldl
    (fun s l => s.stopLaunch l.lnum ⟨5, 0x14, 0, 0, 0, 0⟩) s

/-- What the dispatcher does when a dispatcher cycle is over: waits and cancellations are judged (R341, R344). -/
def closeCycle (s : State) : State := judgeCancels (s.judgeOld s.dcycle)

/-- CANCEL (R344). -/
def execCancel (v : W64) (s : State) : Out State := .next (s.accepts (cancelLaunch · v))

/-! ### Overrun and quantum -/

/-- Cycles a placed group has run, by the count of its first tile; its last cycle had CYCLE one less (R363). -/
def groupCycle (s : State) (p : Placed) : Nat := (s.tile (tileOf p.origin)).cycle

/-- Strands of the start mask that have not retired. -/
def liveStrands (s : State) (l : Launch) (p : Placed) : List (TileNo × Fin 8) :=
  (regionTiles p.origin l.r.w l.r.h).flatMap fun t =>
    let x := s.tile t
    let mask := (x.group.map Group.mask).getD 0
    (List.finRange 8).filterMap fun k =>
      if mask.getLsbD k.val && x.strands[k].run != RunState.retired then some (t, k) else none

/-- The group has run its declared duration without finishing (R363). -/
def overrunDue (s : State) (l : Launch) (p : Placed) : Bool :=
  0 < l.r.dur && p.started && !p.freezeAsked && l.ending.isNone && l.r.dur < groupCycle s p && !groupDone s l p

/-- Apply to a placed group of a launch. -/
def onPlaced (s : State) (lnum rank : Nat) (f : Launch → Placed → State) : State :=
  match s.launch? lnum with
  | none => s
  | some l => match l.placed.find? (·.rank == rank) with
    | none => s
    | some p => f l p

/-- OVERRUN (R363): OVRPEND in every live strand that has not received it. -/
def execOverrun (lnum rank : Nat) (s : State) : Out State :=
  .next <| onPlaced s lnum rank fun l p =>
    if !overrunDue s l p then s
    else (liveStrands s l p).foldl (fun s (t, k) => s.modStrand t k fun z =>
      if z.overran then z else { z with ovrpend := true }) s

/-- A strand of the group has received OVERRUN (R363, R364). -/
def groupOverran (s : State) (l : Launch) (p : Placed) : Bool :=
  (regionTiles p.origin l.r.w l.r.h).any fun t => (s.tile t).strands.toList.any (·.overran)

/-- OVERRUN_DEADLINE (R364): a group that has received OVERRUN and not finished 65,536 cycles later fails its launch, naming
the lowest-numbered live strand. -/
def execOverrunDeadline (lnum rank : Nat) (s : State) : Out State :=
  .next <| onPlaced s lnum rank fun l p =>
    if !overrunDue s l p || !groupOverran s l p || groupCycle s p ≤ l.r.dur + 65536 then s
    else match liveStrands s l p with
      | (t, k) :: _ => s.failGroup t 0x10 0x10B (epcMask (s.strandAt t k).r.pc) (w64 l.r.dur) k.val
      | [] => s.stopLaunch lnum ⟨4, 0x10, 0x10B, 0, w64 l.r.dur, 0⟩

/-- The first group of a pool must wait, and holds up every other (R332). -/
def poolBlocked (s : State) (pool : Option (Fin 32)) : Bool :=
  (firstOfPool s pool).any fun c => mustWait s pool c.1 c.2.1

/-- A releasable group of equal or higher priority from another queue waits for a region outside the standing ones (R345): it
finds none, or waits behind one that finds none. -/
def waitingRival (s : State) (l : Launch) : Bool :=
  s.hub.launches.any fun m => m.queue != l.queue && decide (l.prio ≤ m.prio) && inPool s none m &&
    (nextRanks m).any fun c => poolBlocked s none || mustWait s none m c.1

/-- QUANTUM_EXPIRY (R345, R372, R433): the group is frozen if a rival waits and a frame fits, else its quantum starts again. -/
def execQuantumExpiry (lnum rank : Nat) (s : State) : Out State :=
  .next <| onPlaced s lnum rank fun l p =>
    let q := (s.hub.queues[l.queue % 64]'(by omega)).quant
    if q = 0 || !p.started || p.freezeAsked || s.dcycle < p.quantumAt + q || l.r.latclass != 0 || l.r.standing then s
    else if groupDone s l p || !(regionTiles p.origin l.r.w l.r.h).all (tileAwake s) then s
    else if waitingRival s l && mayFreeze s none l p then askFreeze s none l p
    else s.modLaunch lnum fun l => { l with
      placed := l.placed.map fun q => if q.rank == rank then { q with quantumAt := s.dcycle } else q }

/-! ### Model slots -/

/-- Change a model slot. -/
def State.modSlot (s : State) (i : Fin 32) (f : Slot → Slot) : State :=
  s.modHub fun h => { h with slots := h.slots.set i (f h.slots[i]) }

/-- A write of 1 to LOAD while empty starts loading (R338). -/
def loadSlot (s : State) (i : Fin 32) : State :=
  if s.hub.slots[i].st = 0 then s.modSlot i fun x => { x with st := 1 } else s

/-- SLOT_LOAD (R338). -/
def execSlotLoad (i : Fin 32) (s : State) : Out State := .next (s.accepts (loadSlot · i))

/-- Places for standing regions, one after the other. -/
def slotPlaces (s : State) (w h n choice : Nat) : Option (List (Nat × Nat)) :=
  let r : Record := { nx := n, w := w, h := h }
  placeRanks r (fun o => regionFree s [] none w h o false) (originsFrom choice) (List.range n) []

/-- Power that the standing regions of a slot need (R427). -/
def slotPowerOf (x : Slot) : Nat := Config.slotPower (x.standing * x.w * x.h)

/-- The fields of a slot obey their limits, and its power can be reserved (R338, R427). -/
def slotFits (s : State) (x : Slot) : Bool :=
  decide (1 ≤ x.w) && decide (x.w ≤ 12) && decide (1 ≤ x.h) && decide (x.h ≤ 12) && decide (1 ≤ x.standing) &&
    decide (x.standing * (x.w * x.h) ≤ 28800) && decide (x.ctx < 256) && s.ctxValid x.ctx &&
    decide (s.power.preserve + slotPowerOf x + Config.pfloor.toNat ≤ s.power.pbudget)

/-- Tile `j` of a standing region takes the image's instruction and switch segments (R338). -/
def loadResident (b : List Byte) (j : Nat) (y : Tile) : Tile :=
  let e := 0x40 + 32 * j
  { y with
    imem := memWrite [] 0 ((b.drop (fld b e 4)).take (fld b (e + 4) 4))
    smem := memWrite [] 0 ((b.drop (fld b (e + 8) 4)).take (fld b (e + 12) 4)) }

/-- A slot's load succeeds (R338, R427): the image goes into each region, SSTART and SFREEZE are set, the power is reserved, and
STATE is 2. `n` indexes the free values. -/
def slotLoaded (i : Fin 32) (n : Nat) (b : List Byte) (ps : List (Nat × Nat)) (s : State) : State :=
  let x := s.hub.slots[i]
  let s := ps.foldl (fun s p => (List.range (x.w * x.h)).foldl
    (fun s j => s.modTile (tileOf (regionTile p.2 x.w j)) (loadResident b j)) s) s
  let s := s.modSlot i fun x => { x with
    st := 2, regions := ps.map (·.2), power := slotPowerOf x, loaded := b
    sstart := (Config.sstart n).toNat, sfreeze := (Config.sfreeze n).toNat }
  { s with power := { s.power with preserve := s.power.preserve + slotPowerOf x } }.push .allowanceRecompute

/-- A slot's load fails: it holds nothing, and STATE is 3 (R338). -/
def slotFailed (i : Fin 32) (s : State) : State := s.modSlot i fun x => { x with st := 3 }

/-- The image and the regions of a slot that is loading, when there are both. -/
def slotChoice (s : State) (x : Slot) (n : Nat) : Option (List Byte × List (Nat × Nat) × State) :=
  if !slotFits s x then none
  else match readImage s (s.viewOf x.ctx) x.image with
    | some (b, s) =>
      if imageOk b x.w x.h then (slotPlaces s x.w x.h x.standing (Config.origin n)).map fun ps => (b, ps, s) else none
    | none => none

/-- SLOT_LOAD_END (R338, R427): regions placed, the image loaded into each, power reserved; or STATE 3. The load of an image
behind a module that is down goes on (R407). -/
def execSlotLoadEnd (i : Fin 32) (s : State) : Out State :=
  let x := s.hub.slots[i]
  .next <| if x.st != 1 || (slotFits s x && imageHeld s (s.viewOf x.ctx) x.image) then s
  else
    let (n, s) := s.draw
    match slotChoice s x n with
    | some (b, ps, s) => (slotLoaded i n b ps s).irq 4
    | none => (slotFailed i s).irq 4

/-- A write of 1 to UNLOAD (R338, R427): accepted when no admitted launch names the slot. -/
def unloadSlot (s : State) (i : Fin 32) : State :=
  let x := s.hub.slots[i]
  if s.hub.launches.any (fun l => l.slot == some i.val) then s
  else if x.power = 0 then s.modSlot i fun x => { x with st := 0, regions := [], power := 0, loaded := [] }
  else
    let s := s.modSlot i fun x => { x with st := 0, regions := [], power := 0, loaded := [] }
    { s with power := { s.power with preserve := s.power.preserve - x.power } }.push .allowanceRecompute

/-- SLOT_UNLOAD (R338, R427). -/
def execSlotUnload (i : Fin 32) (s : State) : Out State := .next (s.accepts (unloadSlot · i))

end Sys2Proof.Machine
end

