-- ==== Sys2Proof/Machine/Freeze.lean ====
section
/-! DEFINITION. Freezing a group into its context's save area and restoring it (R370-R377, R400, R446): the layout of a
frame, its check, and what a restore brings back. -/
namespace Sys2Proof.Machine

/-! ### Words of the tile area -/

/-- GSTREAM or VSTREAM of a strand: a view of the tile's bindings (R16, R164). -/
def streamBits (x : Tile) (k : Fin 8) (vec : Bool) : W64 :=
  w64 ((List.finRange 8).foldl (fun a q => if x.binds[q] = some ⟨k, vec⟩ then a + 2 ^ q.val else a) 0)

/-- ESTAT (R357). -/
def estatWord (z : Strand) : W64 := w64 (b2n z.inh + b2n z.swpend * 2 + b2n z.ovrpend * 4 + b2n z.overran * 8)

/-- The run-state doubleword of a strand (R446). -/
def runWord (x : Tile) (z : Strand) : Nat :=
  (match z.run with
    | .notStarted => 0 | .active => 1 | .retired => 2 | .halted => 3) +
  b2n z.matrixWait * 8 + min 8 (z.r.yieldUntil - x.cycle) * 16 + b2n z.r.held.isSome * 2 ^ 8

/-- The held-key doubleword (R446). -/
def heldWord (h : Option Held) : Nat :=
  match h.bind Held.lastKey with
  | some (die, seq) => seq + die * 2 ^ 32 + 2 ^ 63
  | none => 0

/-- The sinj doubleword (R446). -/
def sinjWord (j : Option Sinj) : Nat :=
  match j with
  | some j => j.done + 2 ^ 63
  | none => 0

/-- The saved area of a strand (R374, R446), 0xA00 bytes. -/
def strandArea (x : Tile) (k : Fin 8) : List Byte :=
  let z := x.strands[k]
  let r := z.r
  let dw (v : W64) := leBytes 8 v.toNat
  r.g.toList.flatMap dw ++ z.v.toList.flatMap (fun v => leBytes 64 v.toNat) ++ z.m.toList.flatMap dw ++
  [r.pc, r.lc[0], r.lc[1], r.lb[0], r.lb[1], r.le[0], r.le[1], z.rmode.setWidth 64, z.fflags.setWidth 64,
    z.fmt8.setWidth 64, streamBits x k false, streamBits x k true, z.sstat, z.epc, z.ecause, z.eval, z.etvec,
    estatWord z, r.issued].flatMap dw ++
  leBytes 8 (runWord x z) ++ leBytes 8 (heldWord r.held) ++ leBytes 8 (sinjWord z.sinj) ++ List.replicate 16 0

/-- A queue binding byte (R446). -/
def bindByte (b : Option Bind) : Byte :=
  match b with
  | some b => BitVec.ofNat 8 (b.strand.val + b2n b.vec * 64 + 128)
  | none => 0

/-- A saved queue (R446), 0x90 bytes. -/
def queueArea (q : List QEntry) : List Byte :=
  let pad (n : Nat) (l : List Byte) := l ++ List.replicate (n - l.length) 0
  pad 128 (q.flatMap fun e => leBytes 8 e.word.toNat) ++
  pad 16 (q.map fun e => BitVec.ofNat 8 (b2n e.h + b2n e.e * 2 + e.pos * 4 + 128))

/-- A word has entered its output queue, the words before it having done so (R165). -/
def hasEntered (x : Tile) (e : QEntry) : Bool := decide (e.from_ ≤ x.cycle) && e.pending.isNone

/-- The words of an output queue that have entered it. -/
def enteredWords (x : Tile) (k : Fin 8) : List QEntry := x.outQ[k].takeWhile (hasEntered x)

/-- The words reserved on an output queue that have not entered it (R165, R446). -/
def reservedWords (x : Tile) (k : Fin 8) : List QEntry := x.outQ[k].dropWhile (hasEntered x)

/-- Bytes 0x5000-0x50FF (R446). -/
def controlArea (x : Tile) : List Byte :=
  leBytes 8 x.cycle ++ leBytes 8 x.rotation.val ++ x.binds.toList.map bindByte ++
  (List.finRange 8).map (fun k => BitVec.ofNat 8 (reservedWords x k).length) ++
  leBytes 8 (min 24 (x.dividerUntil - x.cycle)) ++ List.replicate 216 0

/-- A device-internal range: bytes whose arrangement is not architectural (R446). -/
def internalArea (n off len : Nat) : List Byte := (List.range len).map fun i => Config.internalByte n (off + i)

/-- Lane flits of a port (R400), 0x180 bytes. -/
def laneArea (fs : List Flit) : List Byte :=
  let pad (n : Nat) (l : List Byte) := l ++ List.replicate (n - l.length) 0
  pad 0x180 (pad 0x150 (leBytes 16 fs.length ++ fs.flatMap fun f => leBytes 32 f.data.toNat) ++
    fs.map fun f => BitVec.ofNat 8 (b2n f.h + b2n f.e * 2))

/-- One step of the CRC-64 with the ECMA-182 polynomial, most significant bit first (R446). -/
def crcBit (c : Nat) : Nat :=
  if bit c 63 then (c * 2 % 2 ^ 64) ^^^ 0x42F0E1EBA9EA3693 else c * 2 % 2 ^ 64

/-- The CRC-64 of bytes (R446). -/
def crc64 (bs : List Byte) : Nat :=
  bs.foldl (fun c b => (List.range 8).foldl (fun c _ => crcBit c) (c ^^^ (b.toNat * 2 ^ 56))) 0

/-- Bytes 0x0000-0x7FFF of a tile's area (R374, R446); `lanes` gives the flits that stand in each
port's lane (R400). -/
def tileArea (n : Nat) (x : Tile) (lanes : Nat → List Flit) : List Byte :=
  let body := (List.finRange 8).flatMap (strandArea x) ++ controlArea x ++
    x.inQ.toList.flatMap queueArea ++ (List.finRange 8).flatMap (fun k => queueArea (enteredWords x k)) ++
    internalArea n 0x5A00 0x1600 ++
    x.bars.toList.flatMap (fun b => leBytes 8 (barWord b false) ++ leBytes 8 (barWord b true)) ++
    x.side.toList.flatMap (fun e => leBytes 8 (sideWord e)) ++
    (x.sideOrder.map fun i => BitVec.ofNat 8 i.val) ++ List.replicate (128 - x.sideOrder.length) 0xFF ++
    internalArea n 0x7480 0x400 ++ (List.range 4).flatMap (fun p => laneArea (lanes p)) ++ List.replicate 0x178 0
  body ++ leBytes 8 (crc64 body)

/-! ### Scanning a tile area in -/

/-- A doubleword of an area. -/
def areaWord (b : List Byte) (o : Nat) : Nat := fld b o 8

/-- A strand as its 0xA00 bytes say (R446). What is not among them is kept from `z`: the result of an access held in
translation, and the operands of a running sinj. -/
def scanStrand (b : List Byte) (cycle : Nat) (z : Strand) : Strand :=
  let w (o : Nat) : W64 := w64 (areaWord b o)
  let run := areaWord b 0x9D8
  let key := areaWord b 0x9E0
  let estat := areaWord b 0x9C8
  let held : Option Held := if bit run 8 then z.r.held.map fun h => { h with
      lastKey := if bit key 63 then some (bits key 32 8, bits key 0 32) else none } else none
  { z with
    r := { z.r with
      g := Vector.ofFn fun i => w (8 * i.val)
      pc := w 0x940, lc := #v[w 0x948, w 0x950], lb := #v[w 0x958, w 0x960], le := #v[w 0x968, w 0x970]
      issued := w 0x9D0, yieldUntil := cycle + bits run 4 4, held := held }
    v := Vector.ofFn fun i => BitVec.ofNat 512 (fld b (0x100 + 64 * i.val) 64)
    m := Vector.ofFn fun i => w (0x900 + 8 * i.val)
    rmode := (w 0x978).setWidth 2, fflags := (w 0x980).setWidth 5, fmt8 := (w 0x988).setWidth 8
    sstat := w 0x9A0, epc := w 0x9A8, ecause := w 0x9B0, eval := w 0x9B8, etvec := w 0x9C0
    inh := bit estat 0, swpend := bit estat 1, ovrpend := bit estat 2, overran := bit estat 3
    run := (match bits run 0 3 with
      | 0 => .notStarted | 1 => .active | 2 => .retired | _ => .halted)
    matrixWait := bit run 3
    sinj := if bit (areaWord b 0x9E8) 63 then z.sinj.map fun j => { j with done := bits (areaWord b 0x9E8) 0 13 } else none }

/-- The binding a byte says (R446). -/
def scanBind (b : Nat) : Option Bind := if bit b 7 then some ⟨fin8 (b % 8), bit b 6⟩ else none

/-- The words of a queue as its 0x90 bytes say (R446), present from cycle `c`. -/
def scanQueue (b : List Byte) (c : Nat) : List QEntry :=
  (List.range 16).filterMap fun i =>
    let f := fld b (128 + i) 1
    if bit f 7 then some
      { word := w64 (areaWord b (8 * i)), h := bit f 0, e := bit f 1, pos := bits f 2 2, from_ := c, pending := none }
    else none

/-- A stage barrier as its two words say (R173, R446). -/
def scanBarrier (lo hi : Nat) : Barrier :=
  { count := bits lo 0 16, remain := bits lo 16 16, phase := bit lo 32, bytes := (w64 hi).toInt }

/-- A side-information entry as its word says (R180). -/
def scanSide (w : Nat) : SideEntry :=
  { flow := bits w 0 16, seq := bits w 16 16, addr := bits w 32 14, len := bits w 46 12, valid := bit w 63 }

/-- Scan a tile area in (R376 step 4, R430, R446): strands, control area, queues, barriers and side table as its bytes say;
the device-internal ranges as the tile's record `x` has them. -/
def scanTile (b : List Byte) (x : Tile) : Tile :=
  let part (o n : Nat) : List Byte := (b.drop o).take n
  let c := areaWord b 0x5000
  { x with
    cycle := c
    rotation := fin8 (areaWord b 0x5008)
    strands := Vector.ofFn fun k => scanStrand (part (0xA00 * k.val) 0xA00) c x.strands[k]
    binds := Vector.ofFn fun k => scanBind (fld b (0x5010 + k.val) 1)
    dividerUntil := c + bits (areaWord b 0x5020) 0 5
    inQ := Vector.ofFn fun k => scanQueue (part (0x5100 + 0x90 * k.val) 0x90) c
    outQ := Vector.ofFn fun k => scanQueue (part (0x5580 + 0x90 * k.val) 0x90) c ++ reservedWords x k
    bars := Vector.ofFn fun i => scanBarrier (areaWord b (0x7000 + 16 * i.val)) (areaWord b (0x7008 + 16 * i.val))
    side := Vector.ofFn fun i => scanSide (areaWord b (0x7200 + 8 * i.val))
    sideOrder := (List.range 64).filterMap fun j =>
      let n := fld b (0x7400 + j) 1
      if h : n < 64 then some ⟨n, h⟩ else none }

/-- Every result of the instructions that have issued is written (R373 step 2). -/
def writtenRegs (c : Nat) (r : Regs) : Regs :=
  { r with gReady := r.gReady.map (min c), resultsFrom := min c r.resultsFrom, accessFrom := min c r.accessFrom }

/-- See `writtenRegs`: a tile whose clock has stopped, its words pushed; read-ahead data is discarded (R304). -/
def writtenTile (x : Tile) : Tile :=
  { x with
    strands := x.strands.map fun z => { z with
      r := writtenRegs x.cycle z.r, vReady := z.vReady.map (min x.cycle), mReady := z.mReady.map (min x.cycle) }
    outQ := x.outQ.map fun q => q.map fun e => { e with from_ := min x.cycle e.from_ }
    eng := { x.eng with r := writtenRegs x.cycle x.eng.r, buf := [], used := 0, ahead := [] } }

/-! ### Segments -/

/-- Local-memory addresses a save mask covers (R375). -/
def segSaved (mask a : Nat) : Bool := bit mask (a / 0x10000) && a < 0x80000

/-- Accumulator addresses a save mask covers (R375). -/
def accSaved (mask a : Nat) : Bool := bit mask (8 + a / 0x4000) && a < 0x10000

/-- Address of frame `f` of a save area (R374). -/
def frameAddr (s : State) (area f : Nat) : Nat :=
  area + 0x4000 + frameSize s area * f

/-- Address of tile area `i` of a frame (R374). -/
def areaAddr (frame i : Nat) : Nat := frame + 0x1000 + 0x98000 * i

/-- Write bytes into a range of HBM line by line, as a freeze does (R373 step 4). -/
def State.hbmFill (s : State) (pa : Nat) (bs : List Byte) : State :=
  (List.range ((bs.length + 127) / 128)).foldl (fun s i =>
    s.lineWrite (pa + 128 * i) ((bs.drop (128 * i)).take 128)) s

/-- The 128-byte lines of a local or accumulator memory that a mask covers, copied to a frame. -/
def State.saveRows (s : State) (m : Mem) (covered : Nat → Bool) (rows at_ : Nat) : State :=
  (List.range rows).foldl (fun s i =>
    if covered (128 * i) then s.lineWrite (at_ + 128 * i) (memBytes m (128 * i) 128) else s) s

/-- The lines of a frame that a mask covers, written over a memory. -/
def loadRows (s : State) (m : Mem) (covered : Nat → Bool) (rows from_ : Nat) : Mem :=
  (List.range rows).foldl (fun m i =>
    if covered (128 * i) then memWrite m (128 * i) (s.hbmBytes (from_ + 128 * i) 128) else m) m

/-- A line of a frame that a mask covers is marked failed. -/
def rowsFailed (s : State) (covered : Nat → Bool) (rows from_ : Nat) : Bool :=
  s.failedLines.any fun l => decide (from_ / 128 ≤ l) && decide (l < from_ / 128 + rows) && covered (128 * (l - from_ / 128))

/-- The frame header (R374). -/
def frameHeader (l : Launch) (rank : Nat) : List Byte :=
  let g := groupOf l.r rank
  leBytes 8 l.lnum ++ leBytes 8 rank ++ leBytes 2 g.1 ++ leBytes 2 g.2.1 ++ leBytes 4 g.2.2 ++
    leBytes 8 (l.r.w + l.r.h * 2 ^ 8 + l.r.saveMask * 2 ^ 16) ++ List.replicate 0xFE0 0

/-! ### Freezing -/

/-- Flits in the lane to port `p` of a tile, behind those that its port buffer has taken (R397, R400). -/
def laneFlits (s : State) (t : TileNo) (p : Nat) : List Flit :=
  match linkOf s t p false with
  | .lane c i => (s.cache c).sels[i].path
  | _ => []

/-- The frames that the freeze of a group may use, in order: those that the latency launch it freezes for has reserved in its
save area; then the free ones (R335, R336, R372). -/
def framesFor (s : State) (l : Launch) (p : Placed) : List Nat :=
  (match p.by_.bind s.launch? with
    | some m => (m.reserved.filter fun f => f.1 == l.area).map (·.2)
    | none => []) ++ freeFrames s l.area l.r.w l.r.h

/-- No lane into a group's region holds more than the ten flits that a frame takes: others have still to reach the port buffer
(R397, R400). -/
def lanesFit (s : State) (l : Launch) (p : Placed) : Bool :=
  (regionTiles p.origin l.r.w l.r.h).all fun t => (List.range 4).all fun q => decide ((laneFlits s t q).length ≤ 10)

/-- The flits in the lane to each port of a region's tiles. -/
def regionLanes (s : State) (ts : List TileNo) : List (Nat × List Flit) :=
  ts.zipIdx.flatMap fun (t, i) => (List.range 4).map fun q => (4 * i + q, laneFlits s t q)

/-- Save a group into a frame and release its region (R373 steps 4 and 5, R374). -/
def saveGroup (s : State) (l : Launch) (p : Placed) (f : Nat) (lanes : List (Nat × List Flit)) : State :=
  let ts := regionTiles p.origin l.r.w l.r.h
  let frame := frameAddr s l.area f
  let tiles := ts.map fun t => writtenTile (s.tile t)
  let s := s.frameMark l.area f true
  let s := s.hbmFill frame (frameHeader l p.rank)
  let s := tiles.zipIdx.foldl (fun s (x, i) =>
    let (n, s) := s.draw
    let a := areaAddr frame i
    let s := s.hbmFill a (tileArea n x fun q => (lanes.lookup (4 * i + q)).getD [])
    let s := s.saveRows x.lm (segSaved l.r.saveMask) 0x1000 (a + 0x8000)
    s.saveRows x.acc (accSaved l.r.saveMask) 0x200 (a + 0x88000)) s
  let s := s.releaseRegion l.lnum p.origin l.r.w l.r.h
  let s := s.modLaunch l.lnum fun l => { l with
    placed := l.placed.filter (·.rank != p.rank)
    frozen := l.frozen ++ [⟨p.rank, f, tiles, lanes⟩] }
  s.modHub fun h => { h with launches := h.launches.map fun m =>
    { m with reserved := m.reserved.filter (· != (l.area, f)) } }

/-- Save groups that freeze together, each into its frame; the flits of every lane are taken before any region is
released (R337, R400). -/
def saveAll (s : State) (l : Launch) (ps : List Placed) (fs : List Nat) : State :=
  ((ps.map fun p => (p, regionLanes s (regionTiles p.origin l.r.w l.r.h))).zip fs).foldl
    (fun s x => saveGroup s l x.1.1 x.2 x.1.2) s

/-- Groups that were asked to freeze run on, because no frame is left (R372). -/
def runOn (s : State) (l : Launch) (ps : List Placed) : State :=
  let s := ps.foldl (fun s p => (regionTiles p.origin l.r.w l.r.h).foldl
    (fun s t => rerequest (s.modTile t fun x => { x with running := true, stopped := false, unmapped := false }) t) s) s
  let back (q : Placed) : Placed :=
    if ps.contains q then { q with freezeAsked := false, quantumAt := s.dcycle, unmapped := none, by_ := none } else q
  s.modLaunch l.lnum fun l => { l with placed := l.placed.map back }

/-- The clocks of a region's die run, or stand for the freeze alone (R378). -/
def regionAwake (s : State) (l : Launch) (p : Placed) : Bool :=
  (regionTiles p.origin l.r.w l.r.h).all fun t => !(s.die (tileDie t)).halted

/-- A word with an uncorrectable error stands where the scan-out of a group reads (R366). -/
def scanOutBad (s : State) (l : Launch) (p : Placed) : Bool :=
  (regionTiles p.origin l.r.w l.r.h).any fun t =>
    let x := s.tile t
    (x.badLm.any fun w => segSaved l.r.saveMask (4 * w)) || x.badAcc.any fun w => accSaved l.r.saveMask (4 * w)

/-- FREEZE (R373): a group that was asked to freeze is unmapped, with its gang, once they are drained, and saved once the
accesses translated before have completed; an uncorrectable error that the scan-out meets fails the launch (R366). -/
def execFreeze (lnum rank : Nat) (s : State) : Out State :=
  .next <| onPlaced s lnum rank fun l p =>
    let ps := gangOf l p
    let fs := framesFor s l p
    if l.ending.isSome || !ps.all (fun q => q.freezeAsked && regionAwake s l q) then s
    else if fs.length < ps.length then runOn s l ps
    else if ps.any (·.unmapped.isNone) then (if ps.all (groupIdle s l) then ps.foldl (unmapGroup l) s else s)
    else if !ps.all (fun q => groupQuiet s l q && lanesFit s l q) then s
    else if ps.any (scanOutBad s l) then s.stopLaunch lnum ⟨4, 0x13, 0x0D, 0, 0, 0⟩
    else saveAll s l ps fs

/-! ### Restoring -/

/-- The check of a tile area's bytes holds (R446). -/
def areaSound (b : List Byte) : Bool := areaWord b 0x7FF8 == crc64 (b.take 0x7FF8)

/-- A tile area can be restored: no line that is read of it, its state block and what the save mask covers, is marked failed
(R366, R375), and its check holds (R446). -/
def areaOk (s : State) (mask a : Nat) : Bool :=
  !s.failedIn a 0x8000 && !rowsFailed s (segSaved mask) 0x1000 (a + 0x8000) &&
    !rowsFailed s (accSaved mask) 0x200 (a + 0x88000) && areaSound (s.hbmBytes a 0x8000)

/-- The side entries whose range does not lie wholly in saved segments are invalid (R376 step 5). -/
def keepSide (mask : Nat) (x : Tile) : Tile :=
  let ok (e : SideEntry) : Bool :=
    (List.range (e.len / 2048 + 2)).all fun i => segSaved mask (min (e.addr * 32 + 0x10000 * i) (e.addr * 32 + e.len * 32 - 1))
  sideDrop (fun i => !ok x.side[i]) x

/-- Strand handles become invalid, and the engine's valid ones are to be taken again (R376 step 6, R284). -/
def dropHandles (x : Tile) : Tile :=
  let valid := (List.finRange 8).filter fun i => x.eng.r.h[i].valid
  { x with
    strands := Vector.ofFn fun k =>
      let z := x.strands[k]
      { z with r := { z.r with h := Vector.ofFn fun i => { z.r.h[i] with valid := false } } }
    eng := { x.eng with retake := valid }
    tlb := [] }

/-- A tile as a restore builds it, from the image, the frame and the device-internal state (R376 steps 1-6). Its memories have
been written anew and its residues are recomputed (R374), and no one waits at it yet. -/
def restoreTile (s : State) (l : Launch) (img : List Byte) (area : Nat) (g : Group) (resident : Bool) (old : Tile)
    (saved : Tile) : Tile :=
  let fresh := loadTile img resident { old with group := some g }
  let mask := l.r.saveMask
  let scanned := scanTile (s.hbmBytes area 0x8000) saved
  let x := { scanned with
    group := some { g with mask := (saved.group.map Group.mask).getD 0 }
    imem := fresh.imem, smem := fresh.smem, running := false, stopped := false, unmapped := false
    lm := loadRows s fresh.lm (segSaved mask) 0x1000 (area + 0x8000)
    acc := loadRows s [] (accSaved mask) 0x200 (area + 0x88000)
    badLm := [], badAcc := [], accResidue := [], bankWait := [], amoAt := []
    mx := { scanned.mx with accWait := [] } }
  dropHandles (keepSide mask x)

/-- Put the saved lane flits of a tile back: CREDIT is 12 less the flits in the lane and the port buffer (R400). -/
def refillLanes (s : State) (lanes : List (Nat × List Flit)) (t : TileNo) (i : Nat) : State :=
  (List.range 4).foldl (fun s p =>
    match linkOf s t p false with
    | .lane c j =>
      let fs := ((lanes.lookup (4 * i + p)).getD []).map fun f => { f with from_ := 0 }
      let held := (portBuf (s.tile t).sw p).buf.length
      s.modCache c fun x => { x with sels := x.sels.set j { x.sels[j] with path := fs, credit := 12 - (fs.length + held) } }
    | _ => s) s

/-- Resolve one held access against a reply list (R371): the held state, the list without the consumed entry, and
whether it is fatal. -/
def resolveHeld (h : Option Held) (list : List Nat) : Option Held × List Nat × Bool :=
  match h with
  | some x =>
    let again : Option Held := some { x with phase := .walk, oldKey := x.lastKey, due := 0 }
    match list.find? fun w => x.lastKey == some (bits w 32 8, bits w 0 32) with
    | some w => (if bit w 41 then h else again, list.filter (· != w), bit w 41)
    | none => (again, list, false)
  | none => (none, list, false)

/-- Resolve the held accesses of a restored tile (R371, R376 step 8). -/
def resolveTile (s : State) (t : TileNo) (list : List Nat) : State × List Nat :=
  (((List.finRange 8).map (HartId.strand t)) ++ [HartId.engine t]).foldl (fun (s, list) h =>
    let (held, list, fatal) := resolveHeld (s.regsOf h).held list
    let s := s.setHeld h held
    (if fatal then failHeld s h else s, list)) (s, list)

/-- Keys of accesses that other frozen groups of a context still hold (R371). -/
def frozenKeys (s : State) (ctx : Nat) : List (Nat × Nat) :=
  s.hub.launches.flatMap fun l => if l.r.ctx != ctx then [] else
    l.frozen.flatMap fun f => f.tiles.flatMap fun x =>
      (x.strands.toList.map (·.r.held) ++ [x.eng.r.held]).filterMap fun h => match h with
        | some x => x.lastKey
        | none => none

/-- The first tile area of a frozen group that cannot be restored, or the header of its save area, when that cannot be read. -/
def badArea (s : State) (l : Launch) (p : Placed) : Option Nat :=
  match l.frozen.find? (·.rank == p.rank) with
  | none => none
  | some f =>
    if s.failedIn (l.area + 8) 8 then some (l.area + 8)
    else ((List.range (l.r.w * l.r.h)).map (areaAddr (frameAddr s l.area f.frame))).find? fun a => !areaOk s l.r.saveMask a

/-- Restore one frozen group onto its new region (R376 steps 1-7). -/
def restoreOne (img : List Byte) (l : Launch) (s : State) (p : Placed) : State :=
  match l.frozen.find? (·.rank == p.rank) with
  | none => s
  | some f =>
    let frame := frameAddr s l.area f.frame
    let ts := regionTiles p.origin l.r.w l.r.h
    let s := (ts.zip f.tiles).zipIdx.foldl (fun s ((t, x), i) =>
      s.modTile t fun old =>
        restoreTile s l img (areaAddr frame i) (groupAt l p.rank p.origin i) l.r.standing old x) s
    let s := if l.r.gang then joinSeams s l p.rank p.origin else s
    let s := ts.zipIdx.foldl (fun s (t, i) => refillLanes s f.lanes t i) s
    (s.modLaunch l.lnum fun l => { l with
      frozen := l.frozen.filter (·.rank != p.rank)
      placed := l.placed.map fun q => if q.rank == p.rank then { q with restoring := false } else q }).frameMark
      l.area f.frame false

/-- The held accesses of restored groups are resolved, the entries that match no saved access are discarded, and requests
are made again to the sampler of the new die (R371, R376 step 8, R314). -/
def resolveGroups (s : State) (l : Launch) (ps : List Placed) : State :=
  let area := l.area
  let ts := ps.flatMap fun p => regionTiles p.origin l.r.w l.r.h
  let (s, list) := ts.foldl (fun (s, list) t => resolveTile s t list) (s, replyList s area)
  let keys := frozenKeys s l.r.ctx
  let s := s.setReplyList area (list.filter fun w => keys.contains (bits w 32 8, bits w 0 32))
  ts.foldl rerequest s

/-- RESTORE (R376): a frozen group, with its whole gang, goes on where it has been placed. -/
def execRestore (lnum rank : Nat) (s : State) : Out State :=
  .next <| match s.launch? lnum with
  | none => s
  | some l =>
    let ps := (startSet l rank).filter (·.restoring)
    if ps.isEmpty || l.ending.isSome || (!l.r.standing && imageHeld s l.view l.r.image) then s
    else
      match ps.findSome? (badArea s l) with
      | some a => s.stopLaunch lnum ⟨4, 0x13, 0x0D, 0, w64 a, 0⟩
      | none =>
        let (img, s) := imageFor s l
        let s := resolveGroups (ps.foldl (restoreOne img l) s) l ps
        match s.launch? lnum with
        | some l => if l.ending.isSome then s
          else startClocks s l (l.placed.filter fun q => ps.any (·.rank == q.rank))
        | none => s

end Sys2Proof.Machine
end

