-- ==== Sys2Proof/Machine/Target.lean ====
section
/-! DEFINITION. Performing an access at its physical target (R220-R223, R259): HBM at its home slice, tile windows,
host memory over its UCIe module (R407). Control blocks stand in Registers.lean. -/
namespace Sys2Proof.Machine

/-- The wake request of an access that waits at the edge of a tile's cluster, once for each access (R432). -/
def wakeTile (s : State) (t : TileNo) (who : Waiter) : State :=
  let k := clusterOf (tileIdx t)
  if (s.die (tileDie t)).clusters[k].asked.contains who then s
  else (wakeCluster s (tileDie t) k).modDie (tileDie t) fun x => { x with
    clusters := x.clusters.set k { x.clusters[k] with asked := x.clusters[k].asked ++ [who] } }

/-- An access that waits at a halted die voids the promises of its group's launch (R378). -/
def voidWaiter (s : State) (who : Waiter) : State :=
  let t : Option TileNo := match who with
    | .access (.strand t _) _ => some t
    | .access (.engine t) _ => some t
    | .engine t => some t
    | _ => none
  match t.bind fun t => (s.tile t).group with
  | some g => s.modLaunch g.lnum fun l => { l with voided := true, reserved := [] }
  | none => s

/-- An access of `who` reaches a tile (R223): it waits at the edge of a halted die or of a cluster that is not
ACTIVE (R378, R432), and fails at a tile that holds no group; `act` is what it does there. One that waits at an unmapped
tile fails (R373). A bad word that it meets fails it and the owning group's launch (R366). -/
def reachTile (s : State) (t : TileNo) (who : Waiter) (act : Tile → Res × Tile) : Res × State :=
  let d := s.die (tileDie t)
  if d.halted then (.wait, voidWaiter s who)
  else if d.clusters[clusterOf (tileIdx t)].st ≠ 0 then (.wait, wakeTile s t who)
  else if (s.tile t).group.isNone then (.fail, s)
  else match act (s.tile t) with
    | (.poison, x) => (.fail, (s.setTile t x).failGroup t 0x13 0x0D 0 0 0)
    | (.wait, x) => if x.unmapped then (.fail, s.setTile t (withdrawn who x)) else (.wait, s.setTile t x)
    | (r, x) => (r, s.setTile t x)

/-- The barrier word at a window offset: +0 or +8 (R173). -/
def barrierWord (off : Nat) : Option Bool := if 0xD0000 ≤ off && off < 0xD0200 then some (bit off 3) else none

/-- An event's store to a barrier word of a running tile takes its place among the events of the cycle (R172). -/
def inPlace (s : State) (t : TileNo) (off : Nat) (wr : Option (List Byte)) (who : Waiter) : Bool :=
  match who, wr, barrierWord off with
  | .event _, some _, some high => !(s.tile t).running || s.todo.head? == some (.windowEnd high)
  | _, _, _ => true

/-- An access to a tile's window (R223). -/
def accessTile (s : State) (t : TileNo) (off n : Nat) (wr : Option (List Byte)) (who : Waiter) : Res × State :=
  if inPlace s t off wr who then reachTile s t who (windowAccess off n wr who) else (.wait, s)

/-- A delivery that counts against barrier `b` reaches the local memory of a tile (R301): it carries the launch number of
its job, and a tile that holds no group of that launch refuses it; the count follows its last byte. -/
def deliverTo (s : State) (u : TileNo) (off : Nat) (bs : List Byte) (b : Fin 32) (lnum : Nat) (who : Waiter) :
    Res × State :=
  reachTile s u who fun x =>
    if (x.group.map (·.lnum)) != some lnum then (.fail, x)
    else match windowAccess off bs.length (some bs) who x with
      | (.ok r, x) => (.ok r, modBar b (barDeliver bs.length) x)
      | r => r

/-- The module that carries an access to host memory is up (R407). -/
def hostUp (s : State) (h : Nat) : Bool := bit s.hub.up (h / 4096 % 4)

/-- Read `n` bytes at a physical address: HBM, a tile window or host memory; anything else fails (R221). -/
def targetRead (s : State) (pa n : Nat) (who : Waiter) : Res × State :=
  if inHbm pa n then (if s.failedIn pa n then .poison else .ok (s.hbmBytes pa n), s)
  else if paRange pa = 0xF then
    if hostUp s pa then (.ok (s.hostBytes pa n), s) else (.wait, s)
  else match windowTile pa with
    | some t => accessTile s t (windowOff pa) n none who
    | none => (.fail, s)

/-- Write bytes at a physical address for a context. -/
def targetWrite (s : State) (pa : Nat) (bs : List Byte) (ctx : Nat) (who : Waiter) : Res × State :=
  if inHbm pa bs.length then
    if s.failedIn pa bs.length then (.poison, s) else (.ok [], s.hbmWrite pa bs ctx)
  else if paRange pa = 0xF then
    if hostUp s pa then (.ok [], s.hostStore pa bs) else (.wait, s)
  else match windowTile pa with
    | some t => accessTile s t (windowOff pa) bs.length (some bs) who
    | none => (.fail, s)

/-- The barrier a window write delivers to: the tile, for a local-memory offset (R301). -/
def deliveryTile (pa : Nat) : Option TileNo :=
  match windowTile pa with
  | some t => if windowOff pa < lmSize then some t else none
  | none => none

end Sys2Proof.Machine
end

