-- ==== Sys2Proof/Machine/Global.lean ====
section
/-! DEFINITION. Global accesses: translation (R234, R235), issue (R222, R242, R243, R261, R263), handles (R245-R248),
fences (R252). Performing an access and its completion stand in Complete.lean. -/
namespace Sys2Proof.Machine

/-! ### Order -/

/-- An access writes (R262). A compare-and-swap counts as one, whether it writes or not. -/
def accWrites (a : Access) : Bool :=
  match a.kind with
  | .load => false
  | _ => true

/-- Access `a` is performed before the later access `b` (R261-R263, R268). -/
def mustPrecede (a b : Access) : Bool :=
  if !a.relaxed || !b.relaxed || a.acquire then true
  else if isHbm a.pa && isHbm b.pa then
    homeSlice a.pa == homeSlice b.pa ||
      (accWrites a && accWrites b && (homeSlice a.pa).1 == (homeSlice b.pa).1)
  else if paRange a.pa = 8 && paRange b.pa = 8 then
    (accWrites a && accWrites b && bits a.pa 28 8 == bits b.pa 28 8) ||
      (windowTile a.pa == windowTile b.pa &&
        (let x := windowOff a.pa
         let y := windowOff b.pa
         if x < lmSize && y < lmSize then bankOf x == bankOf y
         else if x / 0x10000 == 8 && y / 0x10000 == 8 then x / 0x1000 == y / 0x1000
         else x == y))
  else if paRange a.pa = 0xF && paRange b.pa = 0xF then
    accWrites a && accWrites b && a.pa / 4096 % 4 == b.pa / 4096 % 4
  else if paRange a.pa = 0xA && paRange b.pa = 0xA then a.pa / 2 ^ 32 == b.pa / 2 ^ 32
  else paRange a.pa == paRange b.pa && a.pa / 2 ^ 24 == b.pa / 2 ^ 24

/-- The accesses that may be performed next, the earlier ones before them being unrelated; one that is performed and
withheld stands in nobody's way (R262, R412). -/
def eligible (l : List Access) : List Access :=
  (l.zipIdx.filter fun (b, i) => (l.take i).all fun a => a.post.isSome || !mustPrecede a b).map (·.1)

/-! ### Issue -/

/-- Translate for the running hart: the physical address, or none when the access is now held (R234, R235). A
management hart uses physical addresses (R424). -/
def translate (va : W64) (wr : Bool) (s : State) : Option Nat × State :=
  match s.hart with
  | .mgmt _ => (some va.toNat, s)
  | h =>
    match tlbFind s.myTile (s.ctxOf h) va wr with
    | some e => (some (tlbPa e va), s.modMyTile fun x => tlbTouch x e)
    | none => (none, s.holdWalk h va wr)

/-- A global access may issue (R115, R243, R261, R263): a relaxed one with fewer than 16 outstanding; an unmarked or a
releasing one only when none is. -/
def globalReady (s : State) (rx rel : Bool) : Bool :=
  if rx && !rel then accessOpen s && decide (s.regs.accesses.length < 16) else drained s

/-- Words an instruction pops, in operand order (R165). -/
def popsOf (s : State) (n : Need) : List (Fin 8 × Bool) :=
  (n.gs.filterMap fun r => (boundTo s false r).map (·, false)) ++
    (n.vs.filterMap fun r => (boundTo s true r).map (·, true))

/-- Pop the words of an instruction at issue (R165, R166): the words, by queue, and the state after. -/
def popAll (s : State) (l : List (Fin 8 × Bool)) : List (Fin 8 × List QEntry) × State :=
  let r := l.foldl (fun (p : Bool × List (Fin 8 × List QEntry) × State) q =>
    let n := if q.2 then 8 else 1
    (true, p.2.1 ++ [(q.1, (p.2.2.myTile.inQ[q.1]).take n)], (popWords p.2.2 p.1 q.2 q.1 n).2)) (false, [], s)
  r.2

/-- Issue an access of `n` bytes at `pa` (R222, R243). To HBM, or for a hart that is no strand, the instruction completes
and the access goes on; otherwise it holds the strand until it completes. Pops take effect at issue (R165). `s0` is the
state before any pop. `rx` is false for an access that is unmarked in any case. The access reaches its target at a free,
finite time (R275). -/
def startAccess (nd : Need) (rx acq rel : Bool) (va : W64) (pa n : Nat) (kind : AccKind) (dst : Option (Bool × Reg))
    (hd : Option (Fin 8)) (s0 : State) : State :=
  let block := hartIsStrand s0.hart && !inHbm pa n
  let relaxed := rx && !block
  if !globalReady s0 relaxed rel then s0
  else
    let (id, s) := s0.draw
    let (dest, s) := match dst with
      | some (vec, d) => reserve vec d id s
      | none => (.none, s)
    let a : Access :=
      { id := id, pc := s0.regs.pc, va := va, pa := pa, n := n, kind := kind, dest := dest, relaxed := relaxed
        acquire := acq, blocking := block, handle := hd, ctx := s0.ctxOf s0.hart, due := s0.now + Config.delay id
        sstat := s0.me.sstat }
    let (words, s) := popAll s (popsOf s0 nd)
    let a := if block then { a with popped := words } else a
    let s := s.modRegs fun r => { r with accesses := r.accesses ++ [a] }
    if block then s else complete s

/-- A management hart's access meets a frame of another key index than 0 (R228, R424). DEDUCED, log 34. -/
def foreignFrame (s : State) (pa : Nat) : Bool :=
  match s.hart with
  | .mgmt _ => isHbm pa && s.keyOf pa != 0
  | _ => false

/-- An access through translation (R242): alignment, then the canonical form, then the page. -/
def globalAccess (nd : Need) (rx acq rel wr : Bool) (va : W64) (n : Nat) (kind : AccKind)
    (dst : Option (Bool × Reg)) (s0 : State) : State :=
  if va.toNat % n ≠ 0 then raise .alignment va s0
  else if !canonical va then raise .bounds va s0
  else if foreignFrame s0 va.toNat then raise .bounds va s0
  else
    match translate va wr s0 with
    | (some pa, s) => startAccess nd rx acq rel va pa n kind dst none s
    | (none, s) => s

/-- LD (R242). -/
def execLd (z : Size) (rx acq : Bool) (d a : Reg) (imm : BitVec 11) (s : State) : Out State :=
  let nd : Need := { gs := [a], gd := some d }
  issue (.ld z rx acq d a imm) nd (fun s =>
    if !globalReady s rx false then s
    else globalAccess nd rx acq false false (scaled (src1 a s).1 imm (sizeBytes z)) (sizeBytes z) .load
      (some (false, d)) s) s

/-- ST (R242). -/
def execSt (z : Size) (rx rel : Bool) (d a : Reg) (imm : BitVec 11) (s : State) : Out State :=
  let nd : Need := { gs := [a, d] }
  issue (.st z rx rel d a imm) nd (fun s =>
    if !globalReady s rx rel then s
    else
      let (x, v, _) := src2 a d s
      globalAccess nd rx false rel true (scaled x imm (sizeBytes z)) (sizeBytes z)
        (.store (leBytes (sizeBytes z) v.toNat)) none s) s

/-- An access through a handle (R248): validity, range, alignment of the physical address, permission. -/
def handleAccess (nd : Need) (rx acq rel wr : Bool) (k : Reg8) (off : W64) (n : Nat) (kind : AccKind)
    (dst : Option (Bool × Reg)) (s : State) : State :=
  let h := s.regs.h[k]
  if !h.valid then raise .handleRevoked (w64 k.val) s
  else if h.len < n || h.len - n < off.toNat then raise .bounds off s
  else if (h.pb + off.toNat) % n ≠ 0 then raise .alignment off s
  else if wr && !h.w then raise .protection off s
  else startAccess nd rx acq rel (h.vbase + off) (h.pb + off.toNat) n kind dst (some k) s

/-- LDH (R248). -/
def execLdh (z : Size) (rx acq : Bool) (d : Reg) (h : Reg8) (i : Reg) (imm : BitVec 7) (s : State) : Out State :=
  let nd : Need := { gs := [i], gd := some d }
  issue (.ldh z rx acq d h i imm) nd (fun s =>
    if !globalReady s rx false then s
    else handleAccess nd rx acq false false h (scaled (src1 i s).1 imm (sizeBytes z)) (sizeBytes z) .load
      (some (false, d)) s) s

/-- STH (R248). -/
def execSth (z : Size) (rx rel : Bool) (d : Reg) (h : Reg8) (i : Reg) (imm : BitVec 7) (s : State) : Out State :=
  let nd : Need := { gs := [i, d] }
  issue (.sth z rx rel d h i imm) nd (fun s =>
    if !globalReady s rx rel then s
    else
      let (x, v, _) := src2 i d s
      handleAccess nd rx false rel true h (scaled x imm (sizeBytes z)) (sizeBytes z)
        (.store (leBytes (sizeBytes z) v.toNat)) none s) s

/-- VLD_G (R140). -/
def execVldG (rx acq : Bool) (d a : Reg) (imm : BitVec 11) (s : State) : Out State :=
  let nd : Need := { gs := [a], vd := some d }
  issue (.vldG rx acq d a imm) nd (fun s =>
    if !globalReady s rx false then s
    else globalAccess nd rx acq false false (scaled (src1 a s).1 imm 64) 64 .load (some (true, d)) s) s

/-- VST_G (R140). -/
def execVstG (rx rel : Bool) (d a : Reg) (imm : BitVec 11) (s : State) : Out State :=
  let nd : Need := { gs := [a], vs := [d] }
  issue (.vstG rx rel d a imm) nd (fun s =>
    if !globalReady s rx rel then s
    else
      let (x, p, s1) := popG false a s
      let (v, _, _) := popV p d s1
      globalAccess nd rx false rel true (scaled x imm 64) 64 (.store (leBytes 64 v.toNat)) none s) s

/-! ### Handles and fences -/

/-- XLAT (R246): it takes a handle on the page that maps the base, once every earlier access has completed. -/
def execXlat (k : Reg8) (a b : Reg) (s : State) : Out State :=
  issue (.xlat k a b) { gs := [a, b] } (fun s0 =>
    let (base, y, s) := src2 a b s0
    let len := bits y.toNat 0 32
    let wr := bit y.toNat 32
    if !canonical base then raise .bounds base s0
    else if !drained s0 then s0
    else match tlbFind s0.myTile (s0.ctxOf s0.hart) base wr with
      | none => s0.holdWalk s0.hart base wr
      | some e =>
        if len = 0 || e.page + e.size < bits base.toNat 0 57 + len then raise .bounds base s0
        else
          let h : Handle :=
            { valid := true, w := wr, pb := tlbPa e base, len := len, vbase := base, page := e.page, pageSize := e.size
              ctx := s0.ctxOf s0.hart }
          complete ((s.modMyTile fun x => tlbTouch x e).modRegs fun r => { r with h := r.h.set k h })) s

/-- XREL (R247): it waits for the accesses already issued through the handle. -/
def execXrel (k : Reg8) (s : State) : Out State :=
  issue (.xrel k) {} (fun s =>
    if s.regs.accesses.any (·.handle == some k) then s
    else complete (s.modRegs fun r => { r with h := r.h.set k { r.h[k] with valid := false } })) s

/-- The scopes of a fence (R252). -/
inductive Scope
  | t | d | m | p | s
deriving DecidableEq, Repr

/-- The compute die whose window or block a physical address names, or the cache die's domain: the domain of a 0x8 or
0x9 address (R220). -/
def blockDomain (pa : Nat) : Nat :=
  if paRange pa = 8 then dieDomain (bits pa 28 8)
  else if bit pa 44 then siteDomain (cacheSite (bits pa 24 8))
  else dieDomain (bits pa 24 8)

/-- The target of an access lies in a scope (R252). -/
def inScope (s : State) (x : Scope) (pa : Nat) : Bool :=
  let own := windowTile pa == some (hartTile s.hart) && decide (windowOff pa < lmSize)
  let die := own || (match windowTile pa with
    | some t => tileDie t == hartDie s.hart
    | none => false)
  let dom := die || (isHbm pa && pa / domainBytes == dieDomain (hartDie s.hart).val) ||
    ((paRange pa == 8 || paRange pa == 9) && blockDomain pa == dieDomain (hartDie s.hart).val)
  match x with
  | .t => own
  | .d => die
  | .m => dom
  | .p => decide (paRange pa ≤ 0xA)
  | .s => true

/-- A fence is ready once no access in its scope is outstanding (R252); a withheld post counts as the write it is
(R412). Local accesses lie in every scope (R115). -/
def fenceReady (s : State) (x : Scope) : Bool :=
  decide (s.regs.accessFrom ≤ s.cyc) && s.me.sinj.isNone && s.me.gather.isNone && s.regs.amo.isNone &&
    s.regs.accesses.all fun a => !inScope s x a.pa

/-- FENCE_T (R252). -/
def execFenceT (s : State) : Out State := issue .fenceT {} (fun s => if fenceReady s .t then complete s else s) s
/-- FENCE_D (R252). -/
def execFenceD (s : State) : Out State := issue .fenceD {} (fun s => if fenceReady s .d then complete s else s) s
/-- FENCE_M (R252). -/
def execFenceM (s : State) : Out State := issue .fenceM {} (fun s => if fenceReady s .m then complete s else s) s
/-- FENCE_P (R252). -/
def execFenceP (s : State) : Out State := issue .fenceP {} (fun s => if fenceReady s .p then complete s else s) s
/-- FENCE_S (R252). -/
def execFenceS (s : State) : Out State := issue .fenceS {} (fun s => if fenceReady s .s then complete s else s) s

/-! ### Results that arrive later -/

/-- The data of a completed access reaches its destination. -/
def deliverDest (h : HartId) (d : Dest) (bs : List Byte) (s : State) : State :=
  let v := leVal bs
  match d with
  | .none => s
  | .g r => s.modRegsOf h fun x => setG x r (w64 v) (s.cycleOf h)
  | .v r =>
    match h with
    | .strand t k => s.modStrand t k fun x =>
        setV x r (BitVec.ofNat 512 v) (s.cycleOf h)
    | _ => s
  | .queue k id => s.modTile (hartTile h) fun x => fillQueue k id (toWords (BitVec.ofNat 512 v)) (x.cycle + 1) x

end Sys2Proof.Machine
end

