-- ==== Sys2Proof/Machine/Amo.lean ====
section
/-! DEFINITION. Atomic memory operations (R40, R250, R251). -/
namespace Sys2Proof.Machine

/-- Ordering bits of an amo (R40). -/
def orderAcq (o : Order) : Bool := o == .acq || o == .ar
/-- See `orderAcq`. -/
def orderRel (o : Order) : Bool := o == .rel || o == .ar

/-- The new value of an atomic operation of width `w`, or none when a compare-and-swap fails (R250). -/
def amoNew (op : AmoOp) (w m v c : Nat) (rm : RMode) : Option Nat :=
  match op with
  | .add => some ((m + v) % 2 ^ w)
  | .min => some (if signedOf w v < signedOf w m then v else m)
  | .max => some (if signedOf w m < signedOf w v then v else m)
  | .minN => some (min m v)
  | .maxN => some (max m v)
  | .and => some (m &&& v)
  | .or => some (m ||| v)
  | .xor => some (m ^^^ v)
  | .swap => some v
  | .cas => if m = c then some v else none
  | .fadd => some (addF32 rm m v)

/-- The launch of the hart's group came from a deterministic queue (R250). -/
def deterministic (s : State) : Bool :=
  match s.hart with
  | .mgmt _ => false
  | h => ((s.tile (hartTile h)).group.map (·.det)).getD false

/-- The registers an amo names: cas reads gd as well (R40). -/
def amoNeed (op : AmoOp) (d a b : Reg) : Need := { gs := if op = .cas then [a, b, d] else [a, b], gd := some d }

/-- Address, operand and expected value of an amo, with the state after its pops (R165). -/
def amoOperands (op : AmoOp) (d a b : Reg) (s : State) : W64 × W64 × W64 × State :=
  if op = .cas then src3 a b d s
  else
    let (x, y, s) := src2 a b s
    (x, y, 0, s)

/-- The local form (R250): it issues in the first of the two cycles in which it has its bank. `pops` takes the words its
operands pop. -/
def amoLocal (op : AmoOp) (n : Nat) (d : Reg) (ea : W64) (v c rm : Nat) (pops : State → State) (s0 : State) : State :=
  if 0x7FFFF < ea.toNat then raise .bounds ea s0
  else match askBankAmo ea.toNat s0, badIn s0.myTile.badLm ea.toNat n with
    | (false, s), _ => s
    | (true, _), some w => raise .machineCheck (w64 (4 * w)) s0
    | (true, s), none =>
      let (id, s) := (pops s).draw
      let (dest, s) := reserve false d id s
      let j : LocalAmo :=
        { op := op, n := n, addr := ea.toNat, v := v, c := c, rm := rm, dest := dest, pc := s0.regs.pc
          since := s0.cyc, start := s0.cyc }
      complete (s.modRegs fun r => { r with amo := some j })

/-- The result of an access of a hart reaches its destination, to be read from cycle `c` (R165, R250). -/
def putResult (h : HartId) (d : Dest) (v : W64) (c : Nat) (s : State) : State :=
  let s := s.modRegsOf h fun r => { r with resultsFrom := max r.resultsFrom c }
  match d with
  | .g r => s.modRegsOf h fun x => setG x r v c
  | .queue k id => s.modTile (hartTile h) (fillQueue k id [v] c)
  | _ => s

/-- The one indivisible step of a local amo, at the end of its second bank cycle (R115, R250); the old value can be read six
cycles after the first. A bad word raises the machine check (R122). -/
def amoEnds (h : HartId) (j : LocalAmo) (s : State) : State :=
  let x := s.tile (hartTile h)
  let s := s.modRegsOf h fun r => { r with amo := none, accessFrom := x.cycle + 1 }
  match badIn x.badLm j.addr j.n with
  | some w =>
    let s := match j.dest with
      | .queue k id => s.modTile (hartTile h) (dropReserved k id)
      | _ => s
    onHart h (raiseAt .machineCheck (w64 (4 * w)) j.pc) s
  | none =>
    let m := tileLoad x j.addr j.n
    let s := match amoNew j.op (8 * j.n) m j.v j.c (modeOf j.rm) with
      | some w => s.modTile (hartTile h) (tileStore j.addr (leBytes j.n w))
      | none => s
    putResult h j.dest (w64 m) (j.start + 6) s

/-- One cycle of a hart's local amo (R250): it acts in the second of its bank cycles; when the matrix unit claims the bank in
that one, it has not started there, and asks again. -/
def amoCycle (h : HartId) (s : State) : State :=
  match (s.regsOf h).amo with
  | none => s
  | some j =>
    let x := s.tile (hartTile h)
    if x.running && decide (j.start = x.cycle) then s
    else if !x.running || (decide (j.start + 1 = x.cycle) && !matrixTook x j.addr) then amoEnds h j s
    else match takeBankAmo (partyOf h) j.addr (waitFrom (partyOf h) (bankOf j.addr) j.since x) with
      | (false, x) => s.setTile (hartTile h) x
      | (true, x) => (s.setTile (hartTile h) x).modRegsOf h fun r => { r with amo := some { j with start := x.cycle } }

/-- The local amos under way on a tile (R250). -/
def amoSlot (t : TileNo) (s : State) : State :=
  (((List.finRange 8).map fun k => HartId.strand t k) ++ [HartId.engine t]).foldl (fun s h => amoCycle h s) s

/-- The target of a global amo is HBM or the local memory of a tile (R250). -/
def amoTarget (pa n : Nat) : Bool :=
  inHbm pa n || ((windowTile pa).isSome && decide (windowOff pa < lmSize))

/-- The global form (R250). -/
def amoGlobal (nd : Need) (op : AmoOp) (ord : Order) (n : Nat) (d : Reg) (ea : W64) (v c rm : Nat) (s : State) : State :=
  if !canonical ea then raise .bounds ea s
  else if foreignFrame s ea.toNat then raise .bounds ea s
  else
    match translate ea true s with
    | (none, s) => s
    | (some pa, s) =>
      if !amoTarget pa n then raise .bounds ea s
      else startAccess nd false (orderAcq ord) (orderRel ord) ea pa n (.amo op v c rm) (some (false, d)) none s

/-- AMO (R250). -/
def execAmo (op : AmoOp) (dbl loc : Bool) (ord : Order) (d a b : Reg) (s : State) : Out State :=
  let nd := amoNeed op d a b
  issueLocal (.amo op dbl loc ord d a b) nd (fun s0 =>
    let n := if dbl then 8 else 4
    let (ea, v, c, _) := amoOperands op d a b s0
    let v := v.toNat % 2 ^ (8 * n)
    let c := c.toNat % 2 ^ (8 * n)
    if op = .fadd ∧ deterministic s0 then raise .nondeterminism 0 s0
    else if ea.toNat % n ≠ 0 then raise .alignment ea s0
    else if loc then amoLocal op n d ea v c s0.me.rmode.toNat (fun s => (amoOperands op d a b s).2.2.2) s0
    else amoGlobal nd op ord n d ea v c s0.me.rmode.toNat s0) s

end Sys2Proof.Machine
end

