-- ==== Sys2Proof/Machine/Stream.lean ====
section
/-! DEFINITION. The stream instructions of major 0x38 (R164-R167, R181, R188-R191) and the queue inboxes (R168). -/
namespace Sys2Proof.Machine

/-- Bind or release a queue pair of the running hart's tile. -/
def setBind (k : Fin 8) (b : Option Bind) (s : State) : State := s.modMyTile fun x => { x with binds := x.binds.set k b }

/-- The running strand's binding of a file. -/
def myBind (s : State) (vec : Bool) : Option Bind :=
  match s.hart with
  | .strand _ k => some ⟨k, vec⟩
  | _ => none

/-- The running strand holds pair `k`, in either file. -/
def boundMine (s : State) (k : Fin 8) : Bool :=
  (s.myTile.binds[k]).isSome && (s.myTile.binds[k] == myBind s false || s.myTile.binds[k] == myBind s true)

/-- SBIND (R164): it waits while another strand holds the pair. -/
def execSbind (vec : Bool) (k : Fin 8) (s : State) : Out State :=
  issue (.sbind vec k) {} (fun s =>
    if boundMine s k then raise .streamMisuse 0 s
    else if (s.myTile.binds[k]).isSome then s
    else complete (setBind k (myBind s vec) s)) s

/-- Every word reserved on an output queue has entered it (R164). -/
def pushesEntered (x : Tile) (k : Fin 8) : Bool := x.outQ[k].all fun e => decide (e.from_ ≤ x.cycle) && e.pending.isNone

/-- SFREE (R164): it waits until the strand's pushes have entered the queue. -/
def execSfree (vec : Bool) (k : Fin 8) (s : State) : Out State :=
  issue (.sfree vec k) {} (fun s =>
    if (s.myTile.binds[k]).isNone || s.myTile.binds[k] != myBind s vec then raise .streamMisuse 0 s
    else if !pushesEntered s.myTile k then s
    else complete (setBind k none s)) s

/-- SPEEK (R167): the head word, left in place, and SSTAT as its scalar pop sets it. -/
def execSpeek (d : Reg) (k : Fin 8) (s : State) : Out State :=
  issue (.speek d k) { gd := some d } (fun s =>
    if !boundMine s k then raise .streamMisuse 0 s
    else if !canPop s k 1 then s
    else
      let e := (s.myTile.inQ[k]).headD default
      complete (writeG d e.word 1 (s.modMe fun x => { x with sstat := sstatPop x.sstat false k false e default }))) s

/-- SCNT (R167): entries of the two queues, reserved ones counted. -/
def execScnt (d : Reg) (k : Fin 8) (s : State) : Out State :=
  issue (.scnt d k) { gd := some d } (fun s =>
    let x := s.myTile
    complete (writeG d (w64 (x.inQ[k].length + x.outQ[k].length * 2 ^ 8)) 1 s)) s

/-- Flits that running sinj instructions to destination 7 have still to deliver (R189). -/
def injPending (x : Tile) : Nat :=
  x.strands.toList.foldl (fun n z => match z.sinj with
    | some j => if j.dest = 7 then n + (j.n - j.done) else n
    | none => n) 0

/-- OFFSET of a switch fault (R186). -/
def faultOffset (w : Switch) : Nat := bits w.fault.toNat 20 12

/-- The destination of a sinj takes its flits (R189). -/
def injOk (s : State) (dest n : Nat) : Bool :=
  let x := s.myTile
  if dest < 4 then
    let q := fin8 dest
    ((x.binds[q]).isNone || boundMine s q) && x.outQ[q].length % 4 == 0
  else missStopped x.sw && decide (x.sw.inj + injPending x + n + faultOffset x.sw ≤ x.sw.missLen)

/-- SINJ (R189): its checks; its flits leave one in a cycle. -/
def execSinj (a b : Reg) (s : State) : Out State :=
  issue (.sinj a b) { gs := [a, b] } (fun s0 =>
    let (x, y, s) := src2 a b s0
    let n := bits y.toNat 0 13
    let dest := bits y.toNat 16 3
    if !drained s0 then s0
    else if x.toNat % 32 ≠ 0 then raise .alignment x s0
    else if 0x80000 < x.toNat + 32 * n then raise .bounds x s0
    else if n = 0 || 4096 < n || (4 ≤ dest && dest ≤ 6) || !injOk s0 dest n then raise .streamMisuse 0 s0
    else
      let j : Sinj := { addr := x.toNat, n := n, done := 0, dest := dest, markH := bit y.toNat 24, markE := bit y.toNat 25 }
      complete (s.modMe fun z => { z with sinj := some j })) s

/-- SIDE (R181): it waits for the strand's earlier accesses. -/
def execSide (a b : Reg) (s : State) : Out State :=
  issue (.side a b) { gs := [a, b] } (fun s0 =>
    let (x, y, s) := src2 a b s0
    let len := bits y.toNat 32 12
    if x.toNat % 32 ≠ 0 then raise .alignment x s0
    else if len = 0 then raise .streamMisuse 0 s0
    else if 0x80000 < x.toNat + 32 * len then raise .bounds x s0
    else if !drained s0 then s0
    else complete (s.modMyTile (sideInstall (bits y.toNat 0 16) (bits y.toNat 16 16) (x.toNat / 32) len))) s

/-- SCLR (R181). -/
def execSclr (a : Reg) (s : State) : Out State :=
  issue (.sclr a) { gs := [a] } (fun s =>
    let (x, s) := src1 a s
    complete (s.modMyTile (sideDrop fun i => bit x.toNat 6 || i.val == bits x.toNat 0 6))) s

/-- A lookup that failed in the middle of a block is retried when its word is executed again (R190). -/
def retryMode : DecMode → DecMode
  | .lost j len flow partner kf ks _ => .lost j len flow partner kf ks true
  | m => m

/-- Restart a stopped switch (R190). -/
def restartSwitch (skip : Nat) (w : Switch) : Switch :=
  { w with fault := w.fault &&& ~~~(w64 (2 ^ 15)), inj := 0, run := .running, skip := skip, mode := retryMode w.mode }

/-- SRESUME (R190). -/
def execSresume (s : State) : Out State :=
  issue .sresume {} (fun s =>
    if s.myTile.sw.run ≠ .stopped then raise .streamMisuse 0 s
    else complete (s.modSw (hartTile s.hart) (restartSwitch 0))) s

/-- SRESUME_SKIP (R190). -/
def execSresumeSkip (s : State) : Out State :=
  issue .sresumeSkip {} (fun s =>
    let w := s.myTile.sw
    if !missStopped w || w.inj + faultOffset w ≠ w.missLen then raise .streamMisuse 0 s
    else complete (s.modSw (hartTile s.hart) (restartSwitch (w.missLen - faultOffset w)))) s

/-- SSTAT (R188). -/
def execSstat (d : Reg) (s : State) : Out State :=
  issue (.sstat d) { gd := some d } (fun s => complete (writeG d (switchWord s.myTile.sw) 1 s)) s

/-- QUEUE_INBOX_WRITE (R168): it waits while the queue has fewer than four free entries. -/
def execQueueInboxWrite (t : TileNo) (k : Fin 8) (h e : Bool) (data : W256) (s : State) : Out State :=
  let (r, s') := accessTile s t (0xB0000 + 0x100 * k.val + 0x20 * b2n h + 0x40 * b2n e) 32 (some (leBytes 32 data.toNat))
    (.event (.queueInboxWrite t k h e data))
  .next (if r = .wait then s'.defer (.queueInboxWrite t k h e data) else s')

end Sys2Proof.Machine
end

