-- ==== Sys2Proof/Machine/Barrier.lean ====
section
/-! DEFINITION. The stage-barrier instructions of major 0x39 (R170-R173) and the barrier words of a tile's window. -/
namespace Sys2Proof.Machine

/-- SBINIT (R171): the switch's recorded phase goes to 0 with it (R179). -/
def execSbinit (a : Reg) (n : Fin 32) (s : State) : Out State :=
  issue (.sbinit a n) { gs := [a] } (fun s0 =>
    let (x, s) := src1 a s0
    if 65535 < x.toNat then raise .streamMisuse 0 s0
    else
      let init (_ : Barrier) : Barrier := { count := x.toNat, remain := x.toNat }
      let s := s.modMyTile (modBar n init)
      let s := if n.val < 8 then
        s.modSw (hartTile s.hart) fun w => { w with sph := w.sph.set (fin8 n.val) false } else s
      complete s) s

/-- SBEXP (R171). -/
def execSbexp (a : Reg) (n : Fin 32) (s : State) : Out State :=
  issue (.sbexp a n) { gs := [a] } (fun s0 =>
    let (x, s) := src1 a s0
    if 0x7FFFFFFF < x.toNat || 2 ^ 31 - 1 < s0.myTile.bars[n].bytes + x.toNat then raise .streamMisuse 0 s0
    else complete (s.modMyTile (modBar n (barDeliver (-x.toNat))))) s

/-- SBARR (R171): one arrival, once the strand's accesses to its tile's local memory have completed. -/
def execSbarr (n : Fin 32) (s : State) : Out State :=
  issue (.sbarr n) {} (fun s =>
    if s.myTile.bars[n].remain = 0 then raise .streamMisuse 0 s
    else if !fenceReady s .t then s
    else complete (s.modMyTile (modBar n barArrive))) s

/-- SBWAIT (R171): it waits while PHASE equals bit 0 of ga. -/
def execSbwait (a : Reg) (n : Fin 32) (s : State) : Out State :=
  issue (.sbwait a n) { gs := [a] } (fun s0 =>
    let (x, s) := src1 a s0
    if s0.myTile.bars[n].phase = bit x.toNat 0 then s0 else complete s) s

/-- A store to a barrier word of a tile's window (R173). -/
def barStore (t : TileNo) (off : Nat) (v : W64) (again : Instr) (s : State) : State :=
  let (r, s') := accessTile s t (0xD0000 + off) 8 (some (leBytes 8 v.toNat)) (.event again)
  if r = .wait then s'.defer again else s'

/-- BARRIER_WINDOW_ARRIVE (R173). -/
def execBarrierWindowArrive (t : TileNo) (n : Fin 32) (s : State) : Out State :=
  .next (barStore t (16 * n.val) 0 (.barrierWindowArrive t n) s)

/-- BARRIER_WINDOW_DELIVER (R173). -/
def execBarrierWindowDeliver (t : TileNo) (n : Fin 32) (v : W64) (s : State) : Out State :=
  .next (barStore t (16 * n.val + 8) v (.barrierWindowDeliver t n v) s)

end Sys2Proof.Machine
end

