-- ==== Sys2Proof/Machine/Power.lean ====
section
/-! DEFINITION. The power arbiter: allowances and caps (R425, R426), the floor (R428), the budget (R425), coolant and
thermal limits (R443), and the SMBus status (R442). -/
namespace Sys2Proof.Machine

/-- Set a PEVENT bit, which raises interrupt cause POWER (R425). -/
def setPevent (s : State) (b : Nat) : State :=
  { s with power := { s.power with pevent := s.power.pevent ||| 2 ^ b } }.irq 6

/-- PALLOW of a die: compute dies 0-199, cache dies 200-399 (R425). -/
def pallowOf (s : State) (i : Nat) : Nat := tabGet (Config.pallow 0 i).toNat i s.power.pallow

/-- A cap stays within 8-64 (R426). -/
def clampCap (x : Nat) : Nat := max 8 (min 64 x)

/-- A recomputed allowance or cap; while the coolant is outside its limits it is lowered toward the floor (R443). -/
def lowered (hot : Bool) (floor old new : Nat) : Nat :=
  if !hot then new else if old ≤ floor then old else max floor (min (old - 1) new)

/-- Ask for the freeze of one group on a die held at the floor (R428). -/
def floorFreeze (s : State) (d : DieNo) : State :=
  let here (p : Placed) : Bool := p.origin / 144 == d.val
  if s.hub.launches.any fun l => l.placed.any fun p => p.freezeAsked && here p then s
  else match pickVictim (victims s none fun l p => here p && l.r.latclass == 0 && !l.r.standing) with
    | some (l, p) => askFreeze s none l p
    | none => s

/-- The caps of a compute die's power agent and the floor: a die once held there stays so until a group has left it or finished
(R426, R428). `n` indexes the free values. -/
def recomputeDie (n : Nat) (s : State) (d : DieNo) : State :=
  let x := s.die d
  let draw := (Config.draw n d.val).toNat
  let above := decide (pallowOf s d.val < draw) && x.duty == 8 && x.issueCap == 8
  let count := if above then min 2 (x.floorCount + 1) else 0
  let held := (x.floorHeld && !x.floorLeft) || count == 2
  let hot := s.power.hot
  let s := s.setDie d { x with
    pread := draw, floorCount := count, floorHeld := held, floorLeft := false
    duty := if held then 8 else lowered hot 8 x.duty (clampCap (Config.duty n d.val))
    issueCap := if held then 8 else lowered hot 8 x.issueCap (clampCap (Config.issueCap n d.val)) }
  if held then floorFreeze (setPevent s 2) d else s

/-- New allowances for the 400 dies (R426); those of compute dies fall while the coolant is outside its limits (R443). -/
def newAllowances (n : Nat) (s : State) : Tab Nat :=
  (List.range 400).map fun i =>
    (i, lowered (s.power.hot && decide (i < 200)) (Config.floorDraw i) (pallowOf s i) (Config.pallow (n + 1) i).toNat)

/-- Dispatcher cycles between two recomputations (R425, R426). -/
def recomputePeriod : Nat := 1000000

/-- The periodic recomputation is due (R426). -/
def recomputeDue (s : State) : Bool := decide (s.power.lastRecompute + recomputePeriod ≤ s.dcycle)

/-- The module draw, once in each period (R425). -/
def updateDraw (n : Nat) (s : State) : State :=
  if !recomputeDue s then s
  else
    let draw := (Config.draw n 400).toNat
    let s := { s with power := { s.power with pdraw := draw, lastRecompute := s.dcycle } }
    if s.power.pbudget < draw then setPevent s 0 else s

/-- Recompute draws, caps and allowances (R426, R428). -/
def recompute (s : State) : State :=
  let (n, s) := s.draw
  let s := updateDraw n s
  let s := (List.finRange 200).foldl (recomputeDie n) s
  { s with power := { s.power with pallow := newAllowances n s } }

/-- ALLOWANCE_RECOMPUTE (R426): every 1,000,000 dispatcher cycles, and when PBUDGET or PRESERVE has changed. -/
def execAllowanceRecompute (s : State) : Out State := .next (recompute s)

/-- A write to PBUDGET (R425): it fails below PRESERVE + PFLOOR. -/
def budgetWrite (s : State) (v : Nat) : Bool × State :=
  let b := bits v 0 32
  if b < s.power.preserve + Config.pfloor.toNat then (false, s)
  else if b = s.power.pbudget then (true, s)
  else (true, recompute { s with power := { s.power with pbudget := b } })

/-- PBUDGET_WRITE (R425), from the host, firmware or the SMBus. -/
def execPbudgetWrite (v : W64) (s : State) : Out State := .next (s.accepts fun s => (budgetWrite s v.toNat).2)

/-- COOLANT_LIMIT (R443): the sensors' values; outside the limits PEVENT bit 1 is set, and allowances and caps fall. -/
def execCoolantLimit (inlet flow : Nat) (s : State) : Out State :=
  let hot := decide (45000 < inlet) || decide (flow < 4000)
  let s := { s with power := { s.power with inlet := inlet, flow := flow, hot := hot } }
  .next (if hot then recompute (setPevent s 1) else s)

/-- THERMAL_TRIP (R443): at 110 °C the module trips. -/
def execThermalTrip (milliC : Nat) (s : State) : Out State :=
  let s := { s with power := { s.power with junction := milliC } }
  .next (if milliC < 110000 then s
    else (s.failAll (fun _ => true) 0).modHub fun h => { h with down := true })

/-- SMBUS_STATUS_READ (R442). -/
def execSmbusStatusRead (s : State) : Out State :=
  let p := s.power
  .next (s.emit (.smbus s.rot.stage p.pdraw p.pevent p.junction p.inlet p.flow))

end Sys2Proof.Machine
end

