-- ==== Sys2Proof/Machine/Boot.lean ====
section
/-! DEFINITION. The root of trust: boot and recovery (R436), measurements and attestation (R437), memory keys (R438), and
the panel reset (R441). -/
namespace Sys2Proof.Machine

/-! ### Measurements -/

/-- SHA-384 of a byte string, as its 48 bytes. -/
def digestOf (m : List Byte) : List Byte := leBytes 48 (Config.sha384 m).toNat

/-- Extend a measurement register (R437). -/
def extendMr (i : Fin 8) (digest : List Byte) (s : State) : State :=
  { s with rot := { s.rot with mr := s.rot.mr.set i (digestOf (s.rot.mr[i] ++ digest)) } }

/-- MR_EXTEND (R437): the host may extend MR4-MR7 only. -/
def execMrExtend (i : Fin 8) (digest : List Byte) (s : State) : Out State :=
  .next (s.accepts fun s => if i.val < 4 || digest.length != 48 then s else extendMr i digest s)

/-- The bytes of an attestation report that the signatures cover (R437). -/
def reportBody (s : State) (nonce : List Byte) : List Byte :=
  Config.identity ++ leBytes 8 Config.fusedSvn ++ s.rot.mr.toList.flatten ++ nonce

/-- An attestation report for a nonce (R437). `n` indexes the free values. -/
def report (s : State) (n : Nat) (nonce : List Byte) : List Byte :=
  let b := reportBody s nonce
  b ++ Config.rsaSign b ++ Config.slhSign n b

/-- Build the report and write it to the host (R437); it waits while a module that carries the address is down (R407). -/
def attest (s : State) (nonce : List Byte) (hpa : Nat) : State :=
  if nonce.length != 48 then s
  else
    let r := report s s.fresh nonce
    if s.hostReady hpa r.length then ((s.draw.2).hostStore hpa r).emit (.report hpa r)
    else s.defer (.attestationRequest nonce hpa)

/-- ATTESTATION_REQUEST (R437). -/
def execAttestationRequest (nonce : List Byte) (hpa : Nat) (s : State) : Out State := .next (s.accepts (attest · nonce hpa))

/-! ### Boot -/

/-- The images of stage 2 in the flash: die-controller firmware, cache-die control firmware, management-hart programs and
engine microcode (R436). One image for each kind is the model's choice. DESIGN CHOICE, log 93. -/
def stage2Images : List Nat := [2, 3, 4, 5]

/-- Verify stage 2's images in turn: each that is accepted extends MR2 before it runs (R437); the first that fails ends the
stage in recovery (R436). -/
def verifyImages (n : Nat) : List Nat → State → State
  | [], s => { s with rot := { s.rot with stage := 3, recovery := false } }
  | i :: r, s =>
    if Config.flashOk n i then verifyImages n r (extendMr 2 (Config.flashDigest n i) s)
    else { s with rot := { s.rot with stage := 1, recovery := true } }

/-- Stages 2 and 3 (R436, R437): the images in the flash are verified and loaded into every die, then DCTL.EN becomes
writable; or recovery. What the load leaves in the dies is `microcodeOf` and `programOf`. -/
def bootStage2 (n : Nat) (s : State) : State := verifyImages n stage2Images s

/-- Stage 1 with an image of this digest that has been accepted, and what follows (R436, R437). -/
def bootStage1 (n : Nat) (digest : List Byte) (s : State) : State :=
  let s := extendMr 1 digest s
  bootStage2 n { s with rot := { s.rot with stage := 1 } }

/-- POWER_ON_BOOT (R436, R437): the ROM runs, the fuse state and debug policy are measured, and the stages follow. -/
def execPowerOnBoot (s : State) : Out State :=
  .next <| if s.rot.stage != 0 || s.rot.recovery then s
    else
      let (n, s) := s.draw
      let s := extendMr 3 (digestOf Config.fuseState) (extendMr 0 Config.romDigest s)
      let s := { s with rot := { s.rot with debugOk := Config.debugPolicy } }
      if Config.flashOk n 1 then bootStage1 n (Config.flashDigest n 1) s
      else { s with rot := { s.rot with recovery := true } }

/-- "NZBT" as the four bytes of a header's magic (R436). -/
def bootMagic : Nat := 0x54425A4E

/-- The header's bytes without its signature fields state the image's fields, the length of its body among them (R436). -/
def headerStates (img : BootImage) : Bool :=
  img.header == Config.bootHeader img.magic img.stage img.svn img.len img.rsaKey img.slhKey && img.len == img.body.length

/-- An image is accepted (R436): header, fused key hashes, version and both signatures. -/
def imageAccepted (img : BootImage) : Bool :=
  let msg := img.header ++ img.body
  headerStates img && img.magic == bootMagic && img.stage == 1 && decide (Config.fusedSvn ≤ img.svn) &&
    Config.sha384 img.rsaKey == Config.fusedRsa && Config.sha384 img.slhKey == Config.fusedSlh &&
    img.rsaSig.length == 384 && img.slhSig.length == 16224 &&
    Config.rsaVerify img.rsaKey msg img.rsaSig && Config.slhVerify img.slhKey msg img.slhSig

/-- RECOVERY_IMAGE_LOAD (R436): in recovery, an accepted stage-1 image runs and the boot goes on. -/
def execRecoveryImageLoad (img : BootImage) (s : State) : Out State :=
  .next <| if !s.rot.recovery || !imageAccepted img then s
    else
      let (n, s) := s.draw
      bootStage1 n (digestOf (img.header ++ img.body)) s

/-! ### Keys -/

/-- Draw new keys for a key index: lines written under the old ones read as unrelated values (R438). -/
def newKey (n : Nat) (s : State) : State := { s with keyEpoch := tabSet n (tabGet 0 n s.keyEpoch + 1) s.keyEpoch }

/-- KEY_REGENERATE (R438): the host regenerates indices 1-127; index 0 only a panel reset does. -/
def execKeyRegenerate (n : Fin 128) (s : State) : Out State :=
  .next (s.accepts fun s => if n.val = 0 then s else newKey n.val s)

/-! ### Panel reset -/

/-- Panel reset (R441): launches are discarded, dies return to stage 2, keys are regenerated, MR2 is extended anew. What
the environment drives (UP, link states, sensors) and what memory outside the dies holds stays. -/
def panelReset (s : State) : State :=
  if s.rot.stage != 3 then s
  else
    let (n, s) := s.draw
    let s := { s with
      todo := [], failedLines := [], keyMap := [], tiles := [], dies := [], caches := [], revoking := [], moves := []
      ports := s.ports.map fun (p, x) => (p, { linkup := x.linkup : Port })
      hub := { up := s.hub.up }
      power := { inlet := s.power.inlet, flow := s.power.flow, junction := s.power.junction, hot := s.power.hot
                 lastRecompute := s.power.lastRecompute } }
    bootStage2 n ((List.range 128).foldl (fun s i => newKey i s) s)

/-- PANEL_RESET (R441). -/
def execPanelReset (s : State) : Out State := .next (panelReset s)

end Sys2Proof.Machine
end

