-- ==== Sys2Proof/Machine/Cluster.lean ====
section
/-! DEFINITION. Cluster gating: the handshake of R429, its commands and their ends (R430, R431), wake requests (R432)
and what a group in a sleeping cluster misses (R433). A tile record keeps the logic state that SAVE has scanned out
while the cluster sleeps; nothing but the Rhizoid chain can look at the tile then, and a powered cluster shows it
zero. -/
namespace Sys2Proof.Machine

/-- Change a cluster. -/
def State.modCluster (s : State) (d : DieNo) (k : Fin 4) (f : Cluster → Cluster) : State :=
  s.modDie d fun x => { x with clusters := x.clusters.set k (f x.clusters[k]) }

/-- Tile `i` of a cluster, row-major (R430). -/
def clusterTile (d : DieNo) (k : Fin 4) (i : Nat) : TileNo :=
  tileOf (d.val * 144 + (6 * (k.val / 2) + i / 6) * 12 + 6 * (k.val % 2) + i % 6)

/-- The 36 tiles of a cluster. -/
def clusterTiles (d : DieNo) (k : Fin 4) : List TileNo := (List.range 36).map (clusterTile d k)

/-- The tile stands in a cluster. -/
def inCluster (d : DieNo) (k : Fin 4) (t : TileNo) : Bool := tileDie t == d && clusterOf (tileIdx t) == k

/-- Placed groups whose regions overlap a cluster. -/
def clusterGroups (s : State) (d : DieNo) (k : Fin 4) : List (Launch × Placed) :=
  s.hub.launches.flatMap fun l =>
    (l.placed.filter fun p => (regionTiles p.origin l.r.w l.r.h).any (inCluster d k)).map fun p => (l, p)

/-- A region keeps QUIESCE out (R431): it extends beyond the cluster, belongs to a gang, a latency class or a standing
slot, or is being loaded, frozen, restored or discarded. -/
def keepsAwake (d : DieNo) (k : Fin 4) (l : Launch) (p : Placed) : Bool :=
  !(regionTiles p.origin l.r.w l.r.h).all (inCluster d k) || l.r.gang || l.r.latclass != 0 || l.r.standing ||
    !p.started || p.freezeAsked || l.ending.isSome

/-- A standing region of a model slot, whether it runs a group or is free, overlaps the cluster (R431). -/
def standsIn (s : State) (d : DieNo) (k : Fin 4) : Bool :=
  s.hub.slots.toList.any fun x => x.regions.any fun o => (regionTiles o x.w x.h).any (inCluster d k)

/-- A refusal changes only ERR and ERRV (R431). -/
def refuse (s : State) (d : DieNo) (k : Fin 4) (e : Nat) : State :=
  s.modCluster d k fun c => { c with err := e, errv := true }

/-- The states in which a command is accepted (R430). -/
def acceptedIn (cmd st : Nat) : Bool :=
  match cmd with
  | 1 => st == 0
  | 2 => st == 1
  | 3 => st == 2
  | 4 => st == 3
  | 5 => st == 1 || st == 2 || st == 4
  | _ => false

/-- The code with which a command is refused now (R431), if it is. -/
def refusal (s : State) (d : DieNo) (k : Fin 4) (cmd : Nat) : Option Nat :=
  let x := s.die d
  let c := x.clusters[k]
  if x.halted then some 3
  else if c.busy.isSome || !acceptedIn cmd c.st then some 1
  else if cmd = 1 && (standsIn s d k || (clusterGroups s d k).any fun (l, p) => keepsAwake d k l p) then some 2
  else none

/-- What an accepted QUIESCE does at once (R430): regions stop, and waiting Sorus requests are withdrawn (R314). -/
def quiesceBegin (s : State) (d : DieNo) (k : Fin 4) : State :=
  (s.stopTiles ((clusterTiles d k).filter fun t => (s.tile t).group.isSome))

/-- Begin an accepted command (R430). -/
def commandBegin (s : State) (d : DieNo) (k : Fin 4) (cmd : Nat) : State :=
  let s := s.modCluster d k fun c => { c with cmd := cmd, busy := some cmd }
  if cmd = 1 then quiesceBegin s d k else s

/-- A write of a command 1-5 to CLCTL (R430). -/
def commandWrite (s : State) (d : DieNo) (k : Fin 4) (cmd : Nat) (aw : Bool) : State :=
  match refusal s d k cmd with
  | some e => refuse s d k e
  | none => commandBegin (s.modCluster d k fun c => { c with autowake := aw, restoreNext := false }) d k cmd

/-- A write of CMD 0 (R430). -/
def autowakeWrite (s : State) (d : DieNo) (k : Fin 4) (aw : Bool) : State :=
  s.modCluster d k fun c => { c with autowake := aw }

/-- QUIESCE (R430). -/
def execQuiesce (d : DieNo) (k : Fin 4) (aw : Bool) (s : State) : Out State := .next (commandWrite s d k 1 aw)
/-- SAVE (R430). -/
def execSave (d : DieNo) (k : Fin 4) (aw : Bool) (s : State) : Out State := .next (commandWrite s d k 2 aw)
/-- GATE (R430). -/
def execGate (d : DieNo) (k : Fin 4) (aw : Bool) (s : State) : Out State := .next (commandWrite s d k 3 aw)
/-- UNGATE (R430). -/
def execUngate (d : DieNo) (k : Fin 4) (aw : Bool) (s : State) : Out State := .next (commandWrite s d k 4 aw)
/-- CLUSTER_RESTORE (R430). -/
def execClusterRestore (d : DieNo) (k : Fin 4) (aw : Bool) (s : State) : Out State := .next (commandWrite s d k 5 aw)
/-- AUTOWAKE_SET (R430). -/
def execAutowakeSet (d : DieNo) (k : Fin 4) (aw : Bool) (s : State) : Out State := .next (autowakeWrite s d k aw)
/-- CLCTL_INVALID_COMMAND (R430). -/
def execClctlInvalidCommand (d : DieNo) (k : Fin 4) (s : State) : Out State := .next (refuse s d k 1)

/-- A write to CLCTL (R429, R430). -/
def clctlWrite (s : State) (d : DieNo) (k : Fin 4) (v : Nat) : State :=
  let cmd := bits v 0 3
  if cmd = 0 then autowakeWrite s d k (bit v 3)
  else if cmd ≤ 5 then commandWrite s d k cmd (bit v 3)
  else refuse s d k 1

/-! ### Ends of commands -/

/-- Bytes of the retention area of each tile (R430). -/
def areaBytes : Nat := 0x8000

/-- Local address of the retention area (R429). -/
def retentionAt (c : Cluster) : Nat := areaBytes * c.rslot

/-- Displacement buffer of tile `i` (R430). -/
def bufferAt (c : Cluster) (i : Nat) : Nat := c.pbase + areaBytes * i

/-- QUIESCE ends: every result of the cluster's instructions is written (R373 step 2). -/
def quiesceEnd (s : State) (d : DieNo) (k : Fin 4) : State :=
  (clusterTiles d k).foldl (fun s t => if (s.tile t).group.isSome then s.modTile t writtenTile else s) s

/-- QUIESCE may end: every tile is drained and no Sorus request of one is being served (R430, R373 step 2, R314). -/
def quiesced (s : State) (d : DieNo) (k : Fin 4) : Bool :=
  (clusterTiles d k).all fun t => tileDrained (s.tile t) && !sorusBusy (s.tile t).eng

/-- SAVE (R430): displace the retention area of each tile, then scan its state into it; no write for R182. A word of the area
with an uncorrectable error fails the owning group's launch (R366). -/
def saveCluster (s : State) (d : DieNo) (k : Fin 4) : State :=
  let c := (s.die d).clusters[k]
  (List.range 36).foldl (fun s i =>
    let t := clusterTile d k i
    let s := if (badIn (s.tile t).badLm (retentionAt c) areaBytes).isSome then s.failGroup t 0x13 0x0D 0 0 0 else s
    let x := s.tile t
    let (n, s) := s.draw
    let s := if inHbm (bufferAt c i) areaBytes then s.hbmFill (bufferAt c i) (memBytes x.lm (retentionAt c) areaBytes) else s
    s.setTile t { x with
      lm := memWrite x.lm (retentionAt c) (tileArea n x fun _ => []), badLm := healed x.badLm (retentionAt c) areaBytes }) s

/-- A cluster's regions resume; the quantum has not counted meanwhile (R430, R433), and requests withdrawn from the Sorus
sampler are made again (R314). -/
def resumeCluster (s : State) (d : DieNo) (k : Fin 4) : State :=
  let c := (s.die d).clusters[k]
  let ps := clusterGroups s d k
  let s := ps.foldl (fun s (l, p) => if l.ending.isSome then s
    else (regionTiles p.origin l.r.w l.r.h).foldl (fun s t =>
      rerequest (s.modTile t fun x => { x with running := true, stopped := false }) t) s) s
  ps.foldl (fun s (l, p) => s.modLaunch l.lnum fun l => { l with
    placed := l.placed.map fun q =>
      if q.rank == p.rank then { q with quantumAt := q.quantumAt + (s.dcycle - c.quietAt) } else q }) s

/-- The retention area of a tile (R430). -/
def retained (c : Cluster) (x : Tile) : List Byte := memBytes x.lm (retentionAt c) areaBytes

/-- Scan a tile's state in and put its displaced bytes back (R430, R446). A gated tile has lost the handles and the
translation cache, which the tile area does not hold (R374). -/
def wakeTileState (s : State) (c : Cluster) (gated : Bool) (i : Nat) (x : Tile) : Tile :=
  let x := scanTile (retained c x) x
  let x := { x with
    lm := memWrite x.lm (retentionAt c) (s.hbmBytes (bufferAt c i) areaBytes)
    badLm := healed x.badLm (retentionAt c) areaBytes }
  if gated then dropHandles x else x

/-- The retention areas and the buffer can be read back without an uncorrectable error, and the check of every area holds
(R431, R446). -/
def scanGood (s : State) (d : DieNo) (k : Fin 4) (n : Nat) : Bool :=
  let c := (s.die d).clusters[k]
  Config.scanOk n && inHbm c.pbase (36 * areaBytes) && !s.failedIn c.pbase (36 * areaBytes) &&
    (clusterTiles d k).all fun t =>
      (badIn (s.tile t).badLm (retentionAt c) areaBytes).isNone && areaSound (retained c (s.tile t))

/-- RESTORE failed (R431): the cluster's launches fail, and it ends ACTIVE and empty. -/
def scanFault (s : State) (d : DieNo) (k : Fin 4) : State :=
  (clusterGroups s d k).foldl (fun s (l, _) => s.stopLaunch l.lnum ⟨4, 0x13, 0x0D, 0, 0, 0⟩) s

/-- RESTORE from SAVED or POWERED: the tiles' state, or none when the scan fails. -/
def restoreTiles (s : State) (d : DieNo) (k : Fin 4) : Option State :=
  let c := (s.die d).clusters[k]
  if c.st = 1 then some s
  else
    let (n, s) := s.draw
    if !scanGood s d k n then none
    else some ((List.range 36).foldl (fun s i => s.modTile (clusterTile d k i) (wakeTileState s c (c.st == 4) i)) s)

/-- A debug halt that has waited for a cluster command takes effect (R378, R439): the tiles stop, the promises of
launches on the die end, and a DEBUG record is written. -/
def haltTakes (s : State) (d : DieNo) : State :=
  let x := s.die d
  if !x.halt || x.halted || x.clusters.toList.any (·.busy.isSome) then s
  else
    let s := s.setDie d { x with
      halted := true
      faultWait := x.faultWait ++ [⟨.mgmt d, 17 * 2 ^ 32 + 0xFFFF * 2 ^ 48 + d.val * 2 ^ 128⟩] }
    let voided (l : Launch) : Launch :=
      if l.placed.any (fun p => p.origin / 144 == d.val) then { l with voided := true, reserved := [] } else l
    s.modHub fun h => { h with launches := h.launches.map voided }

/-- A command ends in a state (R430). -/
def commandDone (s : State) (d : DieNo) (k : Fin 4) (st : Nat) : State :=
  haltTakes (s.modCluster d k fun c => { c with
    busy := none, st := st, trans := (c.trans + 1) % 2 ^ 16, asked := if st = 0 then [] else c.asked
    quietAt := if st = 1 then s.dcycle else c.quietAt }) d

/-- A command fails with a code, in a state (R431), which sets PEVENT bit 3 (R425). -/
def commandFailed (s : State) (d : DieNo) (k : Fin 4) (st e : Nat) : State :=
  setPevent (haltTakes (s.modCluster d k fun c => { c with
    busy := none, st := st, err := e, errv := true, restoreNext := false
    asked := if st = 0 then [] else c.asked }) d) 3

/-- The running command of a cluster ends, when it can (R430, R431). -/
def commandEnd (s : State) (d : DieNo) (k : Fin 4) : State :=
  match (s.die d).clusters[k].busy with
  | some 1 => if quiesced s d k then commandDone (quiesceEnd s d k) d k 1 else s
  | some 2 => commandDone (saveCluster s d k) d k 2
  | some 3 => commandDone s d k 3
  | some 4 => commandDone s d k 4
  | some 5 =>
    match restoreTiles s d k with
    | some s => commandDone (resumeCluster s d k) d k 0
    | none => commandFailed (scanFault s d k) d k 0 5
  | _ => s

/-- CLUSTER_COMMAND_END (R430). -/
def execClusterCommandEnd (d : DieNo) (k : Fin 4) (s : State) : Out State := .next (commandEnd s d k)

/-- RAIL_TIMEOUT (R431): UNGATE fails with RAIL_FAULT, and the cluster stays GATED. -/
def execRailTimeout (d : DieNo) (k : Fin 4) (s : State) : Out State :=
  .next (if (s.die d).clusters[k].busy = some 4 then commandFailed s d k 3 4 else s)

/-! ### Other registers and wake requests -/

/-- A write to CLSAVE (R429): refused while a command runs or the state is not ACTIVE or QUIESCED. -/
def clsaveSet (s : State) (d : DieNo) (k : Fin 4) (v : Nat) : State :=
  let c := (s.die d).clusters[k]
  if c.busy.isSome || 1 < c.st then refuse s d k 1
  else s.modCluster d k fun c => { c with rslot := bits v 0 4, pbase := bits v 21 31 * 2 ^ 21 }

/-- CLSAVE_WRITE (R429). -/
def execClsaveWrite (d : DieNo) (k : Fin 4) (v : W64) (s : State) : Out State := .next (clsaveSet s d k v.toNat)

/-- CLWAKE (R432): a write of 1 makes a wake request. -/
def execClwake (d : DieNo) (k : Fin 4) (v : W64) (s : State) : Out State :=
  .next (if bit v.toNat 0 then wakeCluster s d k else s)

/-- Serve the wake request of a cluster that runs no command (R429, R432). -/
def serveWake (s : State) (d : DieNo) (k : Fin 4) : State :=
  let x := s.die d
  let c := x.clusters[k]
  if c.busy.isSome || x.halted then s
  else if c.restoreNext && c.st == 4 then
    commandBegin (s.modCluster d k fun c => { c with restoreNext := false }) d k 5
  else if !c.wake then s
  else
    let s := s.modCluster d k fun c => { c with wake := false }
    if !c.autowake then s
    else if c.st = 1 || c.st = 2 then commandBegin s d k 5
    else if c.st = 3 then commandBegin (s.modCluster d k fun c => { c with restoreNext := true }) d k 4
    else s

end Sys2Proof.Machine
end

