-- ==== Sys2Proof/Machine/Engine.lean ====
section
/-! DEFINITION. The tile engine: jobs (R285, R289, R292), descriptors (R294-R296), its copies (R298-R300), deliveries
(R301) and side installs (R302). One execution of a copy instruction moves one piece, element or flit and advances
PROGRESS; the PC moves when the last is done, so a hold or a freeze resumes at PROGRESS (R304). -/
namespace Sys2Proof.Machine

/-- Change a collective. -/
def State.modColl (s : State) (id : Nat) (f : Collective → Collective) : State :=
  s.modHub fun h => { h with colls := h.colls.map fun c => if c.id == id then f c else c }

/-- The collective has ended (R305): P groups have had an ered end in it. -/
def collEnded (c : Collective) : Bool := decide (c.p ≤ c.ended.length)

/-- Drop the collectives that have ended and that no ered still waits on. -/
def State.purgeColls (s : State) : State :=
  s.modHub fun h => { h with colls := h.colls.filter fun c => !(collEnded c && c.waiting.isEmpty) }

/-- A rank's ered has ended in a collective. -/
def collEnd (rank : Nat) (c : Collective) : Collective :=
  { c with ended := if c.ended.contains rank then c.ended else c.ended ++ [rank] }

/-- A job that ends while it writes a collective's result ends its ered in that collective (R305). -/
def leaveColl (t : TileNo) (s : State) (x : Shared) : State :=
  match x, (s.tile t).group with
  | .writing id _, some g => (s.modColl id (collEnd g.rank)).purgeColls
  | _, _ => s

/-- Change the engine of a tile. -/
def State.modEng (s : State) (t : TileNo) (f : Engine → Engine) : State :=
  s.modTile t fun x => { x with eng := f x.eng }

/-! ### Descriptors -/

/-- A descriptor (R294). -/
structure Desc where
  src : W64
  dst : W64
  len : Nat
  w14 : Nat
  w18 : W64
  w20 : W64
  ctl : Nat
  w30 : W64
deriving DecidableEq, Repr

/-- The fields of 64 descriptor bytes (R294). Bits of a field that the table does not list are ignored, and count as no
reserved ones. DESIGN CHOICE, log 103. -/
def parseDesc (b : List Byte) : Desc :=
  { src := w64 (fld b 0 8), dst := w64 (fld b 8 8), len := fld b 16 4, w14 := fld b 20 4, w18 := w64 (fld b 24 8)
    w20 := w64 (fld b 32 8), ctl := fld b 40 8, w30 := w64 (fld b 48 8) }

/-- BAR, BAREN, SRCL, DSTL of CTL (R295). -/
def ctlBar (c : Nat) : Fin 32 := ⟨c % 32, by omega⟩
/-- See `ctlBar`. -/
def ctlBaren (c : Nat) : Bool := bit c 5
/-- See `ctlBar`. -/
def ctlSrcl (c : Nat) : Bool := bit c 6
/-- See `ctlBar`. -/
def ctlDstl (c : Nat) : Bool := bit c 7
/-- Element size in bytes (R295). -/
def ctlEsz (c : Nat) : Nat := 2 ^ bits c 8 2
/-- Index width in bytes (R295). -/
def ctlIw (c : Nat) : Nat := if bit c 10 then 8 else 4
/-- QUEUE (R295). -/
def ctlQueue (c : Nat) : Nat := bits c 12 3
/-- BLKLEN (R295). -/
def ctlBlk (c : Nat) : Nat := bits c 20 12

/-- Reserved bits of CTL are zero (R295). -/
def ctlClean (c : Nat) : Bool := !bit c 11 && !bit c 15 && bits c 32 32 == 0

/-- Two ranges of `n` bytes intersect, the addresses taken as naturals. -/
def rangesMeet (a b n : Nat) : Bool := a < b + n && b < a + n

/-- emove's limits (R296). -/
def moveOk (d : Desc) : Bool :=
  let c := d.ctl
  ctlClean c && 0 < d.len &&
    !(ctlSrcl c == ctlDstl c && rangesMeet d.src.toNat d.dst.toNat d.len) &&
    (!bit c 19 || (ctlDstl c && d.dst.toNat % 32 == 0 && d.len % 32 == 0 && d.len / 32 ≤ 4095))

/-- estrd's limits (R296). -/
def strideOk (d : Desc) : Bool :=
  ctlClean d.ctl && 1 ≤ d.len && d.len ≤ 65536 && 1 ≤ d.w14 && d.w14 ≤ 65535

/-- egath's and escat's limits (R296). -/
def gatherOk (d : Desc) : Bool :=
  ctlClean d.ctl && 1 ≤ d.len && d.len ≤ 65536 && d.w18.toNat % ctlIw d.ctl == 0

/-- estream's and edrain's limits (R296). -/
def streamOk (d : Desc) (into : Bool) : Bool :=
  let c := d.ctl
  ctlClean c && 1 ≤ d.len && d.len ≤ 2 ^ 20 && (if into then d.src else d.dst).toNat % 32 == 0 &&
    (if into then 3 ≤ ctlQueue c else 4 ≤ ctlQueue c) && (!into || ctlBlk c == 0 || bit c 16)

/-! ### Reaching memory -/

/-- What a part of a job comes to: it goes on, it waits (R293), it goes on in a later cycle, or it ends the job (R286). -/
inductive Eng (α : Type)
  | ok (a : α) (s : State)
  | hold (s : State)
  | later (s : State)
  | fail (err : Nat) (efault : W64) (s : State)

/-- Sequence two parts of a job. -/
def Eng.bind {α β : Type} (x : Eng α) (f : α → State → Eng β) : Eng β :=
  match x with
  | .ok a s => f a s
  | .hold s => .hold s
  | .later s => .later s
  | .fail e v s => .fail e v s

/-- Translate a virtual address for the engine of tile `t`; a miss holds the engine (R304, R235). -/
def engTranslate (t : TileNo) (va : W64) (wr : Bool) (s : State) : Eng Nat :=
  if !canonical va then .fail 4 va s
  else
    let x := s.tile t
    match tlbFind x (s.ctxOf (.engine t)) va wr with
    | some e => .ok (tlbPa e va) (s.setTile t (tlbTouch x e))
    | none => .hold ((s.holdWalk (.engine t) va wr).modEng t fun e => { e with state := .waiting })

/-- The largest natural piece at an address, within what remains (R298, R223). -/
def pieceAt (a rem : Nat) : Nat := ([64, 32, 8, 4, 2].find? fun n => a % n == 0 && n ≤ rem).getD 1

/-- An answer of a target to the engine (R286): a failure is BOUNDS, an uncorrectable error MACHINE_CHECK. -/
def engAnswer (va : W64) (r : Res × State) : Eng (List Byte) :=
  match r.1 with
  | .ok bs => .ok bs r.2
  | .wait => .hold r.2
  | .fail => .fail 4 va r.2
  | .poison => .fail 8 va r.2

/-- One natural piece of local memory, once its bank serves the engine (R265). A piece outside local memory is out of bounds
(R286, R296). -/
def localPiece (t : TileNo) (a : W64) (k : Nat) (s : State) : Eng (List Byte) :=
  if lmSize < a.toNat + k then .fail 4 a s
  else match takeBank .engine a.toNat 1 (s.tile t) with
    | (false, x) => .later (s.setTile t x)
    | (true, x) =>
      if (badIn x.badLm a.toNat k).isSome then .fail 8 a s else .ok (memBytes x.lm a.toNat k) (s.setTile t x)

/-- Physical address of local memory, as the tile's own window shows it (R220). -/
def ownWindow (t : TileNo) (off : Nat) : Nat := 8 * 2 ^ 48 + (tileDie t).val * 2 ^ 28 + tileIdx t * 2 ^ 20 + off

/-- The hart's own earlier accesses let a relaxed read of the engine pass (R261, R262, R268). The deliveries of the running job
never hold one back: a read may be made ahead of them (R298, R303). A failed link on the way does (R417). -/
def readOpen (s : State) (t : TileNo) (pa k : Nat) : Bool :=
  s.tripOpen (hartSite (.engine t)) pa k &&
  let x : Access :=
    { id := 0, pc := 0, va := 0, pa := pa, n := k, kind := .load, dest := .none, relaxed := true, acquire := false
      blocking := false, handle := none, ctx := 0 }
  (s.tile t).eng.r.accesses.all fun y => y.units != 0 || y.post.isSome || !mustPrecede y x

/-- One natural piece, local or global. -/
def readPiece (t : TileNo) (loc : Bool) (a : W64) (k : Nat) (s : State) : Eng (List Byte) :=
  if loc then (if readOpen s t (ownWindow t a.toNat) k then localPiece t a k s else .later s)
  else (engTranslate t a false s).bind fun pa s =>
    if readOpen s t pa k then engAnswer a (targetRead s pa k (.engine t)) else .later s

/-- Bytes of the unit in hand that were read ahead from an address (R303). -/
def aheadAt (e : Engine) (a : W64) (k : Nat) : Option (List Byte) :=
  (e.ahead.find? fun x => x.1 == e.next && x.2.1 == a && x.2.2.length == k).map (·.2.2)

/-- Read the pieces of `n` bytes and keep them, so that a hold loses none of them (R304); `fuel` bounds their number. With
`src`, they are those of the source, which may have been read ahead (R303). -/
def readPieces (t : TileNo) (src loc : Bool) : Nat → W64 → Nat → State → Eng Unit
  | 0, _, _, s => .ok () s
  | fuel + 1, a, n, s =>
    if n = 0 then .ok () s
    else
      let k := pieceAt a.toNat n
      let got : Eng (List Byte) := match if src then aheadAt (s.tile t).eng a k else none with
        | some bs => .ok bs s
        | none => readPiece t loc a k s
      got.bind fun bs s =>
        readPieces t src loc fuel (a + w64 k) (n - k) (s.modEng t fun e => { e with buf := e.buf ++ bs })

/-- Read `n` bytes, local or global, in natural pieces. What earlier attempts at the unit in hand have read is not read
again (R304). -/
def readBytes (t : TileNo) (src loc : Bool) (a : W64) (n : Nat) (s : State) : Eng (List Byte) :=
  let e := (s.tile t).eng
  let have_ := min n (e.buf.length - e.used)
  (readPieces t src loc n (a + w64 have_) (n - have_) s).bind fun _ s =>
    .ok (((s.tile t).eng.buf.drop e.used).take n) (s.modEng t fun e => { e with used := e.used + n })

/-- See `readBytes`, for what is not read ahead. -/
def engRead (t : TileNo) (loc : Bool) (a : W64) (n : Nat) (s : State) : Eng (List Byte) := readBytes t false loc a n s

/-! ### Deliveries -/

/-- Units of the running instruction are finished (R293). -/
def engProgress (t : TileNo) (n : Nat) (s : State) : State := s.modEng t fun e => { e with progress := e.progress + n }

/-- The running instruction has issued `n` units (R304). -/
def engNext (t : TileNo) (n : Nat) (s : State) : State :=
  s.modEng t fun e => { e with
    next := e.next + n, buf := [], used := 0, ahead := e.ahead.filter (·.1 != e.next), state := .running }

/-- Count a delivery of `n` bytes against a barrier of a tile (R301). -/
def countBar (b : Option (Fin 32)) (n : Nat) (x : Tile) : Tile :=
  match b with
  | some b => modBar b (barDeliver n) x
  | none => x

/-- The barrier of a job's deliveries (R295, R301). -/
def jobBar (c : Nat) : Option (Fin 32) := if ctlBaren c then some (ctlBar c) else none

/-- A delivery of a tile's engine to its own local memory asks for its bank (R265): performed and counted at once, or it
waits (R301). -/
def ownDelivery (t : TileNo) (off : Nat) (bs : List Byte) (b : Option (Fin 32)) (s : State) : Res × State :=
  match takeBank .engine off 1 (s.tile t) with
  | (false, x) => (.wait, s.setTile t x)
  | (true, x) => (.ok [], s.setTile t (countBar b bs.length (tileWrite off bs x)))

/-- One delivery issues as a relaxed access (R268, R301): `units` of PROGRESS are finished when it completes. Sixteen
accesses at most are outstanding (R243). A local one is performed at once if its bank serves it. -/
def engDeliver (t : TileNo) (c : Nat) (loc : Bool) (a : W64) (bs : List Byte) (units : Nat) (s : State) : Eng Unit :=
  if 16 ≤ (s.tile t).eng.r.accesses.length then .later s
  else if loc && decide (lmSize < a.toNat + bs.length) then .fail 4 a s
  else
    (if loc then .ok (ownWindow t a.toNat) s else engTranslate t a true s).bind fun pa s =>
    let (id, s) := s.draw
    let x : Access :=
      { id := id, pc := (s.tile t).eng.r.pc, va := a, pa := pa, n := bs.length, kind := .store bs, dest := .none
        relaxed := true, acquire := false, blocking := false, handle := none, ctx := s.ctxOf (.engine t)
        due := if loc then 0 else s.now + Config.delay id, bar := jobBar c, units := units, loc := loc }
    let put (s : State) : State := s.modEng t fun e => { e with r := { e.r with accesses := e.r.accesses ++ [x] } }
    if loc && (s.tile t).eng.r.accesses.all fun y => y.post.isSome || !mustPrecede y x then
      match ownDelivery t a.toNat bs (jobBar c) s with
      | (.ok _, s) => let s := engProgress t units s; .ok () s
      | (_, s) => let s := put s; .ok () s
    else let s := put s; .ok () s

/-- Take again one handle of the running job after a restore (R284), as the xlat of R246 takes it: its page is translated
anew, and a range that leaves the page is out of bounds. -/
def retakeHandle (t : TileNo) (i : Fin 8) (s : State) : Eng Unit :=
  let h := (s.tile t).eng.r.h[i]
  (engTranslate t h.vbase h.w s).bind fun pa s =>
  match tlbFind (s.tile t) (s.ctxOf (.engine t)) h.vbase h.w with
  | some e =>
    if e.page + e.size < bits h.vbase.toNat 0 57 + h.len then .fail 4 h.vbase s
    else .ok () (s.modEng t fun g => { g with
      retake := g.retake.filter (· != i)
      r := { g.r with h := g.r.h.set i { h with valid := true, pb := pa, page := e.page, pageSize := e.size } } })
  | none => .hold s

/-! ### Running an engine-only instruction -/

/-- Settle an answer of a job: waiting shows in STATE, an end starts the job-end sequence (R286, R293). -/
def engSettle (t : TileNo) (x : Eng State) : State :=
  match x with
  | .ok s' _ => s'
  | .hold s => s.modEng t fun e => { e with state := .waiting }
  | .later s => s
  | .fail err v s => endJob s t err v

/-- The instruction is done once its deliveries have completed: gd receives its result, and the PC moves on (R297). -/
def engDone (t : TileNo) (d : Reg) (v : Nat) (s : State) : State :=
  if regsBusy (s.tile t).eng.r then s
  else complete (writeG d (w64 v) 1 (s.modEng t fun e => { e with
    result := w64 v, state := .running, progress := 0, next := 0, buf := [], used := 0, ahead := [], last := false
    shared := .none, other := none }))

/-- The descriptor an engine-only instruction names, once read: the one read at the job's start, or another in local memory
(R289, R297). -/
def descOf (e : Engine) (a : W64) : Option (List Byte) :=
  if e.job.any fun k => a.toNat = bits k.toNat 0 19 then some e.desc
  else (e.other.filter fun p => p.1 == a.toNat).map (·.2)

/-- Read 64 descriptor bytes once their bank serves the engine (R265); a bad word ends the job (R286, R366). -/
def readDesc (t : TileNo) (a : W64) (s : State) : State :=
  match takeBank .engine a.toNat 1 (s.tile t), badIn (s.tile t).badLm a.toNat 64 with
  | (false, x), _ => s.setTile t x
  | (true, _), some w => endJob s t 8 (w64 (4 * w))
  | (true, x), none => (s.setTile t x).modEng t fun e => { e with other := some (a.toNat, memBytes x.lm a.toNat 64) }

/-- Run one step of an engine-only instruction, which begins once no unmarked and no acquiring access of the hart is
outstanding (R261, R263, R268): the descriptor's check, then `body` (R296, R297). -/
def engRun (i : Instr) (d a : Reg) (ok : Desc → Bool) (body : TileNo → Desc → State → Eng State) (s : State) : Out State :=
  issue i { gs := [a], gd := some d } (fun s =>
    match s.hart with
    | .engine t =>
      let va := plainG s.regs a
      if !accessOpen s then s
      else if va.toNat % 64 ≠ 0 then endJob s t 3 va
      else if 0x7FFC0 < va.toNat then endJob s t 4 va
      else match descOf (s.tile t).eng va with
        | none => readDesc t va s
        | some b =>
          let d := parseDesc b
          if !ok d then endJob s t 2 va
          else engSettle t (body t d (s.modEng t fun e => { e with used := 0 }))
    | _ => s) s

/-- A piece of a copy: source and destination addresses, bytes, and the units of PROGRESS it stands for (R298-R300). -/
structure Piece where
  src : W64
  dst : W64
  n : Nat
  units : Nat
deriving DecidableEq, Repr

/-- The piece of an emove at byte `p` (R298). -/
def movePiece (d : Desc) (p : Nat) : Piece :=
  let n := pieceAt (d.dst + w64 p).toNat (d.len - p)
  ⟨d.src + w64 p, d.dst + w64 p, n, n⟩

/-- The piece of an estrd at byte `p` of its rows (R298). -/
def stridePiece (d : Desc) (p : Nat) : Piece :=
  let r := w64 (p / d.len)
  let o := p % d.len
  let dst := d.dst + r * d.w20 + w64 o
  let n := pieceAt dst.toNat (d.len - o)
  ⟨d.src + r * d.w18 + w64 o, dst, n, n⟩

/-- Element `i` of an egath or escat whose index is `x` (R299). -/
def gatherPiece (gather : Bool) (d : Desc) (x : W64) (i : Nat) : Piece :=
  let esz := ctlEsz d.ctl
  let ea := (if gather then d.src else d.dst) + x * w64 esz
  let el := (if gather then d.dst else d.src) + w64 (i * esz)
  if gather then ⟨ea, el, esz, 1⟩ else ⟨el, ea, esz, 1⟩

/-- Flit `j` of an estream (R300). -/
def flitPiece (d : Desc) (j : Nat) : Piece := ⟨d.src + w64 (32 * j), 0, 32, 1⟩

/-- The bytes of the piece in hand: those read ahead (R303), or read now. -/
def pieceData (t : TileNo) (c : Nat) (p : Piece) (s : State) : Eng (List Byte) := readBytes t true (ctlSrcl c) p.src p.n s

/-- Move one piece from source to destination (R298, R299). -/
def copyPiece (t : TileNo) (c : Nat) (p : Piece) (s : State) : Eng State :=
  (pieceData t c p s).bind fun bs s =>
  (engDeliver t c (ctlDstl c) p.dst bs p.units s).bind fun _ s => let s := engNext t p.units s; .ok s s

/-- emove (R298, R302): the next piece, or the end with its side install, which follows its last delivery. -/
def moveBody (rd : Reg) (t : TileNo) (d : Desc) (s : State) : Eng State :=
  let p := (s.tile t).eng.next
  if d.len ≤ p then
    if regsBusy (s.tile t).eng.r then .later s
    else
      let s := if bit d.ctl 19 then
        s.modTile t (sideInstall (bits d.w30.toNat 0 16) (bits d.w30.toNat 16 16) (d.dst.toNat / 32) (d.len / 32)) else s
      let s := engDone t rd d.len s
      .ok s s
  else copyPiece t d.ctl (movePiece d p) s

/-- estrd (R298): rows in increasing order, pieces in increasing address. -/
def strideBody (rd : Reg) (t : TileNo) (d : Desc) (s : State) : Eng State :=
  let p := (s.tile t).eng.next
  if d.len * d.w14 ≤ p then let s := engDone t rd (d.len * d.w14) s; .ok s s
  else copyPiece t d.ctl (stridePiece d p) s

/-- egath and escat (R299): one element. R299's checks name `ea` alone; a misaligned address on the data side ends the job
with ALIGN as R286 has it for every element, EFAULT that address. DEDUCED, log 86. -/
def gatherBody (gather : Bool) (rd : Reg) (t : TileNo) (d : Desc) (s : State) : Eng State :=
  let i := (s.tile t).eng.next
  let c := d.ctl
  if d.len ≤ i then let s := engDone t rd d.len s; .ok s s
  else
    (engRead t true (d.w18 + w64 (i * ctlIw c)) (ctlIw c) s).bind fun xb s =>
    let p := gatherPiece gather d (w64 (leVal xb)) i
    let ea := if gather then p.src else p.dst
    let el := if gather then p.dst else p.src
    if ea.toNat % p.n ≠ 0 then .fail 3 ea s
    else if el.toNat % p.n ≠ 0 then .fail 3 el s
    else copyPiece t c p s

/-- estream (R300): one flit into an input queue, when it has room. -/
def streamBody (rd : Reg) (t : TileNo) (d : Desc) (s : State) : Eng State :=
  let j := (s.tile t).eng.next
  let c := d.ctl
  if d.len ≤ j then let s := engDone t rd d.len s; .ok s s
  else if inRoom (s.tile t) (fin8 (ctlQueue c)) < 4 then .hold s
  else
    (pieceData t c (flitPiece d j) s).bind fun bs s =>
      let h := bit c 16 && (j == 0 || (ctlBlk c != 0 && j % ctlBlk c == 0))
      let f : Flit := { data := BitVec.ofNat 256 (leVal bs), h := h, e := bit c 17 && j + 1 == d.len }
      let s := s.modTile t fun x => countBar (jobBar c) 32 (putFlit x (fin8 (ctlQueue c)) f (x.cycle + 1))
      let s := engProgress t 1 (engNext t 1 s)
      .ok s s

/-- edrain (R300): one flit out of an output queue; the result counts the flits. -/
def drainBody (rd : Reg) (t : TileNo) (d : Desc) (s : State) : Eng State :=
  let j := (s.tile t).eng.next
  let c := d.ctl
  if d.len ≤ j || (s.tile t).eng.last then let s := engDone t rd j s; .ok s s
  else match peekFlit (s.tile t) (fin8 (ctlQueue c)) with
    | none => .hold s
    | some f =>
      (engDeliver t c (ctlDstl c) (d.dst + w64 (32 * j)) (leBytes 32 f.data.toNat) 1 s).bind fun _ s =>
        let s := engNext t 1 (s.modTile t fun x => dropFlit x (fin8 (ctlQueue c)))
        let s := s.modEng t fun e => { e with last := bit c 18 && f.e }
        .ok s s

/-! ### Reading ahead -/

/-- The next position of a copy after one (R298-R300). -/
def nextPos (piece : Nat → Piece) : Nat → Nat → Nat
  | 0, p => p
  | k + 1, p => nextPos piece k (p + (piece p).units)

/-- The pieces and the end of a copy, for reading ahead (R303). -/
def aheadOf (i : Instr) (t : TileNo) (s : State) : Option (Desc × (Nat → Piece) × Nat) :=
  let x := s.tile t
  let run (a : Reg) (ok : Desc → Bool) (piece : Desc → Nat → Piece) (len : Desc → Nat) : Option (Desc × (Nat → Piece) × Nat) :=
    (((descOf x.eng (plainG x.eng.r a)).map parseDesc).filter ok).map fun d => (d, piece d, len d)
  let g (gather : Bool) (d : Desc) (i : Nat) : Piece :=
    gatherPiece gather d (w64 (memRead x.lm (d.w18.toNat + i * ctlIw d.ctl) (ctlIw d.ctl))) i
  match i with
  | .emove _ a => run a moveOk movePiece (·.len)
  | .estrd _ a => run a strideOk stridePiece fun d => d.len * d.w14
  | .egath _ a => run a gatherOk (g true) (·.len)
  | .escat _ a => run a gatherOk (g false) (·.len)
  | .estream _ a => run a (streamOk · true) flitPiece (·.len)
  | _ => none

/-- The natural pieces of `n` bytes at an address: address and length of each (R298). -/
def partsOf : Nat → W64 → Nat → List (W64 × Nat)
  | 0, _, _ => []
  | fuel + 1, a, n =>
    if n = 0 then []
    else
      let k := pieceAt a.toNat n
      (a, k) :: partsOf fuel (a + w64 k) (n - k)

/-- In a cycle the engine may read any part of the source that is still to be consumed, instead of going on: which one is a
free choice, so that its element reads are performed in any order (R262, R268, R303). A read that would miss, wait or fail is
discarded. Whether it has read one. -/
def readAhead (i : Instr) (t : TileNo) (s : State) : Bool × State :=
  let e := (s.tile t).eng
  let (n, s) := s.draw
  match Config.readAhead n, aheadOf i t s with
  | m + 1, some (d, piece, len) =>
    let pos := nextPos piece (m / 64) e.next
    let p := piece pos
    match (partsOf p.n p.src p.n)[m % 64]? with
    | none => (false, s)
    | some (a, k) =>
      if len ≤ pos || (pos == e.next && !e.buf.isEmpty) || e.ahead.any fun x => x.1 == pos && x.2.1 == a then (false, s)
      else match readPiece t (ctlSrcl d.ctl) a k s with
        | .ok bs s => (true, s.modEng t fun e => { e with ahead := e.ahead ++ [(pos, a, bs)] })
        | _ => (false, s)
  | _, _ => (false, s)

/-! ### Instructions -/

/-- EMOVE (R298). -/
def execEmove (d a : Reg) (s : State) : Out State :=
  engRun (.emove d a) d a moveOk (moveBody d) s
/-- ESTRD (R298). -/
def execEstrd (d a : Reg) (s : State) : Out State :=
  engRun (.estrd d a) d a strideOk (strideBody d) s
/-- EGATH (R299). -/
def execEgath (d a : Reg) (s : State) : Out State :=
  engRun (.egath d a) d a gatherOk (gatherBody true d) s
/-- ESCAT (R299). -/
def execEscat (d a : Reg) (s : State) : Out State :=
  engRun (.escat d a) d a gatherOk (gatherBody false d) s
/-- ESTREAM (R300). -/
def execEstream (d a : Reg) (s : State) : Out State :=
  engRun (.estream d a) d a (streamOk · true) (streamBody d) s
/-- EDRAIN (R300). -/
def execEdrain (d a : Reg) (s : State) : Out State :=
  engRun (.edrain d a) d a (streamOk · false) (drainBody d) s

/-! ### Job start and end -/

/-- The engine may take its next job (R289). -/
def mayStart (x : Tile) : Bool :=
  x.eng.job.isNone && !x.eng.queue.isEmpty && x.eng.state != .error

/-- A job starts with the kick word, its descriptor read (R285, R289): g1 and g2 are set, the PC goes to 8 × OP. A bad word of
the descriptor ends it at once (R286, R366). -/
def startJob (k : W64) (rest : List W64) (x : Tile) : Tile :=
  let desc := bits k.toNat 0 19
  let r : Regs := { pc := w64 (8 * kickOp k), g := ((Vector.replicate 32 0).set 1 k).set 2 (w64 desc) }
  { x with eng := { x.eng with
      r := r, job := some k, queue := rest, desc := memBytes x.lm desc 64, other := none, state := .running, progress := 0
      next := 0, buf := [], used := 0, ahead := [], last := false
      result := 0, ending := (badIn x.badLm desc 64).map fun w => (8, w64 (4 * w)), shared := .none, retake := [] } }

/-- ENGINE_JOB_START (R285, R289), once the bank of the descriptor serves the engine (R265). -/
def execEngineJobStart (t : TileNo) (s : State) : Out State :=
  .next <| s.modTile t fun x =>
    match x.eng.queue with
    | [] => x
    | k :: rest =>
      if !mayStart x then x
      else match takeBank .engine (bits k.toNat 0 19) 1 x with
        | (false, x) => x
        | (true, x) => startJob k rest x

/-- The job-end sequence (R292): RESULT, the error state with the queued jobs discarded, and the mailbox. -/
def endSequence (x : Tile) (k : W64) (err : Nat) (efault : W64) : Tile :=
  let e := x.eng
  let result := (if err = 0 then e.result.toNat % 2 ^ 32 else 0) + err * 2 ^ 32
  let x := tileWrite (bits k.toNat 0 19 + 0x38) (leBytes 8 result) x
  let dropped := if err = 0 then 0 else e.queue.length
  let queue := if err = 0 then e.queue else []
  { x with eng := { e with
      job := none, desc := [], other := none, ending := none, shared := .none, retake := []
      queue := queue, r := {}
      state := if err = 0 then .idle else .error
      efault := if err = 0 then 0 else efault
      err := err
      errorBit := e.errorBit || err != 0
      done := (e.done + 1 + dropped) % 2 ^ 16
      tag := bits k.toNat 24 8
      idleBit := queue.isEmpty } }

/-- ENGINE_JOB_END (R292): once every access of the job has completed, posts with their statuses (R412), and the work handed
to a shared engine, and the bank of RESULT serves the engine (R265). An ered that ends while its result is written has ended
in its collective (R305). A machine check fails the group's launch in the same way as a strand's (R365). -/
def execEngineJobEnd (t : TileNo) (s : State) : Out State :=
  let x := s.tile t
  .next <| match x.eng.job, x.eng.ending with
  | some k, some (err, efault) =>
    if regsBusy x.eng.r || sorusBusy x.eng then s
    else match takeBank .engine (bits k.toNat 0 19 + 0x38) 1 x with
      | (false, x) => s.setTile t x
      | (true, x) =>
        let s := leaveColl t (s.setTile t (endSequence x k err efault)) x.eng.shared
        if err = 8 then s.failGroup t 0x13 0x0D 0 efault 0 else s
  | _, _ => s

/-- KICK: a store to the tile window's KICK register (R287). It waits while four jobs are queued. -/
def execKick (t : TileNo) (w : W64) (s : State) : Out State :=
  let (r, s') := accessTile s t 0xC0000 8 (some (leBytes 8 w.toNat)) (.event (.kick t w))
  .next (if r = .wait then s'.defer (.kick t w) else s')

end Sys2Proof.Machine
end

