-- ==== Sys2Proof/Machine/Vector.lean ====
section
/-! DEFINITION. Lanes of vector registers, masks and the shared forms of vector instructions (R68, R69, R123-R127,
R165). -/
namespace Sys2Proof.Machine

/-- Element `i` of width `w` (R68). -/
def laneAt (w : Nat) (v : V512) (i : Nat) : Nat := (v.extractLsb' (w * i) w).toNat

/-- A vector from its elements, lowest first (R68). -/
def ofLanes (w : Nat) (l : List Nat) : V512 := BitVec.ofNat 512 (l.foldr (fun x acc => x % 2 ^ w + 2 ^ w * acc) 0)

/-- The elements of a vector. -/
def lanesOf (w : Nat) (v : V512) : List Nat := (List.range (512 / w)).map (laneAt w v)

/-- What the lanes an instruction does not write hold after it: the old contents, or zero in a bound destination
(R124, R165). -/
def keepOf (s : State) (d : Reg) : V512 := if (boundTo s true d).isSome then 0 else s.me.v[d]

/-- The lanes that the mask enables from `f`, the others from `keep` (R123, R124). -/
def masked (w : Nat) (m : W64) (keep : V512) (f : Nat → Nat × FFlags) : V512 × FFlags :=
  let l := (List.range (512 / w)).map fun i => if m.getLsbD i then f i else (laneAt w keep i, 0)
  (ofLanes w (l.map (·.1)), orFlags (l.map (·.2)))

/-- Two vector sources, in operand order (R165). -/
def vsrc2 (a b : Reg) (s : State) : V512 × V512 × State :=
  let (x, p, s) := popV false a s
  let (y, _, s) := popV p b s
  (x, y, s)

/-- Three vector sources, in operand order a, b, d (R165). -/
def vsrc3 (a b d : Reg) (s : State) : V512 × V512 × V512 × State :=
  let (x, p, s) := popV false a s
  let (y, p, s) := popV p b s
  let (z, _, s) := popV p d s
  (x, y, z, s)

/-- A word that is illegal under the FMT8 in force (R17, R69, R126). -/
def illegalNow (i : Instr) (s : State) : Out State := issue i {} (fun s => raise .illegal (w64 (encode i)) s) s

/-- Issue an instruction of type `t`, whose element FMT8 resolves now; a class the op does not allow is illegal (R69,
R126). -/
def issueTyped (i : Instr) (t : VType) (cls : Elem → Bool) (nd : Need) (k : Elem → State → State) (s : State) :
    Out State :=
  match elemOf t s.me.fmt8.toNat with
  | some e => if cls e then issue i nd (k e) s else illegalNow i s
  | none => illegalNow i s

/-- A floating element. -/
def isFlt : Elem → Bool
  | .flt _ => true
  | .int .. => false
/-- An integer element. -/
def isInt : Elem → Bool
  | .flt _ => false
  | .int .. => true
/-- Any element. -/
def anyElem (_ : Elem) : Bool := true

/-- Bits of an element. -/
def elemWidth : Elem → Nat
  | .flt f => f.width
  | .int w _ => w

/-- Write a masked element-wise result and its flags, and complete (R124, R79). -/
def finishV (d : Reg) (lat : Nat) (r : V512 × FFlags) (s : State) : State :=
  complete (raiseFlags r.2 (writeV d r.1 lat s))

/-- An element-wise form with two vector sources (R124). -/
def lanewise2 (i : Instr) (t : VType) (cls : Elem → Bool) (lat : Nat) (f : Elem → RMode → Nat → Nat → Nat × FFlags)
    (d a b : Reg) (x : Reg8) (s : State) : Out State :=
  issueTyped i t cls { vs := [a, b], vd := some d, ms := [x] } (fun e s0 =>
    let (va, vb, s) := vsrc2 a b s0
    let w := elemWidth e
    finishV d lat (masked w (readM s0 x) (keepOf s0 d) fun j =>
      f e (modeNow s0) (laneAt w va j) (laneAt w vb j)) s) s

/-- An element-wise form with one vector source (R124). -/
def lanewise1 (i : Instr) (t : VType) (cls : Elem → Bool) (lat : Nat) (f : Elem → RMode → Nat → Nat × FFlags)
    (d a : Reg) (x : Reg8) (s : State) : Out State :=
  issueTyped i t cls { vs := [a], vd := some d, ms := [x] } (fun e s0 =>
    let (va, _, s) := popV false a s0
    let w := elemWidth e
    finishV d lat (masked w (readM s0 x) (keepOf s0 d) fun j => f e (modeNow s0) (laneAt w va j)) s) s

/-- An element-wise form that reads vd as well (R130). -/
def lanewise3 (i : Instr) (t : VType) (cls : Elem → Bool) (lat : Nat)
    (f : Elem → RMode → Nat → Nat → Nat → Nat × FFlags) (d a b : Reg) (x : Reg8) (s : State) : Out State :=
  issueTyped i t cls { vs := [a, b, d], vd := some d, ms := [x] } (fun e s0 =>
    let (va, vb, vd, s) := vsrc3 a b d s0
    let w := elemWidth e
    finishV d lat (masked w (readM s0 x) (keepOf s0 d) fun j =>
      f e (modeNow s0) (laneAt w va j) (laneAt w vb j) (laneAt w vd j)) s) s

end Sys2Proof.Machine
end

