-- ==== Sys2Proof/Machine/VectorFp.lean ====
section
/-! DEFINITION. Floating element-wise arithmetic, majors 0x20 and 0x21 (R72-R74, R128-R130). -/
namespace Sys2Proof.Machine

/-- Round an exact result of an operation into its format, with the flags of both (R77, R129). -/
def roundTo (f : Fmt) (mode : RMode) (r : Num × FFlags) : Nat × FFlags :=
  let (x, fl) := encodeF f false mode r.1
  (x, fl ||| r.2)

/-- A lane operation on a floating element; an integer element never reaches it (R126). -/
def onFlt (e : Elem) (g : Fmt → Nat × FFlags) : Nat × FFlags :=
  match e with
  | .flt f => g f
  | .int .. => (0, 0)

/-- a + b (R128). -/
def faddLane (e : Elem) (mode : RMode) (x y : Nat) : Nat × FFlags :=
  onFlt e fun f => roundTo f mode (addNum mode (decodeF f x) (decodeF f y))
/-- a − b (R128). -/
def fsubLane (e : Elem) (mode : RMode) (x y : Nat) : Nat × FFlags :=
  onFlt e fun f => roundTo f mode (addNum mode (decodeF f x) (negNum (decodeF f y)))
/-- a × b (R128). -/
def fmulLane (e : Elem) (mode : RMode) (x y : Nat) : Nat × FFlags :=
  onFlt e fun f => roundTo f mode (mulNum (decodeF f x) (decodeF f y))
/-- minimumNumber or maximumNumber of two codes (R74). -/
def fpick (wantMax : Bool) (f : Fmt) (x y : Nat) : Nat :=
  canonF f (if takesSecond wantMax (decodeF f x) (decodeF f y) then y else x)
/-- vmin, vmax (R74). -/
def fpickLane (wantMax : Bool) (e : Elem) (_ : RMode) (x y : Nat) : Nat × FFlags :=
  onFlt e fun f => (fpick wantMax f x y, 0)
/-- A code with a given sign; NaN becomes canonical, and an unsigned format keeps its codes (R72, R128, R129). -/
def withSign (f : Fmt) (neg : Bool) (x : Nat) : Nat :=
  match f.kind, decodeF f x with
  | _, .nan => f.nanBits
  | .ieee, _ => x % 2 ^ (f.width - 1) + b2n neg * 2 ^ (f.width - 1)
  | .signed8, _ => if x % 128 = 0 then 0 else x % 128 + b2n neg * 128
  | .unsigned8, _ => x
/-- vabs (R128, R129). -/
def fabsLane (e : Elem) (_ : RMode) (x : Nat) : Nat × FFlags := onFlt e fun f => (withSign f false x, 0)
/-- vneg (R128); in an unsigned format only zero has a negative (R129). -/
def fnegLane (e : Elem) (_ : RMode) (x : Nat) : Nat × FFlags :=
  onFlt e fun f =>
    if f.kind = .unsigned8 then (if x = 0 then 0 else 0xFF, if x = 0 ∨ x = 0xFF then 0 else fInvalid)
    else (withSign f (!bit x (f.width - 1)) x, 0)
/-- vcpysgn (R128): the sign bit is that of b's code. -/
def fsgnLane (e : Elem) (_ : RMode) (x y : Nat) : Nat × FFlags :=
  onFlt e fun f => (withSign f (bit y (f.width - 1)) x, 0)
/-- The fused forms (R130). -/
def fmaLane (negP negC : Bool) (e : Elem) (mode : RMode) (x y z : Nat) : Nat × FFlags :=
  onFlt e fun f => roundTo f mode (fmaNum mode negP negC (decodeF f x) (decodeF f y) (decodeF f z))

/-- vaddFp (R128). -/
def execVaddFp (t : VType) (d a b : Reg) (x : Reg8) (s : State) : Out State :=
  lanewise2 (.vaddFp t d a b x) t isFlt 8 faddLane d a b x s
/-- vsubFp (R128). -/
def execVsubFp (t : VType) (d a b : Reg) (x : Reg8) (s : State) : Out State :=
  lanewise2 (.vsubFp t d a b x) t isFlt 8 fsubLane d a b x s
/-- vmulFp (R128). -/
def execVmulFp (t : VType) (d a b : Reg) (x : Reg8) (s : State) : Out State :=
  lanewise2 (.vmulFp t d a b x) t isFlt 8 fmulLane d a b x s
/-- vminFp (R128). -/
def execVminFp (t : VType) (d a b : Reg) (x : Reg8) (s : State) : Out State :=
  lanewise2 (.vminFp t d a b x) t isFlt 2 (fpickLane false) d a b x s
/-- vmaxFp (R128). -/
def execVmaxFp (t : VType) (d a b : Reg) (x : Reg8) (s : State) : Out State :=
  lanewise2 (.vmaxFp t d a b x) t isFlt 2 (fpickLane true) d a b x s
/-- vcpysgn (R128). -/
def execVcpysgn (t : VType) (d a b : Reg) (x : Reg8) (s : State) : Out State :=
  lanewise2 (.vcpysgn t d a b x) t isFlt 2 fsgnLane d a b x s
/-- vabsFp (R128). -/
def execVabsFp (t : VType) (d a : Reg) (x : Reg8) (s : State) : Out State :=
  lanewise1 (.vabsFp t d a x) t isFlt 2 fabsLane d a x s
/-- vneg (R128). -/
def execVneg (t : VType) (d a : Reg) (x : Reg8) (s : State) : Out State :=
  lanewise1 (.vneg t d a x) t isFlt 2 fnegLane d a x s
/-- vfma (R130). -/
def execVfma (t : VType) (d a b : Reg) (x : Reg8) (s : State) : Out State :=
  lanewise3 (.vfma t d a b x) t isFlt 8 (fmaLane false false) d a b x s
/-- vfms (R130). -/
def execVfms (t : VType) (d a b : Reg) (x : Reg8) (s : State) : Out State :=
  lanewise3 (.vfms t d a b x) t isFlt 8 (fmaLane false true) d a b x s
/-- vfnma (R130). -/
def execVfnma (t : VType) (d a b : Reg) (x : Reg8) (s : State) : Out State :=
  lanewise3 (.vfnma t d a b x) t isFlt 8 (fmaLane true true) d a b x s
/-- vfnms (R130). -/
def execVfnms (t : VType) (d a b : Reg) (x : Reg8) (s : State) : Out State :=
  lanewise3 (.vfnms t d a b x) t isFlt 8 (fmaLane true false) d a b x s

end Sys2Proof.Machine
end

