-- ==== Sys2Proof/Machine/Collective.lean ====
section
/-! DEFINITION. Collectives: ered, the collective engine, COLLECTIVE_COMPLETE (R305-R308, R346). -/
namespace Sys2Proof.Machine

/-! ### The result -/

/-- Element size of a collective type in bytes (R306). -/
def redSize (ty : Nat) : Nat :=
  match ty with
  | 0 => 4 | 1 => 2 | 2 => 2 | 8 => 4 | 9 => 4 | _ => 8

/-- The types of R306. -/
def redTypeOk (ty : Nat) : Bool := [0, 1, 2, 8, 9, 10, 11].contains ty

/-- Format of a floating collective type. -/
def redFmt (ty : Nat) : Fmt :=
  match ty with
  | 0 => fmtF32 | 1 => fmtBf16 | _ => fmtF16

/-- One operation on two element codes (R306). -/
def redOp (ty op rm x y : Nat) : Nat :=
  let w := 8 * redSize ty
  if ty ≤ 2 then
    let f := redFmt ty
    if op = 0 then (encodeF f false (modeOf rm) (addNum (modeOf rm) (decodeF f x) (decodeF f y)).1).1
    else fpick (op = 2) f x y
  else
    let v (z : Nat) : Int := intValue w (ty == 8 || ty == 10) z
    match op with
    | 0 => (x + y) % 2 ^ w
    | 1 => if v y < v x then y else x
    | 2 => if v x < v y then y else x
    | 3 => x &&& y
    | 4 => x ||| y
    | _ => x ^^^ y

/-- One level of the tree: pairs are combined, an odd last one is carried up (R306). -/
def redLevel (f : List Nat → List Nat → List Nat) : List (List Nat) → List (List Nat)
  | x :: y :: r => f x y :: redLevel f r
  | l => l

/-- The tree over at most `2 ^ fuel` contributions (R306); their number is fuel enough. -/
def redTree (f : List Nat → List Nat → List Nat) : Nat → List (List Nat) → List Nat
  | _, [] => []
  | _, [x] => x
  | 0, x :: _ => x
  | n + 1, l => redTree f n (redLevel f l)

/-- Insert before the first element that is not smaller. -/
def insertBy {α : Type} (le : α → α → Bool) (x : α) : List α → List α
  | [] => [x]
  | y :: r => if le x y then x :: y :: r else y :: insertBy le x r

/-- A list in increasing order; equal elements keep their order. -/
def sortBy {α : Type} (le : α → α → Bool) (l : List α) : List α := l.foldr (insertBy le) []

/-- Contributions in increasing linear sweep order: by rank (R305). -/
def byRank (l : List (Nat × List Nat)) : List (List Nat) := (sortBy (fun a b => decide (a.1 ≤ b.1)) l).map (·.2)

/-- Combine in order: the first is the accumulator, and each later one is combined into it (R307). -/
def redOrder (f : List Nat → List Nat → List Nat) : List (List Nat) → List Nat
  | [] => []
  | x :: r => r.foldl f x

/-- The slices of contributions in the order in which they became complete (R346). -/
def sliceOrder (n : Nat) (l : List (Nat × List Nat)) : List Nat := ((l.map fun p => p.1 / n).reverse.eraseDups).reverse

/-- The result of a collective: the order of arrival, or the tree over its ranks; in a launch that runs slice by slice the tree
of each slice, combined in the order in which the slices became complete (R306, R307, R346). -/
def redResult (c : Collective) : List Nat :=
  let f (a b : List Nat) : List Nat := List.zipWith (redOp c.type c.op c.rm) a b
  let tree (l : List (Nat × List Nat)) : List Nat := redTree f l.length (byRank l)
  if c.arrival then redOrder f (c.contrib.map (·.2))
  else if c.slice = 0 then tree c.contrib
  else redOrder f ((sliceOrder c.slice c.contrib).map fun k => tree (c.contrib.filter fun p => p.1 / c.slice == k))

/-! ### Taking part -/

/-- A rank's ered has learnt how its collective ended. -/
def collLearn (rank : Nat) (c : Collective) : Collective := { c with waiting := c.waiting.filter (· != rank) }

/-- Elements of a contribution. -/
def elements (n : Nat) (bs : List Byte) : Nat → List Nat
  | 0 => []
  | k + 1 => leVal (bs.take n) :: elements n (bs.drop n) k

/-- The collective that a descriptor asks for, with its first contribution (R305). -/
def collOf (id lnum rank : Nat) (d : Desc) (xs : List Nat) : Collective :=
  { id := id, lnum := lnum, coll := bits d.w18.toNat 0 32, count := d.len, type := bits d.w14 0 4, op := bits d.w14 4 4
    arrival := bit d.w14 8, rm := bits d.w14 9 2, p := bits d.w18.toNat 32 32, contrib := [(rank, xs)]
    waiting := [rank] }

/-- Ranks of a slice of a launch that the dispatcher runs slice by slice, or 0 (R346). -/
def sliceOf (s : State) (lnum : Nat) : Nat := ((s.launch? lnum).map fun l => if l.sliced then sliceLen l.r else 0).getD 0

/-- Two collectives agree in the fields that the first contribution fixes (R305). -/
def collAgree (a b : Collective) : Bool :=
  a.count == b.count && a.type == b.type && a.op == b.op && a.arrival == b.arrival && a.rm == b.rm && a.p == b.p

/-- All P participants have contributed. -/
def collFull (c : Collective) : Bool := decide (c.p ≤ c.contrib.length)

/-- An ered of a group belongs to a collective that has not ended (R305). -/
def inColl (g : Group) (d : Desc) (c : Collective) : Bool :=
  c.lnum == g.lnum && c.coll == bits d.w18.toNat 0 32 && !collEnded c

/-- A contribution reaches the collective engine (R305, R308); the result is formed a free, finite time after the last.
While a completed collective of the same name has not ended, a further ered waits. -/
def joinColl (t : TileNo) (g : Group) (d : Desc) (desc : W64) (xs : List Nat) (s : State) : Eng State :=
  let wait (id : Nat) (s : State) : Eng State := .hold (s.modEng t fun e => { e with shared := .collective id })
  let (id, s) := s.draw
  let due := s.now + Config.delay id
  let new := { collOf id g.lnum g.rank d xs with slice := sliceOf s g.lnum, due := due }
  match s.hub.colls.find? (inColl g d) with
  | none =>
    let s := s.modHub fun h => { h with colls := h.colls ++ [new] }
    wait id s
  | some c =>
    if c.result.isSome then .hold s
    else if c.failed then .fail 7 desc (s.modColl c.id (collEnd g.rank)).purgeColls
    else if !collAgree c new || collFull c || c.contrib.any (·.1 == g.rank) then
      let ended := (c.contrib.map (·.1)).filter (· != g.rank) ++ [g.rank]
      .fail 7 desc (s.modColl c.id fun c => { c with failed := true, ended := ended }).purgeColls
    else
      wait c.id (s.modColl c.id fun c =>
        { c with contrib := c.contrib ++ new.contrib, waiting := c.waiting ++ [g.rank], due := due })

/-- Deliver the next piece of a result that a shared engine has handed back (R301, R308). -/
def writePiece (t : TileNo) (c : Nat) (dst : W64) (out : List Byte) (s : State) : Eng State :=
  let p := (s.tile t).eng.next
  let a := dst + w64 p
  let k := pieceAt a.toNat (out.length - p)
  (engDeliver t c (ctlDstl c) a ((out.drop p).take k) k s).bind fun _ s => let s := engNext t k s; .ok s s

/-- The result of a collective as bytes. -/
def resultBytes (ty : Nat) (xs : List Nat) : List Byte := xs.flatMap (leBytes (redSize ty))

/-- ered's limits (R296). -/
def redOk (d : Desc) : Bool :=
  let ty := bits d.w14 0 4
  let op := bits d.w14 4 4
  let p := bits d.w18.toNat 32 32
  ctlClean d.ctl && 1 ≤ d.len && d.len ≤ 65536 && 1 ≤ p && p ≤ 4096 && redTypeOk ty && op ≤ 5 && !(3 ≤ op && ty ≤ 2)

/-- A floating add that a deterministic queue refuses: in arrival order (R307), or of a split-allowed launch (R346). -/
def redRefused (s : State) (g : Group) (d : Desc) : Bool :=
  g.det && bits d.w14 4 4 == 0 && decide (bits d.w14 0 4 ≤ 2) &&
    (bit d.w14 8 || ((s.launch? g.lnum).map fun l => l.r.split).getD false)

/-- ered (R305-R308): in a failed collective it ends at once; else the contribution is read, the collective awaited, and the
result delivered. -/
def redBody (rd : Reg) (t : TileNo) (d : Desc) (s : State) : Eng State :=
  let x := s.tile t
  let desc := jobDesc x
  match x.group with
  | none => .hold s
  | some g =>
    match x.eng.shared with
    | .collective id =>
      match s.hub.colls.find? (·.id == id) with
      | none => .hold s
      | some c =>
        if c.failed then .fail 7 desc (s.modColl id (collLearn g.rank)).purgeColls
        else match c.result with
          | none => .hold s
          | some xs =>
            let s := (s.modColl id (collLearn g.rank)).modEng t fun e => { e with
              shared := .writing id (resultBytes c.type xs), progress := 0, next := 0, buf := [], state := .running }
            .ok s s
    | .writing id out =>
      if out.length ≤ x.eng.next then
        if regsBusy x.eng.r then .later s
        else let s := engDone t rd 0 (s.modColl id (collEnd g.rank)).purgeColls; .ok s s
      else writePiece t d.ctl d.dst out s
    | _ =>
      match s.hub.colls.find? fun c => c.failed && inColl g d c with
      | some c => .fail 7 desc (s.modColl c.id (collEnd g.rank)).purgeColls
      | none =>
        if redRefused s g d then .fail 6 desc s
        else
          let n := redSize (bits d.w14 0 4)
          (engRead t (ctlSrcl d.ctl) d.src (n * d.len) s).bind fun bs s =>
            joinColl t g d desc (elements n bs d.len) s

/-- ERED (R305). -/
def execEred (d a : Reg) (s : State) : Out State :=
  engRun (.ered d a) d a redOk (redBody d) s

/-- COLLECTIVE_COMPLETE (R308): once all P contributions are in, the result is formed for every participant. -/
def execCollectiveComplete (lnum coll : Nat) (s : State) : Out State :=
  .next <| s.modHub fun h => { h with colls := h.colls.map fun c =>
    if c.lnum == lnum && c.coll == coll && collFull c && !c.failed && c.result.isNone then
      { c with result := some (redResult c) } else c }

end Sys2Proof.Machine
end

