-- ==== Sys2Proof/Machine/VectorInt.lean ====
section
/-! DEFINITION. Integer element-wise arithmetic, major 0x22 (R131). -/
namespace Sys2Proof.Machine

/-- A lane operation on an integer element of `w` bits, signed or natural; no flag (R131). -/
def onInt (g : Nat → Bool → Nat → Nat → Nat) (e : Elem) (_ : RMode) (x y : Nat) : Nat × FFlags :=
  match e with
  | .int w sgn => (g w sgn x y % 2 ^ w, 0)
  | .flt _ => (0, 0)

/-- The upper half of the exact product (R131). -/
def mulhLane (w : Nat) (sgn : Bool) (x y : Nat) : Nat :=
  intBits w (intValue w sgn x * intValue w sgn y / 2 ^ w)

/-- The smaller or larger of two lanes (R131). -/
def ipick (wantMax : Bool) (w : Nat) (sgn : Bool) (x y : Nat) : Nat :=
  if (if wantMax then decide (intValue w sgn x < intValue w sgn y) else decide (intValue w sgn y < intValue w sgn x))
  then y else x

/-- Arithmetic shift right for every type (R131). -/
def sraLane (w : Nat) (x n : Nat) : Nat := intBits w (signedOf w x / 2 ^ n)

/-- |a| modulo 2^w for signed types (R131). -/
def absLane (w : Nat) (sgn : Bool) (x : Nat) : Nat := (intValue w sgn x).natAbs

/-- vaddInt (R131). -/
def execVaddInt (t : VType) (d a b : Reg) (x : Reg8) (s : State) : Out State :=
  lanewise2 (.vaddInt t d a b x) t isInt 2 (onInt (fun _ _ x y => x + y)) d a b x s
/-- vsubInt (R131). -/
def execVsubInt (t : VType) (d a b : Reg) (x : Reg8) (s : State) : Out State :=
  lanewise2 (.vsubInt t d a b x) t isInt 2 (onInt (fun w _ x y => x + 2 ^ w - y)) d a b x s
/-- vmulInt (R131). -/
def execVmulInt (t : VType) (d a b : Reg) (x : Reg8) (s : State) : Out State :=
  lanewise2 (.vmulInt t d a b x) t isInt 4 (onInt (fun _ _ x y => x * y)) d a b x s
/-- vmulh (R131). -/
def execVmulh (t : VType) (d a b : Reg) (x : Reg8) (s : State) : Out State :=
  lanewise2 (.vmulh t d a b x) t isInt 4 (onInt (mulhLane)) d a b x s
/-- vminInt (R131). -/
def execVminInt (t : VType) (d a b : Reg) (x : Reg8) (s : State) : Out State :=
  lanewise2 (.vminInt t d a b x) t isInt 2 (onInt (ipick false)) d a b x s
/-- vmaxInt (R131). -/
def execVmaxInt (t : VType) (d a b : Reg) (x : Reg8) (s : State) : Out State :=
  lanewise2 (.vmaxInt t d a b x) t isInt 2 (onInt (ipick true)) d a b x s
/-- vand (R131). -/
def execVand (t : VType) (d a b : Reg) (x : Reg8) (s : State) : Out State :=
  lanewise2 (.vand t d a b x) t isInt 2 (onInt (fun _ _ x y => x &&& y)) d a b x s
/-- vor (R131). -/
def execVor (t : VType) (d a b : Reg) (x : Reg8) (s : State) : Out State :=
  lanewise2 (.vor t d a b x) t isInt 2 (onInt (fun _ _ x y => x ||| y)) d a b x s
/-- vxor (R131). -/
def execVxor (t : VType) (d a b : Reg) (x : Reg8) (s : State) : Out State :=
  lanewise2 (.vxor t d a b x) t isInt 2 (onInt (fun _ _ x y => x ^^^ y)) d a b x s
/-- vshl (R131). -/
def execVshl (t : VType) (d a b : Reg) (x : Reg8) (s : State) : Out State :=
  lanewise2 (.vshl t d a b x) t isInt 2 (onInt (fun w _ x y => x * 2 ^ (y % w))) d a b x s
/-- vshr (R131). -/
def execVshr (t : VType) (d a b : Reg) (x : Reg8) (s : State) : Out State :=
  lanewise2 (.vshr t d a b x) t isInt 2 (onInt (fun w _ x y => x / 2 ^ (y % w))) d a b x s
/-- vsra (R131). -/
def execVsra (t : VType) (d a b : Reg) (x : Reg8) (s : State) : Out State :=
  lanewise2 (.vsra t d a b x) t isInt 2 (onInt (fun w _ x y => sraLane w x (y % w))) d a b x s
/-- vabsInt (R131). -/
def execVabsInt (t : VType) (d a : Reg) (x : Reg8) (s : State) : Out State :=
  lanewise1 (.vabsInt t d a x) t isInt 2 (fun e m y => onInt (fun w sgn y _ => absLane w sgn y) e m y 0) d a x s

end Sys2Proof.Machine
end

