-- ==== Sys2Proof/Machine/Compare.lean ====
section
/-! DEFINITION. Compares (R132) and mask registers (R133). -/
namespace Sys2Proof.Machine

/-- The comparisons of R132. -/
inductive VCmp
  | eq | ne | lt | le | unord
deriving DecidableEq, Repr

/-- A comparison of two floating lanes (R132). -/
def cmpFlt (c : VCmp) (f : Fmt) (x y : Nat) : Bool :=
  let a := decodeF f x
  let b := decodeF f y
  if a = .nan ∨ b = .nan then c == .ne || c == .unord
  else match c with
    | .eq => cmpNum a b == .eq
    | .ne => cmpNum a b != .eq
    | .lt => cmpNum a b == .lt
    | .le => cmpNum a b != .gt
    | .unord => false

/-- A comparison of two integer lanes (R132). -/
def cmpInt (c : VCmp) (w : Nat) (sgn : Bool) (x y : Nat) : Bool :=
  match c with
  | .eq => x == y
  | .ne => x != y
  | .lt => decide (intValue w sgn x < intValue w sgn y)
  | .le => decide (intValue w sgn x ≤ intValue w sgn y)
  | .unord => false

/-- A comparison of two lanes. -/
def cmpLane (c : VCmp) (e : Elem) (x y : Nat) : Bool :=
  match e with
  | .flt f => cmpFlt c f x y
  | .int w sgn => cmpInt c w sgn x y

/-- Bits of a mask, lowest first. -/
def maskOf (l : List Bool) : W64 := w64 (l.foldr (fun b acc => b2n b + 2 * acc) 0)

/-- A compare (R132): the lanes below n that the write mask enables, zero elsewhere. -/
def compareOp (c : VCmp) (i : Instr) (t : VType) (cls : Elem → Bool) (md : Reg8) (a b : Reg) (x : Reg8) (s : State) :
    Out State :=
  issueTyped i t cls { vs := [a, b], ms := [x], md := some md } (fun e s0 =>
    let (va, vb, s) := vsrc2 a b s0
    let w := elemWidth e
    let m := readM s0 x
    let r := (List.range (512 / w)).map fun j => m.getLsbD j && cmpLane c e (laneAt w va j) (laneAt w vb j)
    complete (writeM md (maskOf r) 2 s)) s

/-- veq (R132). -/
def execVeq (t : VType) (md : Reg8) (a b : Reg) (x : Reg8) (s : State) : Out State :=
  compareOp .eq (.veq t md a b x) t anyElem md a b x s
/-- vne (R132). -/
def execVne (t : VType) (md : Reg8) (a b : Reg) (x : Reg8) (s : State) : Out State :=
  compareOp .ne (.vne t md a b x) t anyElem md a b x s
/-- vlt (R132). -/
def execVlt (t : VType) (md : Reg8) (a b : Reg) (x : Reg8) (s : State) : Out State :=
  compareOp .lt (.vlt t md a b x) t anyElem md a b x s
/-- vle (R132). -/
def execVle (t : VType) (md : Reg8) (a b : Reg) (x : Reg8) (s : State) : Out State :=
  compareOp .le (.vle t md a b x) t anyElem md a b x s
/-- vunord (R132). -/
def execVunord (t : VType) (md : Reg8) (a b : Reg) (x : Reg8) (s : State) : Out State :=
  compareOp .unord (.vunord t md a b x) t isFlt md a b x s

/-! ### Mask registers -/

/-- A mask operation on two masks (R133). -/
def maskOp2 (i : Instr) (f : W64 → W64 → W64) (d a b : Reg8) (s : State) : Out State :=
  issue i { ms := [a, b], md := some d } (fun s => complete (writeM d (f (readM s a) (readM s b)) 1 s)) s

/-- A mask operation that writes a general register (R133). -/
def maskToG (i : Instr) (f : W64 → W64) (d : Reg) (a : Reg8) (s : State) : Out State :=
  issue i { ms := [a], gd := some d } (fun s => complete (writeG d (f (readM s a)) 1 s)) s

/-- mand (R133). -/
def execMand (d a b : Reg8) (s : State) : Out State := maskOp2 (.mand d a b) (· &&& ·) d a b s
/-- mor (R133). -/
def execMor (d a b : Reg8) (s : State) : Out State := maskOp2 (.mor d a b) (· ||| ·) d a b s
/-- mxor (R133). -/
def execMxor (d a b : Reg8) (s : State) : Out State := maskOp2 (.mxor d a b) (· ^^^ ·) d a b s
/-- mnot (R133). -/
def execMnot (d a : Reg8) (s : State) : Out State := maskOp2 (.mnot d a) (fun x _ => ~~~x) d a a s
/-- mpopc (R133): all 64 bits count. -/
def execMpopc (d : Reg) (a : Reg8) (s : State) : Out State := maskToG (.mpopc d a) popcWord d a s
/-- mfirst (R133). -/
def execMfirst (d : Reg) (a : Reg8) (s : State) : Out State := maskToG (.mfirst d a) ctzWord d a s
/-- mget (R133). -/
def execMget (d : Reg) (a : Reg8) (s : State) : Out State := maskToG (.mget d a) id d a s
/-- mset (R133). -/
def execMset (d : Reg8) (a : Reg) (s : State) : Out State :=
  issue (.mset d a) { gs := [a], md := some d } (fun s =>
    let (x, s) := src1 a s
    complete (writeM d x 1 s)) s

end Sys2Proof.Machine
end

