-- ==== Sys2Proof/Machine/Chain.lean ====
section
/-! DEFINITION. The Rhizoid chain (R378, R442): the pieces of a tile's and a die's state as it shows them, those that R446 arranges
as bytes and those that R374 names as device-internal, and how a write of one changes the state. -/
namespace Sys2Proof.Machine

/-! ### The tile area, switch, latches and engine registers -/

/-- The bytes of a tile area, but for its device-internal ranges (R374, R446). -/
def chainArea (x : Tile) : List Byte := tileArea 0 x fun _ => []

/-- Byte `off` of an area lies in a device-internal range, or past the last byte that R446 arranges. -/
def areaInternal (off : Nat) : Bool := (0x5A00 ≤ off && off < 0x7000) || 0x7480 ≤ off

/-- Change a queue as its 0x90 bytes say; of an output queue the words still to enter stay (R446). -/
def chainQueue (q : Nat) (b : List Byte) (x : Tile) : Tile :=
  let k := fin8 q
  if q < 8 then { x with inQ := x.inQ.set k (scanQueue b x.cycle) }
  else { x with outQ := x.outQ.set k (scanQueue b x.cycle ++ reservedWords x k) }

/-- Change the valid entries' order as the 64 bytes at 0x7400 say (R446). -/
def chainOrder (b : List Byte) : List (Fin 64) :=
  (b.take 64).filterMap fun n => if h : n.toNat < 64 then some ⟨n.toNat, h⟩ else none

/-- A tile whose area has the byte `v` at `off`: the part of the area that holds the byte is scanned in (R446). -/
def chainAreaWrite (off : Nat) (v : Byte) (x : Tile) : Tile :=
  let b := (chainArea x).set off v
  let part (o n : Nat) : List Byte := (b.drop o).take n
  if areaInternal off then x
  else if off < 0x5000 then
    let k := fin8 (off / 0xA00)
    { x with strands := x.strands.set k (scanStrand (part (0xA00 * k.val) 0xA00) x.cycle x.strands[k]) }
  else if off < 0x5008 then { x with cycle := areaWord b 0x5000 }
  else if off < 0x5010 then { x with rotation := fin8 (areaWord b 0x5008) }
  else if off < 0x5018 then { x with binds := x.binds.set (fin8 (off - 0x5010)) (scanBind v.toNat) }
  else if 0x5020 ≤ off && off < 0x5028 then { x with dividerUntil := x.cycle + bits (areaWord b 0x5020) 0 5 }
  else if off < 0x5100 then x
  else if off < 0x5A00 then chainQueue ((off - 0x5100) / 0x90) (part (0x5100 + (off - 0x5100) / 0x90 * 0x90) 0x90) x
  else if off < 0x7200 then
    let n : Fin 32 := ⟨(off - 0x7000) / 16 % 32, by omega⟩
    { x with bars := x.bars.set n (scanBarrier (areaWord b (0x7000 + 16 * n.val)) (areaWord b (0x7008 + 16 * n.val))) }
  else if off < 0x7400 then
    let n : Fin 64 := ⟨(off - 0x7200) / 8 % 64, by omega⟩
    { x with side := x.side.set n (scanSide (areaWord b (0x7200 + 8 * n.val))) }
  else { x with sideOrder := chainOrder (part 0x7400 64) }

/-- A register of the switch, in the order of R374: SPC, REP, CNT0, CNT1, SPH, run state, SWFAULT, INJ. -/
def switchReg (w : Switch) (i : Fin 8) : Nat :=
  match i with
  | 0 => w.spc | 1 => w.rep | 2 => w.cnt[0] | 3 => w.cnt[1]
  | 4 => (List.finRange 8).foldl (fun a k => a + b2n w.sph[k] * 2 ^ k.val) 0
  | 5 => swCode w.run | 6 => w.fault.toNat | 7 => w.inj

/-- Change a register of the switch. -/
def switchRegSet (i : Fin 8) (v : Nat) (w : Switch) : Switch :=
  match i with
  | 0 => { w with spc := v % 2048 }
  | 1 => { w with rep := v % 4096 }
  | 2 => { w with cnt := w.cnt.set 0 (v % 4096) }
  | 3 => { w with cnt := w.cnt.set 1 (v % 4096) }
  | 4 => { w with sph := Vector.ofFn fun k => bit v k.val }
  | 5 => { w with run := (match v % 4 with
      | 0 => .running | 1 => .waiting | 2 => .stopped | _ => .halted) }
  | 6 => { w with fault := w64 v }
  | 7 => { w with inj := v % 4096 }

/-- A flit with its marks as one number: 256 bits of data, then H and E. -/
def flitNat (f : Flit) : Nat := f.data.toNat + b2n f.h * 2 ^ 256 + b2n f.e * 2 ^ 257

/-- Change flit `i` of a list, where there is one. -/
def flitSet (i v : Nat) (l : List Flit) : List Flit :=
  l.zipIdx.map fun p => if p.2 = i then { p.1 with data := BitVec.ofNat 256 v, h := bit v 256, e := bit v 257 } else p.1

/-- The buffered flits of a port: N, E, S, W. -/
def portOf (w : Switch) (p : Fin 4) : List Flit :=
  match p with
  | 0 => w.n.buf | 1 => w.e.buf | 2 => w.s.buf | 3 => w.w.buf

/-- Change the buffered flits of a port. -/
def portSet (p : Fin 4) (l : List Flit) (w : Switch) : Switch :=
  match p with
  | 0 => { w with n := { w.n with buf := l } }
  | 1 => { w with e := { w.e with buf := l } }
  | 2 => { w with s := { w.s with buf := l } }
  | 3 => { w with w := { w.w with buf := l } }

/-- A latch's state, its ring flag and its size (R198). -/
def latchNat (l : Latch) : Nat := latchCode l.st + b2n l.ring * 8 + l.size * 16

/-- Change a latch's state, ring flag and size. -/
def latchSet (v : Nat) (l : Latch) : Latch :=
  { l with
    st := (match v % 8 with
      | 0 => .free | 1 => .armed | 2 => .filling | 3 => .full | _ => .forwarding)
    ring := bit v 3, size := v / 16 }

/-- A register of the tile engine: PC, LC0, LC1, LB0, LB1, LE0, LE1, PROGRESS, MBOX, ESTATE, EFAULT, the running job's word. -/
def engineReg (e : Engine) (i : Fin 12) : Nat :=
  match i with
  | 0 => e.r.pc.toNat | 1 => e.r.lc[0].toNat | 2 => e.r.lc[1].toNat | 3 => e.r.lb[0].toNat | 4 => e.r.lb[1].toNat
  | 5 => e.r.le[0].toNat | 6 => e.r.le[1].toNat | 7 => e.progress | 8 => (mboxWord e).toNat | 9 => (estateWord e).toNat
  | 10 => e.efault.toNat | 11 => (e.job.getD 0).toNat

/-- Change a register of the tile engine; ESTATE only shows others. -/
def engineRegSet (i : Fin 12) (v : Nat) (e : Engine) : Engine :=
  match i with
  | 0 => { e with r := { e.r with pc := w64 v } }
  | 1 => { e with r := { e.r with lc := e.r.lc.set 0 (w64 v) } }
  | 2 => { e with r := { e.r with lc := e.r.lc.set 1 (w64 v) } }
  | 3 => { e with r := { e.r with lb := e.r.lb.set 0 (w64 v) } }
  | 4 => { e with r := { e.r with lb := e.r.lb.set 1 (w64 v) } }
  | 5 => { e with r := { e.r with le := e.r.le.set 0 (w64 v) } }
  | 6 => { e with r := { e.r with le := e.r.le.set 1 (w64 v) } }
  | 7 => { e with progress := v % 2 ^ 32 }
  | 8 => { e with
      done := bits v 0 16, kicks := bits v 16 16, tag := bits v 32 8, err := bits v 40 8, errorBit := bit v 48, idleBit := bit v 49 }
  | 9 => e
  | 10 => { e with efault := w64 v }
  | 11 => { e with job := e.job.map fun _ => w64 v }

/-! ### Parts that R374 names and R446 leaves to the device

Each is shown as a list of numbers, its fields; a write of one field builds the part anew from the list. -/

/-- Field `i` of a part. -/
def fieldOf (l : List Nat) (i : Nat) : Nat := l.getD i 0

/-- A list made `n` long: cut, or filled up with `d`. -/
def resize {α : Type} (n : Nat) (d : α) (l : List α) : List α := l.take n ++ List.replicate (n - l.length) d

/-- The decode mode of sdec: pass, decode, or an entry lost, with or without sresume since; entry, flit, length, partner and key
(R185, R190). -/
def modeFields : DecMode → List Nat
  | .pass => [0, 0, 0, 0, 0, 0, 0, 0]
  | .decode e j len flow partner => [1, e.val, j, len, flow, partner, 0, 0]
  | .lost j len flow partner kf ks retry => [2 + b2n retry, 0, j, len, flow, partner, kf, ks]

/-- See `modeFields`. -/
def modeFrom (l : List Nat) : DecMode :=
  let f := fieldOf l
  match f 0 with
  | 0 => .pass
  | 1 => .decode ⟨f 1 % 64, Nat.mod_lt _ (by decide)⟩ (f 2) (f 3) (f 4) (f 5)
  | n => .lost (f 2) (f 3) (f 4) (f 5) (f 6) (f 7) (n == 3)

/-- The decode mode and position of a switch (R374): the mode's fields, the block length at a DECODE_MISS stop, and the
flits that sresume.skip has still to discard. -/
def switchFields (w : Switch) : List Nat := modeFields w.mode ++ [w.missLen, w.skip]

/-- See `switchFields`. -/
def switchFrom (l : List Nat) (w : Switch) : Switch :=
  { w with mode := modeFrom l, missLen := fieldOf l 8, skip := fieldOf l 9 }

/-- The order of latches as a number: 0 none, 1 and 2 one of them, 3 and 4 both. -/
def orderNat : List (Fin 2) → Nat
  | [] => 0
  | [l] => 1 + l.val
  | l :: _ => 3 + l.val

/-- See `orderNat`. -/
def orderFrom (n : Nat) : List (Fin 2) :=
  match n with
  | 0 => [] | 1 => [0] | 2 => [1] | 3 => [0, 1] | _ => [1, 0]

/-- The F position of a latch: flits that have left on F, the cycle the forwarding began; whether its consuming instruction
still executes and whether mlb fills it; the cycle from which its last change counts; the number of its flits (R198-R200).
-/
def latchFields (l : Latch) : List Nat := [l.fwd, l.fwdBegin, b2n l.inUse, b2n l.byMlb, l.since, l.flits.length]

/-- See `latchFields`. -/
def latchFrom (f : List Nat) (l : Latch) : Latch :=
  { l with
    fwd := fieldOf f 0, fwdBegin := fieldOf f 1, inUse := bit (fieldOf f 2) 0, byMlb := bit (fieldOf f 3) 0
    since := fieldOf f 4, flits := resize (fieldOf f 5) {} l.flits }

/-- Where the result of an instruction goes: nowhere, a g or a v register, or words of an output queue; register or queue; and
their identity. -/
def destFields : Dest → List Nat
  | .none => [0, 0, 0]
  | .g r => [1, r.val, 0]
  | .v r => [2, r.val, 0]
  | .queue k id => [3, k.val, id]

/-- See `destFields`. -/
def destFrom (l : List Nat) : Dest :=
  let r : Reg := ⟨fieldOf l 1 % 32, Nat.mod_lt _ (by decide)⟩
  match fieldOf l 0 with
  | 0 => .none | 1 => .g r | 2 => .v r | _ => .queue (fin8 (fieldOf l 1)) (fieldOf l 2)

/-- A matrix instruction with its operands: strand, word, PC, general and vector operand, rounding mode, FMT8, SSTAT, and
where its result goes (R201, R374). -/
def opFields (o : MatOp) : List Nat :=
  [o.strand.val, encode o.instr, o.pc.toNat, o.a.toNat, o.v.toNat, o.rm, o.fmt8, o.sstat.toNat] ++ destFields o.dest

/-- See `opFields`. A word that encodes no instruction changes nothing. -/
def opFrom (l : List Nat) (o : MatOp) : MatOp :=
  { o with
    strand := fin8 (fieldOf l 0)
    instr := (match decodeCore (fieldOf l 1) with
      | .ok i => i
      | .error _ => o.instr)
    pc := w64 (fieldOf l 2), a := w64 (fieldOf l 3), v := BitVec.ofNat 512 (fieldOf l 4), rm := fieldOf l 5
    fmt8 := fieldOf l 6, sstat := w64 (fieldOf l 7), dest := destFrom (l.drop 8) }

/-- A place of the queue that the chain fills. -/
def emptyOp : MatOp :=
  { strand := 0, instr := .mwait, pc := 0, a := 0, v := 0, rm := 0, fmt8 := 0, popped := [], sstat := 0, dest := .none }

/-- The order of the matrix unit: fill order, order of the blocks on F, the cycle after the last departure on F (0: none), the
number of queued instructions, and the cycle from which one may begin (R199-R201, R374). -/
def matrixFields (m : Matrix) : List Nat :=
  [orderNat m.armOrder, orderNat m.fwdOrder, (m.lastF.map (· + 1)).getD 0, m.queue.length, m.beginFrom]

/-- See `matrixFields`. -/
def matrixFrom (l : List Nat) (m : Matrix) : Matrix :=
  { m with
    armOrder := orderFrom (fieldOf l 0), fwdOrder := orderFrom (fieldOf l 1)
    lastF := if fieldOf l 2 = 0 then none else some (fieldOf l 2 - 1)
    queue := resize (min 8 (fieldOf l 3)) emptyOp m.queue, beginFrom := fieldOf l 4 }

/-- The executing instruction: whether there is one, the cycle it began in, its length, whether it forwards, and the number and
values of the local bytes it has read (R201, R203, R374). -/
def runFields (m : Matrix) : List Nat :=
  match m.run with
  | none => [0, 0, 0, 0, 0, 0]
  | some r => [1, r.start, r.dur, b2n r.fwd, r.read.length, leVal r.read]

/-- See `runFields`. -/
def runFrom (l : List Nat) (m : Matrix) : Matrix :=
  let r := m.run.getD { op := emptyOp, start := 0, dur := 1, fwd := false, read := [] }
  let r := { r with
    start := fieldOf l 1, dur := fieldOf l 2, fwd := bit (fieldOf l 3) 0, read := leBytes (fieldOf l 4) (fieldOf l 5) }
  { m with run := if fieldOf l 0 = 0 then none else some r }

/-- The executing instruction, as number 0, or a queued one (R374). -/
def opAt (m : Matrix) (n : Nat) : Option MatOp := if n = 0 then m.run.map (·.op) else m.queue[n - 1]?

/-- Change the executing instruction or a queued one, where there is one. -/
def opSet (n : Nat) (o : MatOp) (m : Matrix) : Matrix :=
  if n = 0 then { m with run := m.run.map fun r => { r with op := o } } else { m with queue := m.queue.set (n - 1) o }

/-- A key of a fault record (R368, R446); zero without one. -/
def keyNat (k : Option (Nat × Nat)) : Nat := (k.map fun p => p.2 + p.1 * 2 ^ 32 + 2 ^ 63).getD 0

/-- See `keyNat`. -/
def keyFrom (n : Nat) : Option (Nat × Nat) := if bit n 63 then some (bits n 32 8, bits n 0 32) else none

/-- The kinds of a faulting walk, with their numbers of R368. -/
def walkFaultFrom (n : Nat) : WalkFault :=
  match n with
  | 1 => .notPresent | 2 => .protection | 3 => .replicaWrite | 4 => .keyMismatch | _ => .malformed

/-- How far a held access has come: its walk, its record or its reply still to come; kind, sequence number and die. -/
def phaseFields : HeldPhase → List Nat
  | .walk => [0, 1, 0, 0]
  | .record k => [1, faultKind k, 0, 0]
  | .reply k q d => [2, faultKind k, q, d]

/-- See `phaseFields`. -/
def phaseFrom (l : List Nat) : HeldPhase :=
  let k := walkFaultFrom (fieldOf l 1)
  match fieldOf l 0 with
  | 0 => .walk | 1 => .record k | _ => .reply k (fieldOf l 2) (fieldOf l 3)

/-- A hart's held access: whether there is one, its address, whether it writes, the keys of its earlier and its latest
record, the latest record's kind, the cycle of its walk, and how far it has come (R235, R374). -/
def heldFields : Option Held → List Nat
  | none => []
  | some h => [1, h.va.toNat, b2n h.wr, keyNat h.oldKey, keyNat h.lastKey, faultKind h.lastKind, h.due] ++ phaseFields h.phase

/-- See `heldFields`. -/
def heldFrom (l : List Nat) : Option Held :=
  if fieldOf l 0 = 0 then none
  else some { va := w64 (fieldOf l 1), wr := bit (fieldOf l 2) 0, oldKey := keyFrom (fieldOf l 3), lastKey := keyFrom (fieldOf l 4)
              lastKind := walkFaultFrom (fieldOf l 5), due := fieldOf l 6, phase := phaseFrom (l.drop 7) }

/-- A handle: VALID, W, PB, LEN, its virtual base, its page and that page's size, and its context (R245, R284). -/
def handleFields (h : Handle) : List Nat := [b2n h.valid, b2n h.w, h.pb, h.len, h.vbase.toNat, h.page, h.pageSize, h.ctx]

/-- See `handleFields`. -/
def handleFrom (l : List Nat) : Handle :=
  let f := fieldOf l
  ⟨bit (f 0) 0, bit (f 1) 0, f 2, f 3, w64 (f 4), f 5, f 6, f 7⟩

/-- A translation-cache entry: whether there is one; context, page, size, physical address, W, DIRTY, and whether it is pinned
(R234). -/
def tlbFields : Option TlbEntry → List Nat
  | none => []
  | some e => [1, e.ctx, e.page, e.size, e.pa, b2n e.w, b2n e.dirty, b2n e.pinned]

/-- Change entry `n` of a translation cache: one that is not there is added at the end, one whose first field is zero taken
out. -/
def tlbSet (n : Nat) (l : List Nat) (es : List TlbEntry) : List TlbEntry :=
  let f := fieldOf l
  if f 0 = 0 then es.eraseIdx n
  else
    let e : TlbEntry := ⟨f 1, f 2, f 3, f 4, bit (f 5) 0, bit (f 6) 0, bit (f 7) 0⟩
    if n < es.length then es.set n e else if es.length < 64 then es ++ [e] else es

/-- A request that an engine has handed to a shared engine: its kind, identity or error code, EFAULT, gd, and its bytes (R282,
R314, R374). -/
def sharedFields : Shared → List Nat
  | .none => [0, 0, 0, 0, 0, 0]
  | .collective id => [1, id, 0, 0, 0, 0]
  | .sorusWaiting => [2, 0, 0, 0, 0, 0]
  | .sorusRunning none => [3, 0, 0, 0, 0, 0]
  | .sorusRunning (some (bs, gd)) => [4, 0, 0, gd, bs.length, leVal bs]
  | .writing id out => [5, id, 0, 0, out.length, leVal out]
  | .answered err efault gd => [6, err, efault.toNat, gd, 0, 0]

/-- See `sharedFields`. -/
def sharedFrom (l : List Nat) : Shared :=
  let f := fieldOf l
  match f 0 with
  | 0 => .none | 1 => .collective (f 1) | 2 => .sorusWaiting | 3 => .sorusRunning none
  | 4 => .sorusRunning (some (leBytes (f 4) (f 5), f 3)) | 5 => .writing (f 1) (leBytes (f 4) (f 5))
  | _ => .answered (f 1) (w64 (f 2)) (f 3)

/-- The states of an engine, with their numbers of R293. -/
def engStateFrom (n : Nat) : EngState :=
  match n with
  | 0 => .idle | 1 => .running | 2 => .waiting | _ => .error

/-- The running instruction and the job of an engine: whether a job runs; its state; units issued; whether an edrain has
taken its last flit; gd; whether the job is ending, with which code and EFAULT; the handles still to be taken again, by bit
(R284, R292, R293, R304, R374). -/
def engineFields (e : Engine) : List Nat :=
  [b2n e.job.isSome, (match e.state with
    | .idle => 0 | .running => 1 | .waiting => 2 | .error => 3), e.next, b2n e.last, e.result.toNat, b2n e.ending.isSome,
    (e.ending.map (·.1)).getD 0, (e.ending.map (·.2.toNat)).getD 0,
    (List.finRange 8).foldl (fun a i => a + b2n (e.retake.contains i) * 2 ^ i.val) 0]

/-- See `engineFields`. -/
def engineFrom (l : List Nat) (e : Engine) : Engine :=
  let f := fieldOf l
  { e with
    job := if f 0 = 0 then none else some (e.job.getD 0), state := engStateFrom (f 1), next := f 2, last := bit (f 3) 0
    result := w64 (f 4), ending := if f 5 = 0 then none else some (f 6, w64 (f 7))
    retake := (List.finRange 8).filter fun i => bit (f 8) i.val }

/-- The job queue of an engine: how many jobs it holds, and their kick words (R289, R374). -/
def queueFields (e : Engine) : List Nat := e.queue.length :: e.queue.map BitVec.toNat

/-- See `queueFields`. -/
def queueFrom (l : List Nat) (e : Engine) : Engine := { e with queue := resize (min 4 (fieldOf l 0)) 0 (l.tail.map w64) }

/-- The requests at a Sorus sampler: the tile it serves, plus 1, or 0; how many wait; and their tiles (R309). -/
def samplerFields (d : Die) : List Nat := (d.sorusRun.map (· + 1)).getD 0 :: d.sorusQ.length :: d.sorusQ

/-- See `samplerFields`. -/
def samplerFrom (l : List Nat) (d : Die) : Die :=
  { d with sorusRun := if fieldOf l 0 = 0 then none else some (fieldOf l 0 - 1), sorusQ := resize (fieldOf l 1) 0 (l.drop 2) }

/-- The registers of a hart of the die: g0 to g31, PC, LC0, LC1, LB0, LB1, LE0, LE1. -/
def regFields (r : Regs) : List Nat :=
  (List.finRange 32).map (fun i => (plainG r i).toNat) ++
    [r.pc, r.lc[0], r.lc[1], r.lb[0], r.lb[1], r.le[0], r.le[1]].map BitVec.toNat

/-- See `regFields`; g0 keeps its constant. -/
def regFrom (l : List Nat) (r : Regs) : Regs :=
  let w (i : Nat) : W64 := w64 (fieldOf l i)
  { r with
    g := Vector.ofFn fun i => if i.val = 0 then r.g[i] else w i.val
    pc := w 32, lc := #v[w 33, w 34], lb := #v[w 35, w 36], le := #v[w 37, w 38] }

/-- A hart of the die controller: the collective engine's, the Sorus sampler's, the management hart's. -/
def dieHart (d : Die) (u : Fin 3) : Regs :=
  match u with
  | 0 => d.coll | 1 => d.sorus | 2 => d.mgmt.r

/-- Change a hart of the die controller. -/
def dieHartSet (u : Fin 3) (r : Regs) (d : Die) : Die :=
  match u with
  | 0 => { d with coll := r } | 1 => { d with sorus := r } | 2 => { d with mgmt := { d.mgmt with r := r } }

/-- The registers of a strand, or of the engine as number 8. -/
def tileHart (x : Tile) (u : Fin 9) : Regs := if h : u.val < 8 then x.strands[u.val].r else x.eng.r

/-- Change a strand of a tile. -/
def chainStrand (k : Fin 8) (f : Strand → Strand) (x : Tile) : Tile := { x with strands := x.strands.set k (f x.strands[k]) }

/-- Change the engine of a tile. -/
def chainEng (f : Engine → Engine) (x : Tile) : Tile := { x with eng := f x.eng }

/-- Change the matrix unit of a tile. -/
def chainMx (f : Matrix → Matrix) (x : Tile) : Tile := { x with mx := f x.mx }

/-- Change the registers of a strand, or of the engine. -/
def tileHartSet (u : Fin 9) (f : Regs → Regs) (x : Tile) : Tile :=
  if h : u.val < 8 then chainStrand ⟨u.val, h⟩ (fun z => { z with r := f z.r }) x
  else chainEng (fun e => { e with r := f e.r }) x

/-! ### Reading and writing -/

/-- A piece of a tile's state as the chain shows it (R378). -/
def chainGet (x : Tile) : ChainItem → Nat
  | .g k r => (plainG x.strands[k].r r).toNat
  | .v k r => (x.strands[k].v[r]).toNat
  | .m k r => (x.strands[k].m[r]).toNat
  | .area off => ((chainArea x).getD off 0).toNat
  | .localMem a => (memGet x.lm (a % lmSize)).toNat
  | .accumulator a => (memGet x.acc (a % 0x10000)).toNat
  | .code a => (memGet x.imem (a % 0x10000)).toNat
  | .switchCode a => (memGet x.smem (a % 0x4000)).toNat
  | .switchReg i => switchReg x.sw i
  | .switchMode i => fieldOf (switchFields x.sw) i.val
  | .port p i => ((portOf x.sw p)[i]?.map flitNat).getD 0
  | .portCount p => (portOf x.sw p).length
  | .latch l i => (x.mx.latch[l].flits[i]?.map flitNat).getD 0
  | .latchState l => latchNat x.mx.latch[l]
  | .latchPos l i => fieldOf (latchFields x.mx.latch[l]) i.val
  | .matrixOrder i => fieldOf (matrixFields x.mx) i.val
  | .matrixRun i => fieldOf (runFields x.mx) i.val
  | .matrixOp n i => fieldOf (((opAt x.mx n.val).map opFields).getD []) i.val
  | .tag b => x.mx.atag[b].toNat + b2n x.mx.tagv[b] * 2 ^ 16 + x.mx.step[b].toNat * 2 ^ 24
  | .engineG r => (plainG x.eng.r r).toNat
  | .engineReg i => engineReg x.eng i
  | .engineUnit i => fieldOf (engineFields x.eng) i.val
  | .engineQueue i => fieldOf (queueFields x.eng) i.val
  | .engineDesc i => (x.eng.desc.getD i.val 0).toNat
  | .engineShared i => fieldOf (sharedFields x.eng.shared) i.val
  | .held u i => fieldOf (heldFields (tileHart x u).held) i.val
  | .handle u n i => fieldOf (handleFields (tileHart x u).h[n]) i.val
  | .tlb n i => fieldOf (tlbFields x.tlb[n.val]?) i.val
  | .sampler _ => 0
  | .dieReg _ _ => 0

/-- A piece of the state of a die as the chain shows it through a tile of it (R378). Of the ranges of the tile area whose
arrangement is not architectural (R446) the bytes are free values; the parts in them are pieces of their own. `n` indexes
the free values. -/
def chainRead (n : Nat) (s : State) (t : TileNo) : ChainItem → Nat
  | .sampler i => fieldOf (samplerFields (s.die (tileDie t))) i
  | .dieReg u i => fieldOf (regFields (dieHart (s.die (tileDie t)) u)) i.val
  | .area off => if areaInternal off then (Config.internalByte n off).toNat else chainGet (s.tile t) (.area off)
  | i => chainGet (s.tile t) i

/-- Change one field of a part that is shown as a list. -/
def withField (l : List Nat) (n i v : Nat) : List Nat := (resize n 0 l).set i v

/-- Change a piece of a tile's state through the chain (R378). g0 and m0 keep their constants; the residue of a register that is
scanned in is computed anew (R374). -/
def chainPut (v : Nat) (x : Tile) : ChainItem → Tile
  | .g k r => if r = 0 then x else chainStrand k (fun z => { z with r := { z.r with
      g := z.r.g.set r (w64 v), residue := z.r.residue.filter (· != r.val) } }) x
  | .v k r => chainStrand k (fun z => { z with
      v := z.v.set r (BitVec.ofNat 512 v), r := { z.r with residue := z.r.residue.filter (· != 32 + r.val) } }) x
  | .m k r => if r = 0 then x else chainStrand k (fun z => { z with m := z.m.set r (w64 v) }) x
  | .area off => chainAreaWrite off (BitVec.ofNat 8 v) x
  | .localMem a => tileStore (a % lmSize) [BitVec.ofNat 8 v] x
  | .accumulator a => { x with acc := memWrite x.acc (a % 0x10000) [BitVec.ofNat 8 v] }
  | .code a => { x with imem := memWrite x.imem (a % 0x10000) [BitVec.ofNat 8 v] }
  | .switchCode a => { x with smem := memWrite x.smem (a % 0x4000) [BitVec.ofNat 8 v] }
  | .switchReg i => { x with sw := switchRegSet i v x.sw }
  | .switchMode i => { x with sw := switchFrom ((switchFields x.sw).set i.val v) x.sw }
  | .port p i => { x with sw := portSet p (flitSet i v (portOf x.sw p)) x.sw }
  | .portCount p => { x with sw := portSet p (resize (min 2 v) {} (portOf x.sw p)) x.sw }
  | .latch l i => chainMx (fun m => { m with latch := m.latch.set l { m.latch[l] with flits := flitSet i v m.latch[l].flits } }) x
  | .latchState l => chainMx (fun m => { m with latch := m.latch.set l (latchSet v m.latch[l]) }) x
  | .latchPos l i => chainMx (fun m => { m with latch := m.latch.set l (latchFrom ((latchFields m.latch[l]).set i.val v) m.latch[l]) }) x
  | .matrixOrder i => chainMx (fun m => matrixFrom ((matrixFields m).set i.val v) m) x
  | .matrixRun i => chainMx (fun m => runFrom ((runFields m).set i.val v) m) x
  | .matrixOp n i => match opAt x.mx n.val with
    | some o => chainMx (opSet n.val (opFrom ((opFields o).set i.val v) o)) x
    | none => x
  | .tag b => chainMx (fun m => { m with
      atag := m.atag.set b (BitVec.ofNat 16 v), tagv := m.tagv.set b (bit v 16)
      step := m.step.set b (BitVec.ofNat 8 (bits v 24 8)) }) x
  | .engineG r => if r = 0 then x else chainEng (fun e => { e with r := { e.r with
      g := e.r.g.set r (w64 v), residue := e.r.residue.filter (· != r.val) } }) x
  | .engineReg i => chainEng (engineRegSet i v) x
  | .engineUnit i => chainEng (fun e => engineFrom ((engineFields e).set i.val v) e) x
  | .engineQueue i => chainEng (fun e => queueFrom (withField (queueFields e) 5 i.val v) e) x
  | .engineDesc i => chainEng (fun e => { e with desc := e.desc.set i.val (BitVec.ofNat 8 v) }) x
  | .engineShared i => chainEng (fun e => { e with shared := sharedFrom ((sharedFields e.shared).set i.val v) }) x
  | .held u i => tileHartSet u (fun r => { r with held := heldFrom (withField (heldFields r.held) 11 i.val v) }) x
  | .handle u n i => tileHartSet u (fun r => { r with h := r.h.set n (handleFrom ((handleFields r.h[n]).set i.val v)) }) x
  | .tlb n i => { x with tlb := tlbSet n.val (withField (tlbFields x.tlb[n.val]?) 8 i.val v) x.tlb }
  | .sampler _ => x
  | .dieReg _ _ => x

/-- Change a piece of the state of a die through a tile of it (R378). -/
def chainStore (v : Nat) (s : State) (t : TileNo) : ChainItem → State
  | .sampler i => s.modDie (tileDie t) fun d => samplerFrom (withField (samplerFields d) (max (i + 1) (samplerFields d).length) i v) d
  | .dieReg u i => s.modDie (tileDie t) fun d => dieHartSet u (regFrom ((regFields (dieHart d u)).set i.val v) (dieHart d u)) d
  | i => s.modTile t fun x => chainPut v x i

/-- A piece of a memory, which SAVE does not scan out, and which keeps its data while the cluster's logic has no power
(R430). -/
def chainLocal : ChainItem → Bool
  | .localMem _ => true
  | .accumulator _ => true
  | .code _ => true
  | .switchCode _ => true
  | _ => false

end Sys2Proof.Machine
end

