-- ==== Sys2Proof/Machine/Debug.lean ====
section
/-! DEFINITION. Debug: halting and resuming a die (R378, R439), DBGCTL and DBGRESUME (R439), and JTAG with the Rhizoid
chain (R442). -/
namespace Sys2Proof.Machine

/-- A write to DBGCTL (R439): one that sets DBGEN or HALT fails unless the debug policy permits debug. -/
def dbgWrite (s : State) (d : DieNo) (v : Nat) : Bool × State :=
  if (bit v 0 || bit v 1) && !s.rot.debugOk then (false, s)
  else
    let s := s.modDie d fun x => { x with dbgen := bit v 0, halt := bit v 1, halted := x.halted && bit v 1 }
    (true, haltTakes s d)

/-- DBGCTL as it reads (R439). -/
def dbgWord (x : Die) : Nat := b2n x.dbgen + b2n x.halt * 2 + b2n x.halted * 4

/-- DEBUG_HALT (R439): HALT = 1, DBGEN as it stands. -/
def execDebugHalt (d : DieNo) (s : State) : Out State := .next (dbgWrite s d (b2n (s.die d).dbgen + 2)).2

/-- DEBUG_RESUME (R439): HALT = 0, DBGEN as it stands; what the halt held proceeds. -/
def execDebugResume (d : DieNo) (s : State) : Out State := .next (dbgWrite s d (b2n (s.die d).dbgen)).2

/-- DEBUG_ENABLE_WRITE (R439): bit 0 of the value as DBGEN, HALT as it stands. -/
def execDebugEnableWrite (d : DieNo) (v : W64) (s : State) : Out State :=
  .next (dbgWrite s d (bits v.toNat 0 1 + 2 * b2n (s.die d).halt)).2

/-- A write to DBGRESUME (R439): the brk of a strand halted at it completes (R121). -/
def dbgResume (s : State) (d : DieNo) (v : Nat) : Bool × State :=
  let i := bits v 0 8
  let t := tileOf (d.val * 144 + i)
  let k := fin8 (bits v 8 3)
  if !bit v 63 || bits v 11 52 != 0 || 143 < i || !s.rot.debugOk || (s.strandAt t k).run != .halted then (false, s)
  else (true, onHart (.strand t k) complete (s.modStrand t k fun z => { z with run := .active }))

/-- DBGRESUME (R439). -/
def execDbgresume (d : DieNo) (v : W64) (s : State) : Out State := .next (dbgResume s d v.toNat).2

/-- The Rhizoid chain reaches a tile: debug is permitted, its die is halted, its cluster has power (R378, R439, R442). -/
def chainOpen (s : State) (t : TileNo) : Bool :=
  let d := s.die (tileDie t)
  s.rot.debugOk && d.halted && d.clusters[clusterOf (tileIdx t)].st != 3

/-- The cluster of a tile is powered with its logic state still zero (R430). -/
def logicZero (s : State) (t : TileNo) : Bool := (s.die (tileDie t)).clusters[clusterOf (tileIdx t)].st == 4

/-! ### JTAG -/

/-- The chain reads a word of a memory that has an uncorrectable error: as the scan-out that it is, it passes nothing on
(R366). -/
def chainBad (x : Tile) : ChainItem → Bool
  | .localMem a => (badIn x.badLm (a % lmSize) 1).isSome
  | .accumulator a => (badIn x.badAcc (a % 0x10000) 1).isSome
  | _ => false

/-- What a private JTAG instruction does through the chain (R442); boundary scan reads pins and changes nothing. The logic
of a cluster that has just been powered shows zeros and takes no write (R430). A bad word fails the owning group's launch
(R366). -/
def jtagStep (s : State) : JtagOp → State
  | .boundaryScan => s
  | .chainRead t i =>
    if !chainOpen s t then s
    else if chainBad (s.tile t) i then s.failGroup t 0x13 0x0D 0 0 0
    else if logicZero s t && !chainLocal i then s.emit (.jtag 0)
    else
      let (n, s) := s.draw
      s.emit (.jtag (chainRead n s t i))
  | .chainWrite t i v =>
    if chainOpen s t && (chainLocal i || !logicZero s t) then chainStore v s t i else s

/-- JTAG_INSTRUCTION (R442). -/
def execJtagInstruction (op : JtagOp) (s : State) : Out State := .next (jtagStep s op)

end Sys2Proof.Machine
end

