-- ==== Sys2Proof/Machine/Link.lean ====
section
/-! DEFINITION. Ethernet ports and the Sniros Link Protocol: posts, frames, acknowledgements, retransmission and resets
(R410-R415, R418). -/
namespace Sys2Proof.Machine

/-- A port number. -/
def fin16 (n : Nat) : Fin 16 := ⟨n % 16, Nat.mod_lt _ (by decide)⟩

/-- Change a peer entry. -/
def State.modPeer (s : State) (p : Nat) (k : Fin 16) (f : Peer → Peer) : State :=
  s.modPort p fun x => { x with peers := x.peers.set k (f x.peers[k]) }

/-- Change a send ring. -/
def State.modRing (s : State) (p : Nat) (r : Fin 16) (f : Ring → Ring) : State :=
  s.modPort p fun x => { x with rings := x.rings.set r (f x.rings[r]) }

/-- The bytes of a frame after the EtherType (R414). -/
def frameBytes (f : Frame) : List Byte :=
  leBytes 1 f.ver ++ leBytes 1 f.kindOf ++ leBytes 2 (b2n f.rst) ++ leBytes 4 f.seq ++ leBytes 1 f.status ++ leBytes 1 f.kind ++
    leBytes 1 f.len ++ leBytes 1 0 ++ leBytes 2 f.flow ++ leBytes 2 0 ++ leBytes 8 f.offset ++ leBytes 8 f.incr.toNat ++ f.data

/-- The frame that received bytes make (R414); the bytes that are zero in every frame are not looked at, log 48. -/
def parseFrame (b : List Byte) : Option Frame :=
  let f (o n : Nat) : Nat := leVal ((b.drop o).take n)
  if b.length < 32 then none
  else some {
    ver := f 0 1, kindOf := f 1 1, rst := bit (f 2 2) 0, seq := f 4 4, status := f 8 1, kind := f 9 1, len := f 10 1
    flow := f 12 2, offset := f 16 8, incr := w64 (f 24 8), data := b.drop 32 }

/-- A frame leaves on a port while it is enabled and its link is up; otherwise it is lost. -/
def State.sendFrame (s : State) (p : Nat) (k : Fin 16) (f : Frame) : State :=
  let x := s.port p
  if x.en && x.linkup then s.emit (.frame p x.peers[k].pmac (frameBytes f)) else s

/-! ### Entries -/

/-- The site of the hub die that holds a port (R388). -/
def portSite (p : Nat) : Site := cornerSite (p / 8)

/-- Physical address of slot `e` of a ring (R411). -/
def entryAddr (r : Ring) (e : Nat) : Nat := r.rbase * 128 + 128 * (e % 2 ^ r.size)

/-- An entry ends: its STATUS is written, and the ring counts failures (R411, R410). A failed link on the way holds the
write, and the entry stays without its status (R417). -/
def State.endEntry (s : State) (p r e status : Nat) : State :=
  let x := (s.port p).rings[fin16 r]
  if !s.requestOpen (portSite p) (entryAddr x e) 8 then s
  else
  let s := s.soundWrite (entryAddr x e + 7) (leBytes 1 status)
  s.modRing p (fin16 r) fun x => { x with
    openEntries := x.openEntries.filter (· != e)
    rfailed := if status = 0 || status = 1 then x.rfailed else (x.rfailed + 1) % 2 ^ 32 }

/-- The record that an entry makes, without its sequence number, or none when it breaks the table of R411. `last` says
that no further posted entry follows it. An entry in a line that is marked failed is not passed on (R366): it makes no record.
DESIGN CHOICE, log 96. -/
def entryFrame (s : State) (r : Ring) (e : Nat) (last : Bool) : Option Frame :=
  let a := entryAddr r e
  let w := s.hbmRead a 8
  let off := s.hbmRead (a + 8) 8
  let len := bits w 8 8
  let f : Frame :=
    { ver := 1, kindOf := 1, rst := false, seq := 0, status := 0, kind := bits w 0 8, len := 0, flow := 0, offset := off
      incr := 0, data := [] }
  if bits w 32 24 ≠ 0 || s.failedIn a 128 then none
  else match bits w 0 8 with
    | 1 =>
      if 1 ≤ len && len ≤ 64 && off % 64 + len ≤ 64 then some { f with len := len, data := s.hbmBytes (a + 0x40) 64 }
      else none
    | 2 => some { f with incr := w64 (s.hbmRead (a + 0x10) 8) }
    | 3 =>
      if last || s.failedIn (entryAddr r (e + 1)) 128 then none
      else some { f with offset := 0, flow := bits w 16 16, data := s.hbmBytes (entryAddr r (e + 1)) 128 }
    | _ => none

/-- Send the first pending entry of a peer (R412, R413), or end it. -/
def sendOne (s : State) (p : Nat) (k : Fin 16) : State :=
  let y := (s.port p).peers[k]
  match y.pend with
  | [] => s
  | (r, e) :: rest =>
    let x := (s.port p).rings[fin16 r]
    let next := rest.contains (r, (e + 1) % 2 ^ 32)
    let isLaunch := (s.soundRead (entryAddr x e) 8).any (bits · 0 8 == 3) && next
    let rest := if isLaunch then rest.filter (· != (r, (e + 1) % 2 ^ 32)) else rest
    let s := s.modPeer p k fun y => { y with pend := rest }
    let s := s.modRing p (fin16 r) fun x => { x with
      rhead := (x.rhead + (if isLaunch then 2 else 1)) % 2 ^ 32
      openEntries := if isLaunch then x.openEntries.filter (· != (e + 1) % 2 ^ 32) else x.openEntries }
    if y.st = 2 then s.endEntry p r e 3
    else match entryFrame s x e (!next) with
      | none => s.endEntry p r e 5
      | some f =>
        let f := { f with seq := y.txseq, rst := y.rstNext }
        let s := s.modPeer p k fun y => { y with
          txseq := (y.txseq + 1) % 2 ^ 32, rstNext := false
          since := if y.unacked.isEmpty then s.dcycle else y.since
          unacked := y.unacked ++ [(f, r, e)] }
        s.sendFrame p k f

/-- A failed link on the way holds the reading of a peer's next pending entry, or of the one after it (R417). -/
def entryHeld (s : State) (p : Nat) (y : Peer) : Bool :=
  match y.pend with
  | [] => false
  | (r, e) :: _ =>
    let x := (s.port p).rings[fin16 r]
    !s.tripOpen (portSite p) (entryAddr x e) 128 || !s.tripOpen (portSite p) (entryAddr x (e + 1)) 128

/-- Send pending entries while fewer than 4,096 frames are unacknowledged (R415); a pair that is down holds them. -/
def sendAll : Nat → State → Nat → Fin 16 → State
  | 0, s, _, _ => s
  | n + 1, s, p, k =>
    let y := (s.port p).peers[k]
    if y.pend.isEmpty || y.st = 0 || 4096 ≤ y.unacked.length || entryHeld s p y then s else sendAll n (sendOne s p k) p k

/-- Let a peer's pending entries go. -/
def flush (s : State) (p : Nat) (k : Fin 16) : State := sendAll ((s.port p).peers[k].pend.length + 1) s p k

/-- A post to a ring (R412): of the entries it posts, those that no earlier post has posted line up at the peer. A failed link
between the tail's home and the hub die holds the post, and with it the statuses (R417). -/
def postRing (s : State) (p : Nat) (r : Fin 16) (v : Nat) : State :=
  let x := (s.port p).rings[r]
  let old := (x.posted + 2 ^ 32 - x.rhead) % 2 ^ 32
  let es := (postedEntries x (v % 2 ^ 32)).drop old
  if es.isEmpty then s
  else
    let s := s.modRing p r fun x => { x with posted := v % 2 ^ 32, openEntries := x.openEntries ++ es }
    if !s.routeOpen (siteOf x.tailpa) (portSite p) then s
    else
    let k := fin16 x.peer
    flush (s.modPeer p k fun y => { y with pend := y.pend ++ es.map fun e => (r.val, e) }) p k

/-- RING_POST (R412): a write of `v` to the ring's tail doubleword has been performed. -/
def execRingPost (p : Fin 32) (r : Fin 16) (v : W64) (s : State) : Out State := .next (postRing s p.val r v.toNat)

/-! ### The receiver -/

/-- The window that takes a peer's bytes (R413): it lies in HBM, within one domain (R410). -/
def windowFor (x : Port) (k : Fin 16) (off len : Nat) : Option Window :=
  x.windows.toList.find? fun w =>
    w.wen && bit w.wpeers k.val && decide (w.wbase ≤ off) && decide (off + len ≤ w.wbase + w.wlen) &&
      inHbm w.wpa w.wlen && w.wpa / domainBytes == (w.wpa + w.wlen - 1) / domainBytes

/-- The queue that takes a launch record from a port and flow (R321); the lowest-numbered of several. DESIGN CHOICE, log 106. -/
def ethQueue (s : State) (p flow : Nat) : Option (Fin 64) :=
  (List.finRange 64).find? fun q => s.hub.queues[q].eth && s.hub.queues[q].port == p && s.hub.queues[q].flow == flow

/-- The range of HBM that a received WRITE is performed at, when its bytes lie in one window (R413). -/
def frameRange (x : Port) (k : Fin 16) (f : Frame) : Option (Nat × Nat) :=
  if f.kind == 1 && decide (1 ≤ f.len) && decide (f.len ≤ 64) && decide (f.offset % 64 + f.len ≤ 64) then
    (windowFor x k f.offset f.len).map fun w => (w.wpa + (f.offset - w.wbase), f.len)
  else none

/-- Perform a received record (R413): its status and the state. A WRITE to a line that is marked failed writes nothing, and is
denied (R366). DESIGN CHOICE, log 96. -/
def performFrame (s : State) (p : Nat) (k : Fin 16) (f : Frame) : Nat × State :=
  let x := s.port p
  let y := x.peers[k]
  match f.kind with
  | 1 =>
    match frameRange x k f with
    | none => (4, s)
    | some (pa, n) =>
      if s.failedIn pa n then (4, s) else (1, s.hbmWrite pa ((f.data.drop (f.offset % 64)).take n) 0xFFFF)
  | 2 =>
    if y.incrok && decide (y.cbase ≤ f.offset) && decide (f.offset < y.cbase + y.ccount) && decide (f.offset < 4096) then
      (1, s.counterAdd (portSource p) f.offset f.incr.toNat)
    else (4, s)
  | 3 =>
    match ethQueue s p f.flow with
    | none => (2, s)
    | some q =>
      let z := s.hub.queues[q]
      if !y.launchok || !(1 ≤ z.size && z.size ≤ 16) || (z.en && !queueUsable z) || 2 ^ z.size ≤ queueWaiting z then (2, s)
      else (1, s.pushRecord q f.data)
  | _ => (5, s)

/-- An acknowledgement of one sequence number (R414). -/
def ackOf (seq status : Nat) : Frame :=
  { ver := 1, kindOf := 2, rst := false, seq := seq, status := status, kind := 0, len := 0, flow := 0, offset := 0
    incr := 0, data := [] }

/-- A record is complete: its status is stored and sent back (R414, R415). -/
def answerFrame (s : State) (p : Nat) (k : Fin 16) (f : Frame) (st : Nat) : State :=
  let s := s.modPeer p k fun y => { y with
    rxseq := (f.seq + 1) % 2 ^ 32
    rstFrame := if f.rst then some f else y.rstFrame
    statuses := ((f.seq, st) :: (if f.rst then [] else y.statuses)).take 4096
    open_ := none }
  s.sendFrame p k (ackOf f.seq st)

/-- A frame in sequence, or one with RST, is performed (R414, R415). A WRITE that is itself a post is complete once the entries
that it posts have their statuses (R412, R413); one whose response a failed link holds is never (R417). -/
def takeFrame (s : State) (p : Nat) (k : Fin 16) (f : Frame) : State :=
  let range := frameRange (s.port p) k f
  let (st, s) := performFrame s p k f
  match if st = 1 then range else none with
  | none => answerFrame s p k f st
  | some (pa, n) =>
    if (s.postsOf pa n).isEmpty && s.replyOpen (portSite p) pa n then answerFrame s p k f st
    else s.modPeer p k fun y => { y with open_ := some ⟨f, st, pa, s.postsOf pa n⟩ }

/-- The record that is being performed is complete (R413). -/
def closeFrame (s : State) (p : Nat) (k : Fin 16) : State :=
  match (s.port p).peers[k].open_ with
  | some ⟨f, st, pa, l⟩ => if postDone s l && s.replyOpen (portSite p) pa 1 then answerFrame s p k f st else s
  | none => s

/-- A record waits: an earlier one of the pair is not complete (R413); the entry of the launch queue's ring that takes it
stands in host memory behind a module that is down (R407); or a failed link lies on its way (R417). -/
def frameHeld (s : State) (p : Nat) (k : Fin 16) (f : Frame) : Bool :=
  (s.port p).peers[k].open_.isSome ||
    (f.kind == 1 && (frameRange (s.port p) k f).any fun r => !s.requestOpen (portSite p) r.1 r.2) ||
    ((f.kind == 2 || f.kind == 3) && !s.routeOpen (portSite p) (cornerSite 0)) ||
    (f.kind == 3 && (ethQueue s p f.flow).any fun q => !ringReady s (portSite p) s.hub.queues[q] s.hub.queues[q].qtail)

/-- A DATA frame (R414, R415): in sequence, a duplicate, or dropped. While its record waits it is neither performed nor
answered, and the sender sends it again. -/
def dataFrame (s : State) (p : Nat) (k : Fin 16) (f : Frame) : State :=
  let y := (s.port p).peers[k]
  let back := (y.rxseq + 2 ^ 32 - f.seq) % 2 ^ 32
  let again := y.statuses.lookup f.seq
  if !(s.port p).en || !y.valid || f.ver != 1 || f.kindOf != 1 then s
  else if frameHeld s p k f && (f.seq = y.rxseq || f.rst) then s
  else if f.rst && y.rstFrame != some f then takeFrame s p k f
  else if f.seq = y.rxseq then takeFrame s p k f
  else if 1 ≤ back && back ≤ 4096 && again.isSome then
    (s.modPort p fun x => { x with dups := (x.dups + 1) % 2 ^ 32 }).sendFrame p k (ackOf f.seq (again.getD 0))
  else s

/-- DATA_FRAME_RECEIVE (R414, R415): the bytes of a frame from a peer. -/
def execDataFrameReceive (p : Fin 32) (peer : Fin 16) (bytes : List Byte) (s : State) : Out State :=
  .next (match parseFrame bytes with
    | some f => dataFrame s p.val peer f
    | none => s)

/-! ### The sender -/

/-- An acknowledgement (R415): the entry of the acknowledged frame ends with its status. The timer starts again when the frame
was the oldest. -/
def ackFrame (s : State) (p : Nat) (k : Fin 16) (seq status : Nat) : State :=
  let y := (s.port p).peers[k]
  match y.unacked.find? fun u => u.1.seq == seq with
  | none => s
  | some (_, r, e) =>
    if !(s.port p).en || !y.valid then s
    else
      let oldest := (y.unacked.head?).any fun u => u.1.seq == seq
      let s := s.modPeer p k fun y => { y with
        unacked := y.unacked.filter fun u => u.1.seq != seq, rounds := 0, since := if oldest then s.dcycle else y.since }
      flush (s.endEntry p r e status) p k

/-- ACK_FRAME_RECEIVE (R414, R415): the bytes of a frame from a peer, with those that fill a short frame up. -/
def execAckFrameReceive (p : Fin 32) (peer : Fin 16) (bytes padding : List Byte) (s : State) : Out State :=
  .next (match parseFrame (bytes ++ padding) with
    | some f => if f.ver = 1 && f.kindOf = 2 then ackFrame s p.val peer f.seq f.status else s
    | none => s)

/-- Every unsent and unacknowledged entry of a pair ends with status 3 (R414, R415). -/
def dropPair (s : State) (p : Nat) (k : Fin 16) : State :=
  let y := (s.port p).peers[k]
  let s := s.modPeer p k fun y => { y with unacked := [] }
  let s := y.unacked.foldl (fun s u => s.endEntry p u.2.1 u.2.2 3) s
  let s := s.modPeer p k fun y => { y with st := 2 }
  flush s p k

/-- RETRANSMIT_TIMEOUT (R415): the unacknowledged frames are sent again, or, after RETRY rounds, the peer has failed. -/
def retransmit (s : State) (p : Nat) (k : Fin 16) : State :=
  let x := s.port p
  let y := x.peers[k]
  if y.unacked.isEmpty || y.st ≠ 1 || s.dcycle < y.since + x.rto then s
  else if x.retry ≤ y.rounds then (dropPair s p k).irq 2
  else
    let s := s.modPeer p k fun y => { y with rounds := y.rounds + 1, since := s.dcycle }
    y.unacked.foldl (fun s u => s.sendFrame p k u.1) s

/-- RETRANSMIT_TIMEOUT (R415). -/
def execRetransmitTimeout (p : Fin 32) (peer : Fin 16) (s : State) : Out State := .next (retransmit s p.val peer)

/-- A write to a peer entry's first doubleword (R410, R414): VALID = 1 resets the pair. -/
def peerWrite (s : State) (p : Nat) (k : Fin 16) (v : Nat) : State :=
  let s := if bit v 56 then dropPair s p k else s
  s.modPeer p k fun y =>
    let y := { y with
      pmac := bits v 0 48, pport := bits v 48 5, valid := bit v 56, launchok := bit v 59, incrok := bit v 60 }
    if bit v 56 then
      { y with st := 1, txseq := 0, rxseq := 0, rstNext := true, statuses := [], rstFrame := none, rounds := 0, open_ := none }
    else { y with st := 0 }

/-- PEER_RESET (R414). -/
def execPeerReset (p : Fin 32) (peer : Fin 16) (v : W64) (s : State) : Out State :=
  .next (peerWrite s p.val peer (v ||| w64 (2 ^ 56)).toNat)

/-- FCS_ERROR (R418): the frame is dropped and counted. -/
def execFcsError (p : Fin 32) (s : State) : Out State :=
  .next (s.modPort p.val fun x => { x with fcserr := (x.fcserr + 1) % 2 ^ 32 })

/-- ETHERNET_LINK_CHANGE (R410). -/
def execEthernetLinkChange (p : Fin 32) (up : Bool) (s : State) : Out State :=
  .next (s.modPort p.val fun x => { x with linkup := up })

end Sys2Proof.Machine
end

