-- ==== Sys2Proof/Machine/Seam.lean ====
section
/-! DEFINITION. Seam selectors (R395), resends after a CRC failure (R416) and failed lanes and links (R417). -/
namespace Sys2Proof.Machine

/-- The selector of an output lane. -/
def selNo (q : Fin 4) (l : Fin 12) : Fin 48 := ⟨q.val * 12 + l.val, by omega⟩

/-- The compute die that side `q` of a cache die faces (R394). -/
def facingDie (c q : Nat) : Option Nat :=
  let (col, row) := cacheSite c
  match q with
  | 0 => if row = 0 then none else some ((row - 1) * 10 + col / 2)
  | 1 => if col + 1 < 20 then some (row * 10 + (col + 1) / 2) else none
  | 2 => if row + 1 < 20 then some ((row + 1) * 10 + col / 2) else none
  | _ => if col = 0 then none else some (row * 10 + (col - 1) / 2)

/-- The edge tile of a lane (R394). -/
def laneTile (c q l : Nat) : Option TileNo :=
  (facingDie c q).map fun d =>
    let i := match q with
      | 0 => 132 + l
      | 1 => 12 * l
      | 2 => l
      | _ => 12 * l + 11
    tileOf (d * 144 + i)

/-- A tile at the end of a lane has its clock running. -/
def laneRuns (s : State) (c q l : Nat) : Bool := (laneTile c q l).any (tileRuns s)

/-- The tile that feeds an output lane as it is joined now has its clock running. -/
def sourceRuns (s : State) (c : DieNo) (y : Selector) : Bool := y.en && !y.term && laneRuns s c.val y.side y.lane

/-- A write to a seam selector fails (R395). With TERM = 1 its SIDE and LANE are ignored. -/
def selBad (s : State) (c : DieNo) (q : Fin 4) (l : Fin 12) (v : Nat) : Bool :=
  let side := bits v 1 2
  let lane := bits v 3 4
  let x := s.cache c
  laneRuns s c.val q.val l.val || sourceRuns s c x.sels[selNo q l] || (facingDie c.val q.val).isNone ||
    (!bit v 7 && (laneRuns s c.val side lane || side == q.val || decide (11 < lane) || (facingDie c.val side).isNone ||
      (List.finRange 48).any fun i =>
        i != selNo q l && x.sels[i].en && !x.sels[i].term && x.sels[i].side == side && x.sels[i].lane == lane))

/-- The port buffer that a lane's flits arrive in, at the tile that faces its output: tile and port (R394, R397). -/
def laneEnd (c : DieNo) (i : Fin 48) : Option (TileNo × Nat) :=
  (laneTile c.val (i.val / 12) (i.val % 12)).map fun t => (t, opposite (i.val / 12))

/-- Flits that have crossed a lane take the free places of the two of the receiving port buffer, while its tile is awake: in a
debug halt they are held at the edge of the die (R378, R397). -/
def laneArrive (c : DieNo) (i : Fin 48) (s : State) : State :=
  let y := (s.cache c).sels[i]
  match laneEnd c i with
  | some (t, p) =>
    let b := portBuf (s.tile t).sw p
    let come := (y.path.takeWhile fun f => decide (f.from_ ≤ s.now)).take (2 - b.buf.length)
    if come.isEmpty || !tileAwake s t then s
    else (s.modTile t fun x => { x with sw := setPortBuf p { b with buf := b.buf ++ come.map fun f => { f with from_ := 0 } } x.sw
        }).modCache c fun x => { x with sels := x.sels.set i { y with path := y.path.drop come.length } }
  | none => s

/-- Flits that stand in the port buffer at a lane's end. -/
def buffered (s : State) (c : DieNo) (i : Fin 48) : Nat :=
  match laneEnd c i with
  | some (t, p) => (portBuf (s.tile t).sw p).buf.length
  | none => 0

/-- A write to a seam selector (R395, R397): joining a lane empties it and gives it a credit for each of its twelve places but
those of the flits that the port buffer at its end still holds. -/
def selWrite (s : State) (c : DieNo) (q : Fin 4) (l : Fin 12) (v : Nat) : Bool × State :=
  if selBad s c q l v then (false, s)
  else
    let old := (s.cache c).sels[selNo q l]
    let joined := bit v 0 && !bit v 7
    let keep := joined && old.en && !old.term && old.side == bits v 1 2 && old.lane == bits v 3 4
    let y : Selector :=
      { en := bit v 0, side := bits v 1 2, lane := bits v 3 4, term := bit v 7
        credit := if keep then old.credit else if joined then 12 - buffered s c (selNo q l) else 0
        flits := if bit v 0 && !old.en then 0 else old.flits
        path := if keep then old.path else [], returns := if keep then old.returns else []
        resends := 0, resentTo := 0 }
    (true, s.modCache c fun x => { x with sels := x.sels.set (selNo q l) y })

/-- SEAM_SELECTOR_WRITE (R395), as the loader and firmware make it. -/
def execSeamSelectorWrite (c : DieNo) (q : Fin 4) (l : Fin 12) (v : W64) (s : State) : Out State :=
  .next (selWrite s c q l v.toNat).2

/-- Fail every launch with a group on a tile of the list (R417). -/
def failOn (s : State) (ts : List TileNo) (eval : W64) : State :=
  s.failAll (fun l => ts.any fun t => (s.tile t).group.any fun g => g.lnum == l.lnum) eval

/-- SEAM_LANE_FAIL (R417): the launches at either end of the lane fail, and LINK is raised. -/
def failLane (s : State) (c : DieNo) (q : Fin 4) (l : Fin 12) : State :=
  let y := (s.cache c).sels[selNo q l]
  let other := if y.en && !y.term then laneTile c.val y.side y.lane else none
  (failOn s ((laneTile c.val q.val l.val).toList ++ other.toList)
    (w64 (0x4000000000000000 + c.val * 2 ^ 8 + q.val * 12 + l.val))).irq 2

/-- SEAM_LANE_FAIL (R417). -/
def execSeamLaneFail (c : DieNo) (q : Fin 4) (l : Fin 12) (s : State) : Out State := .next (failLane s c q l)

/-- Delay the first flit still on its way, and every later one, by 12 cycles (R416). -/
def delayFlits (now : Nat) : List Flit → List Flit
  | [] => []
  | f :: r =>
    if now < f.from_ then { f with from_ := f.from_ + 12 } :: r.map fun g => { g with from_ := g.from_ + 12 }
    else f :: delayFlits now r

/-- A lane after a resend: the flit that crosses it, and all behind it, arrive 12 cycles later; the resends in a row are
counted from the last flit that arrived without one (R416, R417). -/
def resendLane (now : Nat) (y : Selector) : Selector :=
  let path := delayFlits now y.path
  { y with
    path := path, resends := if now < y.resentTo then y.resends + 1 else 1
    resentTo := ((path.find? fun f => decide (now < f.from_)).map (·.from_)).getD 0 }

/-- SEAM_CRC_RESEND (R416, R417): a flit that has failed its CRC is resent. When it is the eighth resend in a row that has
failed, the lane fails. -/
def execSeamCrcResend (c : DieNo) (q : Fin 4) (l : Fin 12) (s : State) : Out State :=
  let i := selNo q l
  let y := (s.cache c).sels[i]
  .next <| if y.path.all fun f => decide (f.from_ ≤ s.now) then s
    else
      let s := s.modCache c fun x => { x with sels := x.sels.set i (resendLane s.now y) }
      if 8 < (resendLane s.now y).resends then failLane s c q l else s

/-- DYNAMIC_LINK_FAIL (R417): a link, which one physics decides, holds the packets routed across it; every admitted launch
fails, MACHINE_CHECK and LINK are raised, and nothing more is admitted until a reset. DEDUCED, log 108. -/
def execDynamicLinkFail (s : State) : Out State :=
  let (n, s) := s.draw
  .next ((((s.failAll (fun _ => true) 0).modHub fun h => { h with
    down := true, cuts := h.cuts ++ [(Config.failedLink n).val] }).irq 1).irq 2)

end Sys2Proof.Machine
end

