-- ==== Sys2Proof/Machine/Watch.lean ====
section
/-! DEFINITION. Watch triggers: their registers (R253), enabling one, and the pushing of a pending firing (R254, R322). -/
namespace Sys2Proof.Machine

/-- Change a watch trigger. -/
def modWatch (s : State) (c : DieNo) (n : Fin 16) (f : Watch → Watch) : State :=
  s.modCache c fun x => { x with watches := x.watches.set n (f x.watches[n]) }

/-- A write to a trigger's control doubleword (R253): enabling one whose line is homed elsewhere, or whose FIRST is above
LAST, fails and leaves EN at 0. -/
def watchControl (s : State) (c : DieNo) (n : Fin 16) (v : Nat) : Bool × State :=
  let w := (s.cache c).watches[n]
  let w := { w with
    oneshot := bit v 1, any := bit v 2, first := bits v 3 4, last := bits v 7 4, ctx := bits v 16 16 }
  if bit v 0 && (!isHbm (w.line * 128) || (homeSlice (w.line * 128)).1 != c.val || w.last < w.first) then
    (false, modWatch s c n fun w => { w with en := false })
  else (true, modWatch s c n fun _ => { w with en := bit v 0 })

/-- WATCH_ENABLE_WRITE (R253). -/
def execWatchEnableWrite (c : DieNo) (n : Fin 16) (v : W64) (s : State) : Out State := .next (watchControl s c n v.toNat).2

/-- A firing copies its registered record into its queue, which takes it (R322). -/
def firingPush (c : DieNo) (n : Fin 16) (s : State) : State :=
  let w := (s.cache c).watches[n]
  modWatch (s.pushRecord ⟨w.queue % 64, by omega⟩ (memBytes s.hub.records (128 * w.recno) 128)) c n fun w =>
    { w with fires := (w.fires + 1) % 2 ^ 32 }

/-- The queue of a trigger takes a firing now (R322). -/
def triggerTakes (c : DieNo) (n : Fin 16) (s : State) : Bool :=
  takesFiring s (s.hub.queues[(s.cache c).watches[n].queue % 64]'(by omega))

/-- A pending firing is pushed once the queue takes it (R322). -/
def pendingPush (c : DieNo) (n : Fin 16) (s : State) : State :=
  if (s.cache c).watches[n].pending && triggerTakes c n s then
    modWatch (firingPush c n s) c n fun w => { w with pending := false }
  else s

/-- A firing on its way reaches its queue (R254, R322): it is pushed, or pending while the queue does not take it, or dropped
while one is pending already. -/
def duePush (c : DieNo) (n : Fin 16) (s : State) : State :=
  if (s.cache c).watches[n].due = 0 then s
  else
    let s := modWatch s c n fun w => { w with due := w.due - 1 }
    if (s.cache c).watches[n].pending then modWatch s c n fun w => { w with overflow := true }
    else if triggerTakes c n s then firingPush c n s
    else modWatch s c n fun w => { w with pending := true }

/-- WATCH_PENDING_PUSH (R254, R322): the pending firing of a trigger, then one on its way; a failed link on the way to the
hub die holds them (R417). -/
def execWatchPendingPush (c : DieNo) (n : Fin 16) (s : State) : Out State :=
  .next <| if s.routeOpen (cacheSite c.val) (cornerSite 0) then duePush c n (pendingPush c n s) else s

end Sys2Proof.Machine
end

