-- ==== Sys2Proof/Machine/Registers.lean ====
section
/-! DEFINITION. The control blocks (R220): die controllers (R285, R367, R391, R424, R426, R429, R439, R440), cache dies
(R253, R395, R440) and hub dies (R318, R319, R323, R338, R408, R410, R425, R436, R441), as the host, firmware and the
management harts read and write them. An offset that no register names is unbacked (R220). Reserved bits read as zero
and take no write (R8). A read of a register that is only written fails, DEDUCED, log 35. -/
namespace Sys2Proof.Machine

/-- Who accesses a control block: the host over a UCIe module, or firmware, the management harts with it. -/
inductive Party
  | host (m : Fin 4)
  | firmware
deriving DecidableEq, Repr

/-- A control block and the offset in it (R220). -/
inductive Block
  | die (d : DieNo) (off : Nat)
  | cache (c : DieNo) (off : Nat)
  | hub (h : Fin 4) (off : Nat)
deriving DecidableEq, Repr

/-- The block an address lies in (R220). -/
def blockOf (pa : Nat) : Option Block :=
  let n := bits pa 24 8
  if paRange pa = 9 && n < 200 && bits pa 32 16 = 0 then some (.die (dieOf n) (pa % 2 ^ 24))
  else if paRange pa = 9 && n < 200 && bits pa 32 16 = 0x1000 then some (.cache (dieOf n) (pa % 2 ^ 24))
  else if paRange pa = 0xA && bits pa 32 16 < 4 then some (.hub ⟨bits pa 32 16 % 4, by omega⟩ (pa % 2 ^ 32))
  else none

/-- The party is the host. -/
def Party.isHost : Party → Bool
  | .host _ => true
  | .firmware => false

/-- A party's place among the sources of counter writes (R340). -/
def Party.source : Party → Nat
  | .host m => hostSource m.val
  | .firmware => firmwareSource

/-- What a write to a register does: nothing when it fails (R221). -/
abbrev Wr := Option State

/-! ### Die controllers -/

/-- PCAP (R426). -/
def pcapWord (x : Die) : Nat := x.duty + x.issueCap * 2 ^ 8 + x.pread % 2 ^ 32 * 2 ^ 32

/-- CLCTL, CLSTAT and CLSAVE (R429). -/
def clctlWord (c : Cluster) : Nat := c.cmd + b2n c.autowake * 8
/-- See `clctlWord`. -/
def clstatWord (c : Cluster) : Nat :=
  c.st + b2n c.busy.isSome * 8 + c.err * 16 + b2n c.errv * 2 ^ 8 + b2n c.wakereq * 2 ^ 9 + c.trans * 2 ^ 16
/-- See `clctlWord`. -/
def clsaveWord (c : Cluster) : Nat := c.rslot + c.pbase

/-- Entry of the relocation table as the block of die `d` shows it (R391): 256 bits. -/
def relocWord (s : State) (d : DieNo) (n : Nat) : Nat :=
  let e := tabGet {} n s.hub.reloc
  if !e.valid || e.die != d.val then 0
  else e.lnum + e.die * 2 ^ 32 + e.w * 2 ^ 40 + e.h * 2 ^ 44 + 2 ^ 63 + e.origins.foldl (fun a i => a ||| 2 ^ (64 + i)) 0

/-- The cluster registers (R429). -/
def clusterRead (c : Cluster) (r : Nat) : Option Nat :=
  match r with
  | 0 => some (clctlWord c)
  | 8 => some (clstatWord c)
  | 0x10 => some (clsaveWord c)
  | _ => none

/-- An 8-byte register of a die controller. -/
def dieRead (s : State) (d : DieNo) (off : Nat) : Option Nat :=
  let x := s.die d
  if off = 0x010000 then some x.fqTail
  else if off = 0x010008 then some x.fqHead
  else if off = 0x010018 then some x.fqNextSeq
  else if 0x040000 ≤ off && off < 0x040100 then clusterRead (x.clusters[(off - 0x040000) / 0x40 % 4]'(by omega)) (off % 0x40)
  else if off = 0x050000 then some (pcapWord x)
  else if off = 0x070000 then some (dbgWord x)
  else if off = 0x11FFF0 then some x.mgmt.mhval.toNat
  else if off = 0x11FFF8 then some x.mgmt.mhstat.toNat
  else none

/-- W1C bits of CLSTAT (R429). -/
def clstatClear (v : Nat) (c : Cluster) : Cluster :=
  { c with errv := c.errv && !bit v 8, wakereq := c.wakereq && !bit v 9 }

/-- A write to a cluster register (R429, R430). -/
def clusterWrite (s : State) (d : DieNo) (k : Fin 4) (r v : Nat) : Wr :=
  match r with
  | 0 => some (clctlWrite s d k v)
  | 8 => some (s.modCluster d k (clstatClear v))
  | 0x10 => some (clsaveSet s d k v)
  | 0x18 => some (if bit v 0 then wakeCluster s d k else s)
  | _ => none

/-- The management hart as it begins its program (R424): PC 0, registers 0, CYCLE 0. -/
def mgmtBegin (m : Mgmt) : Mgmt := { m with r := {}, running := true, cycle := 0 }

/-- A write to MHSTAT (R424). Firmware clears it when it loads a program, and the hart begins; DESIGN CHOICE, log 36. -/
def mhstatWrite (p : Party) (v : Nat) (m : Mgmt) : Mgmt :=
  let m' := { m with mhstat := w64 (bits v 0 9 + bits v 16 16 * 2 ^ 16) }
  if p = .firmware && m'.mhstat = 0 && !m.running then mgmtBegin m' else m'

/-- The success of a write that may fail. -/
def onSuccess (r : Bool × State) : Wr := if r.1 then some r.2 else none

/-- An 8-byte write to a register of a die controller. -/
def dieWrite (p : Party) (s : State) (d : DieNo) (off v : Nat) : Wr :=
  if off = 0x010008 then some (fqHeadSet s d (w64 v))
  else if off = 0x010010 then some (replyWrite s d (w64 v))
  else if 0x040000 ≤ off && off < 0x040100 then
    clusterWrite s d ⟨(off - 0x040000) / 0x40 % 4, by omega⟩ (off % 0x40) v
  else if off = 0x070000 then onSuccess (dbgWrite s d v)
  else if off = 0x070008 then onSuccess (dbgResume s d v)
  else if off = 0x11FFF0 then some (s.modDie d fun x => { x with mgmt := { x.mgmt with mhval := w64 v } })
  else if off = 0x11FFF8 then some (s.modDie d fun x => { x with mgmt := mhstatWrite p v x.mgmt })
  else none

/-- The correctable-error counters of a block (R440): 32 bits each, at +0 and +4. -/
def counterWord (a b : Nat) : Nat := a + b * 2 ^ 32

/-- The bytes of a die controller that are memories or wide entries: fault queue, relocation table, counters, microcode
and the management hart's program. -/
def dieBytes (s : State) (d : DieNo) (off n : Nat) : Option (List Byte) :=
  let x := s.die d
  let part (w o : Nat) : List Byte := (leBytes 32 w).drop o |>.take n
  if 0x020000 ≤ off && off < 0x024000 && n % 8 = 0 && n ≤ 32 then
    some (part (tabGet 0 ((off - 0x020000) / 32) x.fq) (off % 32))
  else if 0x030000 ≤ off && off < 0x038000 && n % 8 = 0 && n ≤ 32 then
    some (part (relocWord s d ((off - 0x030000) / 32)) (off % 32))
  else if 0x060000 ≤ off && off < 0x060008 && (n = 4 || n = 8) then
    some (part (counterWord x.errLocal x.errAcc) (off % 8))
  else if 0x100000 ≤ off && off < 0x110000 then some (memBytes (microcodeOf s d) (off - 0x100000) n)
  else if 0x110000 ≤ off && off + n ≤ 0x11FFF0 then some (memBytes (programOf s d) (off - 0x110000) n)
  else none

/-- Clear the counters that a write of zeros covers (R440): the first when `o` is 0, the second when it reaches byte 4. -/
def counterClear (o : Nat) (bs : List Byte) (a b : Nat) : Nat × Nat :=
  let z := leVal bs = 0
  (if z && o = 0 then 0 else a, if z && (o = 4 || bs.length = 8) then 0 else b)

/-- Writes of other shapes to a die controller: counters, and what only firmware writes. -/
def dieBytesWrite (p : Party) (s : State) (d : DieNo) (off : Nat) (bs : List Byte) : Wr :=
  if 0x060000 ≤ off && off < 0x060008 && (bs.length = 4 || bs.length = 8) then
    some (s.modDie d fun x =>
      let (a, b) := counterClear (off % 8) bs x.errLocal x.errAcc
      { x with errLocal := a, errAcc := b })
  else if p.isHost then none
  else if 0x100000 ≤ off && off < 0x110000 then
    let m := memWrite (microcodeOf s d) (off - 0x100000) bs
    some (s.modDie d fun x => { x with microcode := some m })
  else if 0x110000 ≤ off && off + bs.length ≤ 0x11FFF0 then
    let m := memWrite (programOf s d) (off - 0x110000) bs
    some (s.modDie d fun x => { x with progMem := some m })
  else none

/-! ### Cache dies -/

/-- The registers of a watch trigger (R253). -/
def watchRead (w : Watch) (r : Nat) : Option Nat :=
  match r with
  | 0 => some (w.line * 128)
  | 8 => some w.val.toNat
  | 0x10 => some w.mask.toNat
  | 0x18 => some (w.recno + w.queue * 2 ^ 16)
  | 0x20 => some (b2n w.en + b2n w.oneshot * 2 + b2n w.any * 4 + w.first * 8 + w.last * 2 ^ 7 + w.ctx * 2 ^ 16)
  | 0x28 => some (b2n w.pending + b2n w.overflow * 2 + w.fires * 2 ^ 32)
  | _ => none

/-- A write to a register of a watch trigger (R253). -/
def watchWrite (s : State) (c : DieNo) (n : Fin 16) (r v : Nat) : Wr :=
  match r with
  | 0 => some (modWatch s c n fun w => { w with line := bits v 7 45 })
  | 8 => some (modWatch s c n fun w => { w with val := w64 v })
  | 0x10 => some (modWatch s c n fun w => { w with mask := w64 v })
  | 0x18 => some (modWatch s c n fun w => { w with recno := bits v 0 10, queue := bits v 16 6 })
  | 0x20 => onSuccess (watchControl s c n v)
  | 0x28 => some (modWatch s c n fun w => { w with overflow := w.overflow && !bit v 1 })
  | _ => none

/-- A seam selector (R395). -/
def seamWord (x : Selector) : Nat :=
  b2n x.en + x.side * 2 + x.lane * 8 + b2n x.term * 2 ^ 7 + x.credit * 2 ^ 8 + x.flits % 2 ^ 16 * 2 ^ 16

/-- An 8-byte register of a cache die. -/
def cacheRead (s : State) (c : DieNo) (off : Nat) : Option Nat :=
  let x := s.cache c
  if 0x1000 ≤ off && off < 0x1400 then watchRead (x.watches[(off - 0x1000) / 64 % 16]'(by omega)) (off % 64)
  else if 0x2000 ≤ off && off < 0x2180 then some (seamWord (x.sels[(off - 0x2000) / 8 % 48]'(by omega)))
  else none

/-- An 8-byte write to a cache die; selectors are the loader's and firmware's (R395). -/
def cacheWrite (p : Party) (s : State) (c : DieNo) (off v : Nat) : Wr :=
  if 0x1000 ≤ off && off < 0x1400 then watchWrite s c ⟨(off - 0x1000) / 64 % 16, by omega⟩ (off % 64) v
  else if 0x2000 ≤ off && off < 0x2180 && p = .firmware then
    let i := (off - 0x2000) / 8
    onSuccess (selWrite s c ⟨i / 12 % 4, by omega⟩ ⟨i % 12, by omega⟩ v)
  else none

/-- The counters of a cache die (R440). -/
def cacheBytes (s : State) (c : DieNo) (off n : Nat) : Option (List Byte) :=
  let x := s.cache c
  if 0x060000 ≤ off && off < 0x060008 && (n = 4 || n = 8) then
    some (((leBytes 8 (counterWord x.errSlice x.errHbm)).drop (off % 8)).take n)
  else none

/-- Clearing the counters of a cache die (R440). -/
def cacheBytesWrite (s : State) (c : DieNo) (off : Nat) (bs : List Byte) : Wr :=
  if 0x060000 ≤ off && off < 0x060008 && (bs.length = 4 || bs.length = 8) then
    some (s.modCache c fun x =>
      let (a, b) := counterClear (off % 8) bs x.errSlice x.errHbm
      { x with errSlice := a, errHbm := b })
  else none

/-! ### The dispatcher's registers -/

/-- QCFG (R319). -/
def qcfgWord (q : LQueue) : Nat :=
  b2n q.en + b2n q.det * 2 + q.prio * 4 + q.latclass * 2 ^ 6 + q.slot * 2 ^ 10 + b2n q.eth * 2 ^ 18

/-- A register of a launch queue (R319). -/
def queueRead (q : LQueue) (r : Nat) : Option Nat :=
  match r with
  | 0 => some (q.qbase * 128)
  | 8 => some q.size
  | 0x10 => some q.qhead
  | 0x18 => some q.qtail
  | 0x20 => some (qcfgWord q)
  | 0x28 => some q.quant
  | 0x30 => some (q.port + q.flow * 2 ^ 16)
  | 0x38 => some (b2n q.bellerr + b2n q.stlost * 2 + q.refused * 2 ^ 32)
  | _ => none

/-- Change a queue that is not enabled; an enabled one ignores the write (R319). -/
def whenOff (s : State) (q : Fin 64) (f : LQueue → LQueue) : Wr := some (s.modQueue q fun x => if x.en then x else f x)

/-- A write to a register of a launch queue (R319, R320). -/
def queueWrite (s : State) (q : Fin 64) (r v : Nat) : Wr :=
  match r with
  | 0 => whenOff s q fun x => { x with qbase := bits v 7 45 }
  | 8 => whenOff s q fun x => { x with size := bits v 0 5 }
  | 0x18 => some (doorbellWrite s q (w64 v))
  | 0x20 => some (qcfgSet s q (w64 v))
  | 0x28 => whenOff s q fun x => { x with quant := bits v 0 32 }
  | 0x30 => whenOff s q fun x => { x with port := bits v 0 5, flow := bits v 16 16 }
  | 0x38 => some (s.modQueue q fun x => { x with bellerr := x.bellerr && !bit v 0, stlost := x.stlost && !bit v 1 })
  | _ => none

/-- A register of a model slot (R338). -/
def slotRead (x : Slot) (r : Nat) : Option Nat :=
  match r with
  | 0 => some x.image.toNat
  | 8 => some (x.w + x.h * 2 ^ 8 + x.ctx * 2 ^ 16 + x.standing * 2 ^ 32)
  | 0x10 => some x.st
  | 0x18 => some x.sstart
  | 0x20 => some x.sfreeze
  | _ => if r % 8 = 0 && r < 0x80 then some 0 else none

/-- A write to a register of a model slot (R338); its fields take a write only while it is empty. -/
def slotWrite (s : State) (i : Fin 32) (r v : Nat) : Wr :=
  let set (f : Slot → Slot) : Wr := some (s.modSlot i fun x => if x.st = 0 then f x else x)
  match r with
  | 0 => set fun x => { x with image := w64 v }
  | 8 => set fun x => { x with w := bits v 0 8, h := bits v 8 8, ctx := bits v 16 16, standing := bits v 32 16 }
  | 0x10 =>
    some (if bit v 2 && s.hub.slots[i].st = 0 then loadSlot s i else if bit v 3 then unloadSlot s i else s)
  | _ => none

/-- ADMITTED (R318). -/
def admittedWord (s : State) : Nat := activeCount s + waitingCount s * 2 ^ 16

/-- An 8-byte register of the dispatcher (R318). -/
def dispatchRead (s : State) (off : Nat) : Option Nat :=
  let h := s.hub
  if off = 0 then some (b2n h.en)
  else if off = 0x10 then some (admittedWord s)
  else if 0x108 ≤ off && off < 0x180 then some (h.latbound.toList.getD ((off - 0x108) / 8) 0)
  else if 0x010000 ≤ off && off < 0x014000 then
    queueRead (h.queues[(off - 0x010000) / 0x100 % 64]'(by omega)) (off % 0x100)
  else if 0x020000 ≤ off && off < 0x021000 then
    slotRead (h.slots[(off - 0x020000) / 0x80 % 32]'(by omega)) (off % 0x80)
  else if 0x100000 ≤ off && off < 0x108000 then some (tabGet 0 ((off - 0x100000) / 8) h.counters)
  else if 0x200000 ≤ off && off < 0x204000 then some (tabGet 0 ((off - 0x200000) / 8) h.ctxs)
  else if 0x300000 ≤ off && off < 0x320000 then some (memRead h.records (off - 0x300000) 8)
  else none

/-- An 8-byte write to a register of the dispatcher (R318). -/
def dispatchWrite (p : Party) (s : State) (off v : Nat) : Wr :=
  if off = 0 then some (dctlSet s (w64 v))
  else if off = 8 then some (cancelLaunch s (w64 v))
  else if 0x108 ≤ off && off < 0x180 then
    some (s.modHub fun h => { h with latbound := h.latbound.set ((off - 0x108) / 8 % 15) (bits v 0 32) (by omega) })
  else if 0x010000 ≤ off && off < 0x014000 then queueWrite s ⟨(off - 0x010000) / 0x100 % 64, by omega⟩ (off % 0x100) v
  else if 0x020000 ≤ off && off < 0x021000 then slotWrite s ⟨(off - 0x020000) / 0x80 % 32, by omega⟩ (off % 0x80) v
  else if 0x100000 ≤ off && off < 0x108000 then some (s.counterWrite p.source ((off - 0x100000) / 8) v)
  else if 0x108000 ≤ off && off < 0x110000 then some (s.counterAdd p.source ((off - 0x108000) / 8) v)
  else if 0x200000 ≤ off && off < 0x204000 then
    some (s.modHub fun h => { h with ctxs := tabSet ((off - 0x200000) / 8) v h.ctxs })
  else if 0x300000 ≤ off && off < 0x320000 then
    some (s.modHub fun h => { h with records := memWrite h.records (off - 0x300000) (leBytes 8 v) })
  else none

/-! ### Host link -/

/-- Send the interrupt writes of the causes that a test names (R409). -/
def sendCauses (s : State) (p : Nat → Bool) : State :=
  let l := (List.range 7).filter p
  l.foldl State.sendIrq (s.modHub fun h => { h with irqSent := l.foldl (fun a c => setBit a c true) h.irqSent })

/-- A write to IRQEN (R409): causes that become enabled while pending are sent, unless a write of theirs has been sent
since they became pending. -/
def irqenSet (s : State) (v : Nat) : State :=
  let old := s.hub.irqen
  sendCauses (s.modHub fun h => { h with irqen := bits v 0 7 }) fun c => bit v c && !bit old c && bit s.hub.irqcause c && !bit s.hub.irqSent c

/-- A W1C write to IRQCAUSE (R409). -/
def irqClear (s : State) (v : Nat) : State :=
  s.modHub fun h => { h with irqcause := h.irqcause &&& (0x7F - bits v 0 7), irqSent := h.irqSent &&& (0x7F - bits v 0 7) }

/-- A register of the host link (R408). -/
def linkRead (s : State) (r : Nat) : Option Nat :=
  match r with
  | 0 => some s.hub.up
  | 8 => some s.hub.irqaddr
  | 0x10 => some s.hub.irqen
  | 0x18 => some s.hub.irqcause
  | _ => none

/-- A write to a register of the host link (R408). -/
def linkWrite (s : State) (r v : Nat) : Wr :=
  match r with
  | 8 => some (s.modHub fun h => { h with irqaddr := bits v 2 46 * 4 })
  | 0x10 => some (irqenSet s v)
  | 0x18 => some (irqClear s v)
  | _ => none

/-! ### Power arbiter and root of trust -/

/-- A register of the power arbiter (R425); RESET reads as zero. -/
def powerRead (s : State) (r : Nat) : Option Nat :=
  if r = 0 then some s.power.pbudget
  else if r = 8 then some s.power.preserve
  else if r = 0x10 then some Config.pfloor.toNat
  else if r = 0x18 then some s.power.pdraw
  else if r = 0x20 then some s.power.pevent
  else if r = 0x100 then some 0
  else if 0x1000 ≤ r && r < 0x1C80 then some (pallowOf s ((r - 0x1000) / 8))
  else none

/-- A write to a register of the power arbiter, or to RESET (R425, R441). -/
def powerWrite (s : State) (r v : Nat) : Wr :=
  if r = 0 then onSuccess (budgetWrite s v)
  else if r = 0x20 then some { s with power := { s.power with pevent := s.power.pevent &&& (0xF - bits v 0 4) } }
  else if r = 0x100 then some (if bits v 0 8 = 0x52 then panelReset s else s)
  else none

/-! ### Ethernet ports -/

/-- A register of a peer entry, a receive window or a send ring (R410): block 1, 2 or 3, entry `n`, register `r`. -/
def entryRead (x : Port) (b : Nat) (n : Fin 16) (r : Nat) : Option Nat :=
  let y := x.peers[n]
  let w := x.windows[n]
  let q := x.rings[n]
  match b, r with
  | 1, 0 => some (y.pmac + y.pport * 2 ^ 48 + b2n y.valid * 2 ^ 56 + y.st * 2 ^ 57 + b2n y.launchok * 2 ^ 59 +
      b2n y.incrok * 2 ^ 60)
  | 1, 8 => some (y.cbase + y.ccount * 2 ^ 16)
  | 1, 0x10 => some (y.txseq + y.rxseq * 2 ^ 32)
  | 2, 0 => some w.wbase
  | 2, 8 => some w.wlen
  | 2, 0x10 => some (w.wpa + b2n w.wen)
  | 2, 0x18 => some w.wpeers
  | 3, 0 => some (q.rbase * 128)
  | 3, 8 => some (q.size + q.peer * 2 ^ 8 + b2n q.ren * 2 ^ 12)
  | 3, 0x10 => some q.tailpa
  | 3, 0x18 => some (q.rhead + q.rfailed * 2 ^ 32)
  | _, _ => none

/-- A register of a port (R410). -/
def portRead (x : Port) (r : Nat) : Option Nat :=
  if r = 0 then some x.mac
  else if r = 8 then some (b2n x.en + b2n x.linkup * 2 + x.retry * 2 ^ 8 + x.rto * 2 ^ 16)
  else if r = 0x10 then some (x.fcserr + x.dups * 2 ^ 32)
  else if 0x1000 ≤ r && r < 0x4000 && r % 0x1000 < 0x200 then entryRead x (r / 0x1000) (fin16 (r % 0x1000 / 32)) (r % 32)
  else none

/-- Change a receive window. -/
def modWindow (s : State) (p : Nat) (n : Fin 16) (f : Window → Window) : State :=
  s.modPort p fun x => { x with windows := x.windows.set n (f x.windows[n]) }

/-- A write to a register of a peer entry, a window or a ring (R410, R414). -/
def entryWrite (s : State) (p b : Nat) (n : Fin 16) (r v : Nat) : Wr :=
  match b, r with
  | 1, 0 => some (peerWrite s p n v)
  | 1, 8 => some (s.modPeer p n fun y => { y with cbase := bits v 0 12, ccount := bits v 16 13 })
  | 2, 0 => some (modWindow s p n fun w => { w with wbase := bits v 16 48 * 2 ^ 16 })
  | 2, 8 => some (modWindow s p n fun w => { w with wlen := bits v 16 48 * 2 ^ 16 })
  | 2, 0x10 => some (modWindow s p n fun w => { w with wpa := bits v 16 36 * 2 ^ 16, wen := bit v 0 })
  | 2, 0x18 => some (modWindow s p n fun w => { w with wpeers := bits v 0 16 })
  | 3, 0 => some (s.modRing p n fun q => { q with rbase := bits v 7 45 })
  | 3, 8 => some (s.modRing p n fun q => { q with size := bits v 0 5, peer := bits v 8 4, ren := bit v 12 })
  | 3, 0x10 => some (s.modRing p n fun q => { q with tailpa := bits v 3 49 * 8 })
  | _, _ => none

/-- A write to a register of a port (R410). -/
def portWrite (s : State) (p r v : Nat) : Wr :=
  if r = 0 then some (s.modPort p fun x => { x with mac := bits v 0 48 })
  else if r = 8 then some (s.modPort p fun x => { x with en := bit v 0, retry := bits v 8 8, rto := bits v 16 32 })
  else if 0x1000 ≤ r && r < 0x4000 && r % 0x1000 < 0x200 then
    entryWrite s p (r / 0x1000) (fin16 (r % 0x1000 / 32)) (r % 32) v
  else none

/-! ### Hub dies -/

/-- An 8-byte register of a hub die: its ports, and on hub die 0 the rest (R318, R388, R408, R425). -/
def hubRead (s : State) (h : Fin 4) (off : Nat) : Option Nat :=
  if 0x80000000 ≤ off && off < 0x88000000 then
    portRead (s.port (8 * h.val + (off - 0x80000000) / 0x1000000)) (off % 0x1000000)
  else if h != 0 then none
  else if off < 0x80000000 then dispatchRead s off
  else if 0xC0000000 ≤ off && off < 0xC0001000 then linkRead s (off - 0xC0000000)
  else if 0xD0000000 ≤ off && off < 0xD0002000 then powerRead s (off - 0xD0000000)
  else none

/-- An 8-byte write to a register of a hub die. -/
def hubWrite (p : Party) (s : State) (h : Fin 4) (off v : Nat) : Wr :=
  if 0x80000000 ≤ off && off < 0x88000000 then
    portWrite s (8 * h.val + (off - 0x80000000) / 0x1000000) (off % 0x1000000) v
  else if h != 0 then none
  else if off < 0x80000000 then dispatchWrite p s off v
  else if 0xC0000000 ≤ off && off < 0xC0001000 then linkWrite s (off - 0xC0000000) v
  else if 0xD0000000 ≤ off && off < 0xD0002000 then powerWrite s (off - 0xD0000000) v
  else none

/-- The mailbox of the root of trust (R437): a 64-byte write holds the nonce, then the host address. The arrangement is
the model's, log 37. -/
def mailboxWrite (s : State) (bs : List Byte) : Wr :=
  if bs.length = 64 then some (attest s (bs.take 48) (leVal ((bs.drop 48).take 8) % 2 ^ 48)) else none

/-! ### All blocks -/

/-- An aligned 8-byte read of a register. -/
def regRead (s : State) (b : Block) : Option Nat :=
  match b with
  | .die d off => dieRead s d off
  | .cache c off => cacheRead s c off
  | .hub h off => hubRead s h off

/-- An aligned 8-byte write to a register. -/
def regWrite (p : Party) (s : State) (b : Block) (v : Nat) : Wr :=
  match b with
  | .die d off => dieWrite p s d off v
  | .cache c off => cacheWrite p s c off v
  | .hub h off => hubWrite p s h off v

/-- Read `n` naturally aligned bytes of a control block (R221). -/
def blockRead (s : State) (pa n : Nat) : Option (List Byte) :=
  (blockOf pa).bind fun b =>
    let wide : Option (List Byte) := match b with
      | .die d off => dieBytes s d off n
      | .cache c off => cacheBytes s c off n
      | .hub _ _ => none
    wide.or (if n = 8 then (regRead s b).map (leBytes 8) else none)

/-- Write naturally aligned bytes to a control block (R221). -/
def blockWrite (p : Party) (s : State) (pa : Nat) (bs : List Byte) : Wr :=
  (blockOf pa).bind fun b =>
    let wide : Wr := match b with
      | .die d off => dieBytesWrite p s d off bs
      | .cache c off => cacheBytesWrite s c off bs
      | .hub h off => if h = 0 && off = 0xE0000000 && p.isHost then mailboxWrite s bs else none
    wide.or (if bs.length = 8 then regWrite p s b (leVal bs) else none)

/-- What a failing write to a control block leaves changed: EN = 1 written to a watch trigger that cannot be enabled leaves EN
at 0 (R253); else nothing (R221). -/
def blockFailed (s : State) (pa : Nat) (bs : List Byte) : State :=
  match blockOf pa with
  | some (.cache c off) =>
    if 0x1000 ≤ off && off < 0x1400 && off % 64 = 0x20 && bs.length = 8 then
      (watchControl s c ⟨(off - 0x1000) / 64 % 16, by omega⟩ (leVal bs)).2
    else s
  | _ => s

/-- A write to a control block: whether it succeeds, and the state it leaves (R221, R253). -/
def blockStore (p : Party) (s : State) (pa : Nat) (bs : List Byte) : Bool × State :=
  match blockWrite p s pa bs with
  | some s => (true, s)
  | none => (false, blockFailed s pa bs)

/-! ### HBM controllers -/

/-- Registers of the HBM controllers, to which the manual gives no address; the event REGISTER_WRITE names them beyond
the 52-bit physical space, log 38: the key map entry of a frame (R228), MIN and WEIGHT of a bandwidth class (R229). A
set whose MIN values sum to more than 1,024 is not written. -/
def controllerWrite (s : State) (r v : Nat) : State :=
  if r < 2 ^ 31 then { s with keyMap := tabSet r (bits v 0 7) s.keyMap }
  else if r < 2 ^ 31 + 16 then
    let c := r - 2 ^ 31
    let mins := s.hub.bwMin.set (c % 16) (bits v 0 10) (by omega)
    if 1024 < mins.toList.sum then s
    else s.modHub fun h => { h with bwMin := mins, bwWeight := h.bwWeight.set (c % 16) (bits v 16 8) (by omega) }
  else s

/-- REGISTER_WRITE (R8): firmware's 8-byte write to a register (R221, R253). -/
def execRegisterWrite (pa : Nat) (v : W64) (s : State) : Out State :=
  .next (if 2 ^ 52 ≤ pa then controllerWrite s (pa - 2 ^ 52) v.toNat
    else if pa % 8 != 0 then s
    else (blockStore .firmware s pa (leBytes 8 v.toNat)).2)

/-- IRQEN_WRITE (R409). -/
def execIrqenWrite (v : W64) (s : State) : Out State := .next (s.accepts (irqenSet · v.toNat))
/-- IRQCAUSE_CLEAR (R409). -/
def execIrqcauseClear (v : W64) (s : State) : Out State := .next (s.accepts (irqClear · v.toNat))

/-- ERROR_COUNTER_CLEAR (R440). -/
def execErrorCounterClear (c : CounterSite) (s : State) : Out State :=
  .next <| match c with
  | .dieLocal d => s.modDie d fun x => { x with errLocal := 0 }
  | .dieAcc d => s.modDie d fun x => { x with errAcc := 0 }
  | .cacheSlice c => s.modCache c fun x => { x with errSlice := 0 }
  | .cacheHbm c => s.modCache c fun x => { x with errHbm := 0 }

end Sys2Proof.Machine
end

