-- ==== Sys2Proof/Machine/Complete.lean ====
section
/-! DEFINITION. Performing an outstanding access in an order R262 and R268 allow (R259), and its completion or failure
(R221, R243, R412): ACCESS_COMPLETE. -/
namespace Sys2Proof.Machine
/-- A control block that a management hart reaches (R220, R424). -/
def reachesBlock (h : HartId) (pa : Nat) : Bool :=
  match h with
  | .mgmt _ => paRange pa == 9 || paRange pa == 0xA
  | _ => false

/-- Read for a hart at a physical address. -/
def readFor (h : HartId) (s : State) (a : Access) : Res × State :=
  if reachesBlock h a.pa then
    match blockRead s a.pa a.n with
    | some bs => (.ok bs, s)
    | none => (.fail, s)
  else targetRead s a.pa a.n (.access h a.id)

/-- Write for a hart at a physical address. -/
def writeFor (h : HartId) (s : State) (a : Access) (bs : List Byte) : Res × State :=
  if reachesBlock h a.pa then
    let r := blockStore .firmware s a.pa bs
    (if r.1 then .ok [] else .fail, r.2)
  else targetWrite s a.pa bs a.ctx (.access h a.id)

/-- An amo of a hart on the local memory of a tile, or on HBM (R250): one step at the target. -/
def amoFor (h : HartId) (s : State) (a : Access) (f : Nat → Option Nat) : Res × State :=
  match windowTile a.pa with
  | some t => reachTile s t (.access h a.id) (localAmo (windowOff a.pa) a.n f (.access h a.id))
  | none =>
    match readFor h s a with
    | (.ok bs, s1) =>
      match f (leVal bs) with
      | none => (.ok bs, s1)
      | some w =>
        match writeFor h s1 a (leBytes a.n w) with
        | (.ok _, s2) => (.ok bs, s2)
        | r => r
    | r => r

/-- A store of a hart at its target. A delivery that an engine makes to its own local memory uses the engine's turn at the
bank (R265); one that counts at another tile carries its launch number there (R301). -/
def storeFor (h : HartId) (s : State) (a : Access) (bs : List Byte) : Res × State :=
  match deliveryTile a.pa, a.bar with
  | some u, b =>
    if a.loc then ownDelivery u (windowOff a.pa) bs b s
    else match b with
      | some b => deliverTo s u (windowOff a.pa) bs b (lnumOf s (hartTile h)) (.access h a.id)
      | none => writeFor h s a bs
  | none, _ => writeFor h s a bs

/-- Perform an access of a hart at its target (R259). -/
def performAt (h : HartId) (s : State) (a : Access) : Res × State :=
  match a.kind with
  | .load => readFor h s a
  | .store bs => storeFor h s a bs
  | .amo op v c rm => amoFor h s a fun m => amoNew op (8 * a.n) m v c (modeOf rm)

/-- Remove an access from its hart's list. -/
def dropAccess (h : HartId) (a : Access) (s : State) : State :=
  s.modRegsOf h fun r => { r with accesses := r.accesses.filter (·.id != a.id) }

/-- A delivery has completed (R301, R293): one to no tile's local memory counts now, against the barrier of the engine's own
tile. -/
def endDelivery (h : HartId) (a : Access) (s : State) : State :=
  if a.units = 0 then s
  else
    let s := if (deliveryTile a.pa).isNone then s.modTile (hartTile h) (countBar a.bar a.n) else s
    engProgress (hartTile h) a.units s

/-- An access completes (R243): its data is delivered, and an instruction that waited for it completes. -/
def finishAccess (h : HartId) (a : Access) (bs : List Byte) (s : State) : State :=
  let s := endDelivery h a (deliverDest h a.dest bs (dropAccess h a s))
  if a.blocking then onHart h complete s else s

/-- An access fails (R221) or meets an uncorrectable error (R366): the exception is that of its instruction, which pops
and pushes nothing (R165). -/
def failAccess (h : HartId) (a : Access) (c : Cause) (s : State) : State :=
  let s := giveBack h a.popped a.sstat (dropAccess h a s)
  let s := match a.dest with
    | .queue k id => s.modTile (hartTile h) (dropReserved k id)
    | _ => s
  onHart h (raiseAt c a.va a.pc) s

/-- Change an outstanding access of a hart. -/
def setAccess (h : HartId) (id : Nat) (f : Access → Access) (s : State) : State :=
  s.modRegsOf h fun r => { r with accesses := r.accesses.map fun x => if x.id == id then f x else x }

/-- A delivery of an engine that writes a barrier word counts after it, in the place of the deliveries (R172, R301). -/
def countsLater (a : Access) : Bool := a.bar.isSome && (windowTile a.pa).isSome && (barrierWord (windowOff a.pa)).isSome

/-- One outstanding access of a hart moves: it is performed, waits, fails or completes (R221, R243, R412). A failed link on the
way back holds its response (R417). -/
def stepAccess (h : HartId) (a : Access) (s : State) : State :=
  match a.post with
  | some l => if postDone s l && s.replyOpen (hartSite h) a.pa a.n then finishAccess h a a.answer s else s
  | none =>
    match performAt h s a with
    | (.wait, s) => setAccess h a.id (fun x => { x with waits := true }) s
    | (.fail, s) => failAccess h a .bounds s
    | (.poison, s) => failAccess h a .machineCheck s
    | (.ok bs, s) => match if accWrites a then s.postsOf a.pa a.n else [] with
      | [] =>
        if countsLater a || !s.replyOpen (hartSite h) a.pa a.n then
          setAccess h a.id (fun x => { x with post := some [], answer := bs }) s
        else finishAccess h a bs s
      | l => setAccess h a.id (fun x => { x with post := some l }) s

/-- ACCESS_COMPLETE (R243): of the accesses that may be performed next, `choice` names one. -/
def execAccessComplete (h : HartId) (choice : Nat) (s : State) : Out State :=
  let l := eligible (s.regsOf h).accesses
  match l[choice % l.length]? with
  | none => .next s
  | some a => .next (stepAccess h a s)

end Sys2Proof.Machine
end

