-- ==== Sys2Proof/Machine/Csr.lean ====
section
/-! DEFINITION. The csr instructions and the CSRs of a hart (R16, R17, R118-R120, R283, R357, R424). -/
namespace Sys2Proof.Machine

/-- The CSRs that the table of R16 names, and whether a strand may write them. -/
def csrWritable (c : Nat) : Option Bool :=
  if [0x000, 0x001, 0x002, 0x003, 0x004, 0x005, 0x006, 0x007, 0x013, 0x014, 0x015, 0x040, 0x041, 0x050, 0x060,
      0x070].contains c then some false
  else if [0x010, 0x011, 0x012, 0x020, 0x021, 0x030, 0x031, 0x032, 0x033, 0x034].contains c then some true
  else none

/-- The running hart has this CSR, to read or to write (R17, R283, R424). -/
def csrLegal (s : State) (c : Nat) (wr : Bool) : Bool :=
  match s.hart with
  | .strand .. => (csrWritable c).any fun w => w || !wr
  | .engine _ => !wr && (c == 0x040 || c == 0x070)
  | .mgmt _ => !wr && c == 0x040

/-- The strand number of a hart; only strands read CSR 0x000 and the stream CSRs (R16). -/
def hartUnit : HartId → Nat
  | .strand _ k => k.val
  | _ => 8

/-- The value of a CSR of the running hart (R16, R120). -/
def csrRead (s : State) (c : Nat) : W64 :=
  let x := s.myTile
  let z := s.me
  let g : Group := x.group.getD default
  let t := hartTile s.hart
  let n := hartUnit s.hart
  match c with
  | 0x000 => w64 (n + tileIdx t * 2 ^ 8 + (tileDie t).val * 2 ^ 16)
  | 0x001 => w64 g.gidx.1
  | 0x002 => w64 g.gidx.2.1
  | 0x003 => w64 g.gidx.2.2
  | 0x004 => w64 g.gdim.1
  | 0x005 => w64 g.gdim.2.1
  | 0x006 => w64 g.gdim.2.2
  | 0x007 => g.args
  | 0x010 => z.rmode.setWidth 64
  | 0x011 => z.fflags.setWidth 64
  | 0x012 => z.fmt8.setWidth 64
  | 0x013 => streamBits x (fin8 n) false
  | 0x014 => streamBits x (fin8 n) true
  | 0x015 => z.sstat
  | 0x020 => s.regs.lc[0]
  | 0x021 => s.regs.lc[1]
  | 0x030 => z.epc
  | 0x031 => z.ecause
  | 0x032 => z.eval
  | 0x033 => z.etvec
  | 0x034 => estatWord z
  | 0x040 => w64 s.cyc
  | 0x041 => s.regs.issued
  | 0x050 => x.sw.fault
  | 0x060 => x.mx.seen
  | 0x070 => w64 (g.ctx % 2 ^ 16)
  | _ => 0

/-- Writable bits of a CSR (R119, R357). -/
def csrMask (c : Nat) : W64 :=
  match c with
  | 0x010 => 0x3
  | 0x011 => 0x1F
  | 0x012 => 0xFF
  | 0x030 => 0x1FFFC
  | 0x031 => 0x3FF
  | 0x034 => 0x1
  | 0x020 => BitVec.allOnes 64
  | 0x021 => BitVec.allOnes 64
  | 0x032 => BitVec.allOnes 64
  | 0x033 => BitVec.allOnes 64
  | _ => 0

/-- Store a value, already masked, in a CSR of the running strand (R119). -/
def csrStore (c : Nat) (v : W64) (z : Strand) : Strand :=
  match c with
  | 0x010 => { z with rmode := v.setWidth 2 }
  | 0x011 => { z with fflags := v.setWidth 5 }
  | 0x012 => { z with fmt8 := v.setWidth 8 }
  | 0x020 => { z with r := { z.r with lc := z.r.lc.set 0 v } }
  | 0x021 => { z with r := { z.r with lc := z.r.lc.set 1 v } }
  | 0x030 => { z with epc := v }
  | 0x031 => { z with ecause := v }
  | 0x032 => { z with eval := v }
  | 0x033 => { z with etvec := v }
  | 0x034 => { z with inh := v.getLsbD 0 }
  | _ => z

/-- Every earlier instruction of the hart has written its results and flags, outstanding loads and gathers among them
(R118). -/
def resultsWritten (s : State) : Bool :=
  decide (s.regs.resultsFrom ≤ s.cyc) && s.me.gather.all (·.store) && s.regs.amo.isNone &&
    s.regs.accesses.all fun a => match a.kind with
      | .store _ => true
      | _ => false

/-- A csr instruction (R118): gd receives the old value; `f` gives the new one of a form that writes. -/
def csrOp (i : Instr) (d : Reg) (a : Option Reg) (c : Fin 4096) (f : W64 → W64 → W64) (s : State) : Out State :=
  if !admits s i || csrLegal s c.val a.isSome then
    issue i { gs := a.toList, gd := some d } (fun s0 =>
      if !resultsWritten s0 then s0
      else
        let old := csrRead s0 c.val
        match a with
        | none => complete (writeG d old 1 s0)
        | some a =>
          let (x, s) := src1 a s0
          let m := csrMask c.val
          complete (writeG d old 1 (s.modMe (csrStore c.val ((old &&& ~~~m) ||| (f old x &&& m)))))) s
  else illegalNow i s

/-- CSRR (R118). -/
def execCsrr (d : Reg) (c : Fin 4096) (s : State) : Out State := csrOp (.csrr d c) d none c (fun o _ => o) s
/-- CSRW (R118). -/
def execCsrw (d a : Reg) (c : Fin 4096) (s : State) : Out State := csrOp (.csrw d a c) d (some a) c (fun _ x => x) s
/-- CSRS (R118). -/
def execCsrs (d a : Reg) (c : Fin 4096) (s : State) : Out State := csrOp (.csrs d a c) d (some a) c (fun o x => o ||| x) s
/-- CSRC (R118). -/
def execCsrc (d a : Reg) (c : Fin 4096) (s : State) : Out State :=
  csrOp (.csrc d a c) d (some a) c (fun o x => o &&& ~~~x) s

end Sys2Proof.Machine
end

