-- ==== Sys2Proof/Machine/HostSide.lean ====
section
/-! DEFINITION. The host's transactions over UCIe (R405-R407), module link changes (R407, R408) and uncorrectable errors
(R366). -/
namespace Sys2Proof.Machine

/-! ### Transactions -/

/-- Size and alignment of a host transaction (R405). -/
def hostSizeOk (pa n : Nat) : Bool := [1, 2, 4, 8, 16, 32, 64, 128].contains n && pa % n == 0

/-- A timeline counter or its increment alias (R318). -/
def isCounter (pa : Nat) : Bool := decide (0xA000000100000 ≤ pa) && decide (pa < 0xA000000110000)

/-- A write of the host must wait: for its turn, a counter update for the writes it publishes, and before a failed link on
its way from hub die 0 (R272, R389, R406, R417). -/
def writeHeld (s : State) (m pa n : Nat) : Bool :=
  hostHeld s m || !s.requestOpen (cornerSite 0) pa n || (isCounter pa && counterHeld s m)

/-- Read for the host at a physical address (R406). -/
def hostReadAt (s : State) (pa n : Nat) (again : Instr) : Res × State :=
  if inHbm pa n then (if s.failedIn pa n then .fail else .ok (s.hbmBytes pa n), s)
  else if paRange pa = 9 || paRange pa = 0xA then
    match blockRead s pa n with
    | some bs => (.ok bs, s)
    | none => (.fail, s)
  else match windowTile pa with
    | some t => accessTile s t (windowOff pa) n none (.event again)
    | none => (.fail, s)

/-- Write for the host at a physical address (R406); a whole-line write clears a failed mark (R366). -/
def hostWriteAt (m : Fin 4) (s : State) (pa : Nat) (bs : List Byte) (again : Instr) : Res × State :=
  if inHbm pa bs.length then
    let s := s.clearFailed pa bs.length
    if s.failedIn pa bs.length then (.fail, s) else (.ok [], s.hbmWrite pa bs 0xFFFF)
  else if paRange pa = 9 || paRange pa = 0xA then
    let r := blockStore (.host m) s pa bs
    (if r.1 then .ok [] else .fail, r.2)
  else match windowTile pa with
    | some t => accessTile s t (windowOff pa) bs.length (some bs) (.event again)
    | none => (.fail, s)

/-- HOST_READ (R406). In recovery the module gives no completion but an error (R436). -/
def execHostRead (m : Fin 4) (pa n : Nat) (s : State) : Out State :=
  let i : Instr := .hostRead m pa n
  .next <| if hostHeld s m.val || !s.tripOpen (cornerSite 0) pa n then s.defer i
    else if s.rot.recovery || !hostSizeOk pa n then s.emit (.errorCompletion m.val)
    else match hostReadAt s pa n i with
      | (.ok bs, s) => s.emit (.readData m.val bs)
      | (.wait, s) => s.defer i
      | (_, s) => s.emit (.errorCompletion m.val)

/-- The completion of a performed host write: at once, or withheld by the post it makes (R412) or by a failed link on the
way back (R417). -/
def hostAck (s : State) (m pa n : Nat) : State :=
  let l := if inHbm pa n then s.postsOf pa n else []
  if l.isEmpty && s.replyOpen (cornerSite 0) pa n then s.emit (.writeDone m)
  else s.modHub fun h => { h with heldDone := h.heldDone ++ [⟨m, pa, l⟩] }

/-- HOST_WRITE (R406); in recovery see `execHostRead`. -/
def execHostWrite (m : Fin 4) (pa : Nat) (data : List Byte) (s : State) : Out State :=
  let i : Instr := .hostWrite m pa data
  .next <| if writeHeld s m.val pa data.length then s.defer i
    else if s.rot.recovery || !hostSizeOk pa data.length then s.emit (.errorCompletion m.val)
    else match hostWriteAt m s pa data i with
      | (.ok _, s) => hostAck s m.val pa data.length
      | (.wait, s) => s.defer i
      | (_, s) => s.emit (.errorCompletion m.val)

/-- Complete the host writes whose posts are done (R412). -/
def releaseWrites (s : State) : State :=
  let done (w : HeldDone) : Bool := postDone s w.posts && s.replyOpen (cornerSite 0) w.pa 1
  (s.hub.heldDone.filter done).foldl (fun s w => s.emit (.writeDone w.m))
    (s.modHub fun h => { h with heldDone := h.heldDone.filter fun w => !done w })

/-- UCIE_MODULE_LINK_CHANGE (R407, R408): UP changes; a module that comes up makes the dispatcher's writes that it has held, and
module 0 sends its interrupt writes. -/
def execUcieModuleLinkChange (m : Fin 4) (up : Bool) (s : State) : Out State :=
  let old := s.hub.up
  let s := s.modHub fun h => { h with
    up := if up then old ||| 2 ^ m.val else if bit old m.val then old - 2 ^ m.val else old }
  let s := s.releaseHostWrites
  .next <| if m = 0 && up then
      s.hub.irqHeld.foldl State.sendIrq (s.modHub fun h => { h with irqHeld := [] })
    else s

/-! ### Uncorrectable errors -/

/-- A line is marked failed; the launches of contexts with its frame's key fail, and the host is told (R366). -/
def failLine (s : State) (pa : Nat) : State :=
  let key := s.keyOf pa
  let s := { s with failedLines := if s.failedLines.contains (pa / 128) then s.failedLines else s.failedLines ++ [pa / 128] }
  ((s.failAll (fun l => l.key == key) 0).irq 1).emit (.failedLine (pa / 128 * 128))

/-- Add to a list what it does not hold. -/
def insertNew (a : Nat) (l : List Nat) : List Nat := if l.contains a then l else l ++ [a]

/-- UNCORRECTABLE_ERROR (R366): a word of local memory or of an accumulator goes bad, and is detected by whatever reads it;
a line is found bad by its home slice; or the residue of a register does not match from now on, which the instruction that
consumes it detects (R122, R153, R213, R365). The word is one of 32 bits. DESIGN CHOICE, log 90. -/
def execUncorrectableError (site : ErrSite) (s : State) : Out State :=
  .next <| match site with
  | .localMem t a => s.modTile t fun x => { x with badLm := insertNew (a % lmSize / 4) x.badLm }
  | .accumulator t a => s.modTile t fun x => { x with badAcc := insertNew (a % 0x10000 / 4) x.badAcc }
  | .line pa => if isHbm pa then failLine s pa else s
  | .register h r =>
    if r.val < 64 then s.modRegsOf h fun x => { x with residue := insertNew r.val x.residue }
    else match h with
      | .mgmt _ => s
      | _ => s.modTile (hartTile h) fun x => { x with accResidue := insertNew (r.val - 64) x.accResidue }

end Sys2Proof.Machine
end

