-- ==== Sys2Proof/Machine/Kick.lean ====
section
/-! DEFINITION. The instructions of major 0x3A: ekick, embox and ewait (R289, R290). -/
namespace Sys2Proof.Machine

/-- EKICK (R289): the word's check, CLEAR, the error state, the release wait and the queue's room, in this order. -/
def execEkick (a : Reg) (s : State) : Out State :=
  issue (.ekick a) { gs := [a] } (fun s0 =>
    let (k, s) := src1 a s0
    let e := s0.myTile.eng
    if kickBad k then raise .streamMisuse k s0
    else if bit k.toNat 63 then
      if !drained s0 then s0 else complete (s.modEng (hartTile s.hart) kickClear)
    else if e.state = .error then raise .streamMisuse (mboxWord e) s0
    else if !drained s0 || 4 ≤ e.queue.length then s0
    else complete (s.modEng (hartTile s.hart) (kickQueue k))) s

/-- EMBOX (R290): a load-acquire of MBOX, which no earlier access may outlast (R261); it completes in the next cycle
(R100). -/
def execEmbox (d : Reg) (s : State) : Out State :=
  issue (.embox d) { gd := some d } (fun s =>
    if !drained s then s
    else complete ((writeG d (mboxWord s.myTile.eng) 1 s).modRegs fun r => { r with accessFrom := max r.accessFrom (s.cyc + 1) })) s

/-- EWAIT (R290): it waits until no job runs and none is queued. -/
def execEwait (s : State) : Out State :=
  issue .ewait {} (fun s =>
    let e := s.myTile.eng
    if e.queue.isEmpty && (e.state == .idle || e.state == .error) then complete s else s) s

end Sys2Proof.Machine
end

