-- ==== Sys2Proof/Machine/Permute.lean ====
section
/-! DEFINITION. Moving lanes: permutes (R134), vector immediates and moves (R135). No NaN is canonicalised and no flag
raised. -/
namespace Sys2Proof.Machine

/-- A permute of elements of width `w`: lane `i` of the result from both sources and the lane count (R134). -/
def permute (w : Nat) (m : W64) (keep va vb : V512) (y : Nat → (Nat → Nat) → (Nat → Nat) → Nat → Nat) : V512 :=
  (masked w m keep fun i => (y (512 / w) (laneAt w va) (laneAt w vb) i, 0)).1

/-- A permute of two vectors under the write mask (R134). -/
def permOp (i : Instr) (t : VType) (d a b : Reg) (x : Reg8) (y : Nat → (Nat → Nat) → (Nat → Nat) → Nat → Nat)
    (s : State) : Out State :=
  issueTyped i t anyElem { vs := [a, b], vd := some d, ms := [x] } (fun e s0 =>
    let (va, vb, s) := vsrc2 a b s0
    complete (writeV d (permute (elemWidth e) (readM s0 x) (keepOf s0 d) va vb y) 2 s)) s

/-- A permute whose count comes from a general register (R134). -/
def slideOp (i : Instr) (t : VType) (d a b : Reg) (x : Reg8) (y : Nat → Nat → (Nat → Nat) → Nat → Nat) (s : State) :
    Out State :=
  issueTyped i t anyElem { vs := [a], gs := [b], vd := some d, ms := [x] } (fun e s0 =>
    let (va, p, s) := popV false a s0
    let (k, _, s) := popG p b s
    complete (writeV d (permute (elemWidth e) (readM s0 x) (keepOf s0 d) va va fun n la _ => y n k.toNat la) 2 s)) s

/-- vsel (R134): its mask is the selector, and every lane is written. -/
def execVsel (t : VType) (d a b : Reg) (x : Reg8) (s : State) : Out State :=
  issueTyped (.vsel t d a b x) t anyElem { vs := [a, b], vd := some d, ms := [x] } (fun e s0 =>
    let (va, vb, s) := vsrc2 a b s0
    complete (writeV d (permute (elemWidth e) (readM s0 x) vb va vb fun _ la _ i => la i) 2 s)) s

/-- vswp (R134). -/
def execVswp (t : VType) (d a : Reg) (x : Reg8) (s : State) : Out State :=
  issueTyped (.vswp t d a x) t anyElem { vs := [a], vd := some d, ms := [x] } (fun e s0 =>
    let (va, _, s) := popV false a s0
    complete (writeV d (permute (elemWidth e) (readM s0 x) (keepOf s0 d) va va fun _ la _ i => la (i ^^^ 1)) 2 s)) s

/-- vperm (R134). -/
def execVperm (t : VType) (d a b : Reg) (x : Reg8) (s : State) : Out State :=
  permOp (.vperm t d a b x) t d a b x (fun n la lb i => la (lb i % n)) s
/-- vzipl (R134). -/
def execVzipl (t : VType) (d a b : Reg) (x : Reg8) (s : State) : Out State :=
  permOp (.vzipl t d a b x) t d a b x (fun _ la lb i => if i % 2 = 0 then la (i / 2) else lb ((i - 1) / 2)) s
/-- vziph (R134). -/
def execVziph (t : VType) (d a b : Reg) (x : Reg8) (s : State) : Out State :=
  permOp (.vziph t d a b x) t d a b x (fun n la lb i => if i % 2 = 0 then la (n / 2 + i / 2) else lb (n / 2 + (i - 1) / 2)) s
/-- vuzpe (R134). -/
def execVuzpe (t : VType) (d a b : Reg) (x : Reg8) (s : State) : Out State :=
  permOp (.vuzpe t d a b x) t d a b x (fun n la lb i => if i < n / 2 then la (2 * i) else lb (2 * i - n)) s
/-- vuzpo (R134). -/
def execVuzpo (t : VType) (d a b : Reg) (x : Reg8) (s : State) : Out State :=
  permOp (.vuzpo t d a b x) t d a b x (fun n la lb i => if i < n / 2 then la (2 * i + 1) else lb (2 * i - n + 1)) s
/-- vslup (R134). -/
def execVslup (t : VType) (d a b : Reg) (x : Reg8) (s : State) : Out State :=
  slideOp (.vslup t d a b x) t d a b x (fun _ k la i => if k ≤ i then la (i - k) else 0) s
/-- vsldn (R134). -/
def execVsldn (t : VType) (d a b : Reg) (x : Reg8) (s : State) : Out State :=
  slideOp (.vsldn t d a b x) t d a b x (fun n k la i => if i + k < n then la (i + k) else 0) s
/-- vbcast (R134). -/
def execVbcast (t : VType) (d a b : Reg) (x : Reg8) (s : State) : Out State :=
  slideOp (.vbcast t d a b x) t d a b x (fun n k la _ => la (k % n)) s

/-- Every enabled lane set to one value (R135). -/
def fillLanes (w : Nat) (m : W64) (keep : V512) (v : W64) : V512 :=
  (masked w m keep fun _ => (v.toNat % 2 ^ w, 0)).1

/-- VLDI (R135). -/
def execVldi (t : VType) (d : Reg) (imm : BitVec 10) (x : Reg8) (s : State) : Out State :=
  issueTyped (.vldi t d imm x) t isInt { vd := some d, ms := [x] } (fun e s =>
    complete (writeV d (fillLanes (elemWidth e) (readM s x) (keepOf s d) (imm.signExtend 64)) 2 s)) s

/-- VMOVG (R135). -/
def execVmovg (t : VType) (d a : Reg) (x : Reg8) (s : State) : Out State :=
  issueTyped (.vmovg t d a x) t anyElem { gs := [a], vd := some d, ms := [x] } (fun e s0 =>
    let (v, s) := src1 a s0
    complete (writeV d (fillLanes (elemWidth e) (readM s0 x) (keepOf s0 d) v) 2 s)) s

/-- A lane as a register value: sign-extended for signed integer elements (R135, R92). -/
def laneWord (e : Elem) (x : Nat) : W64 :=
  match e with
  | .int w true => sextN w (w64 x)
  | _ => w64 x

/-- VEXT (R135). -/
def execVext (t : VType) (d a b : Reg) (s : State) : Out State :=
  issueTyped (.vext t d a b) t anyElem { vs := [a], gs := [b], gd := some d } (fun e s0 =>
    let (va, p, s) := popV false a s0
    let (k, _, s) := popG p b s
    let w := elemWidth e
    complete (writeG d (laneWord e (laneAt w va (k.toNat % (512 / w)))) 2 s)) s

/-- VINS (R135). -/
def execVins (t : VType) (d a b : Reg) (s : State) : Out State :=
  issueTyped (.vins t d a b) t anyElem { gs := [a, b], vd := some d } (fun e s0 =>
    let (v, k, s) := src2 a b s0
    let w := elemWidth e
    let keep := keepOf s0 d
    complete (writeV d (ofLanes w ((List.range (512 / w)).map fun i =>
      if i = k.toNat % (512 / w) then v.toNat % 2 ^ w else laneAt w keep i)) 2 s)) s

end Sys2Proof.Machine
end

