-- ==== Sys2Proof/Machine/Reduce.lean ====
section
/-! DEFINITION. Reductions (R90-R92, R136) and conversions (R80-R85, R137, R138). -/
namespace Sys2Proof.Machine

/-- The code of −0, or of +0 where the format has no −0 (R90, R136). -/
def negZero (f : Fmt) : Nat := signMag f true 0

/-- One addition of the sum tree; under RDN any zero result of the tree is −0 (R90, R91). -/
def treeAdd (f : Fmt) (mode : RMode) (x y : Nat) : Nat × FFlags :=
  let (z, fl) := faddLane (.flt f) mode x y
  match mode, decodeF f z with
  | .rdn, .fin _ 0 _ => (negZero f, fl)
  | _, _ => (z, fl)

/-- One level of the sum tree: pairs (0,1), (2,3), … (R90). -/
def sumLevel (f : Fmt) (mode : RMode) : List Nat → List Nat × FFlags
  | x :: y :: r =>
    let (z, fl) := treeAdd f mode x y
    let (l, fl') := sumLevel f mode r
    (z :: l, fl ||| fl')
  | l => (l, 0)

/-- The sum tree over 2^k lanes (R90). -/
def sumTree (f : Fmt) (mode : RMode) : Nat → List Nat → Nat × FFlags
  | 0, l => (l.headD 0, 0)
  | k + 1, l =>
    let (l, fl) := sumLevel f mode l
    let (x, fl') := sumTree f mode k l
    (x, fl ||| fl')

/-- The active lanes of a vector. -/
def activeLanes (w : Nat) (m : W64) (v : V512) : List Nat :=
  ((List.range (512 / w)).filter fun i => m.getLsbD i).map (laneAt w v)

/-- vrsum (R90, R91, R136). -/
def sumLanes (f : Fmt) (mode : RMode) (m : W64) (v : V512) : Nat × FFlags :=
  let n := 512 / f.width
  if (activeLanes f.width m v).isEmpty then (0, 0)
  else sumTree f mode (Nat.log2 n)
    ((List.range n).map fun i => if m.getLsbD i then laneAt f.width v i else negZero f)

/-- The result of vrmax or vrmin with no active lane, floating (R92, R136). -/
def noLane (wantMax : Bool) (f : Fmt) : Nat :=
  match f.kind with
  | .ieee => signMag f wantMax (f.infMag.getD 0)
  | .signed8 => if wantMax then 0xFF else 0x7F
  | .unsigned8 => if wantMax then 0 else 0xFE

/-- vrmax or vrmin over the active lanes (R92, R136). A floating result stands in the low bits of the register, zeros above
it. DEDUCED, log 92. -/
def pickLanes (wantMax : Bool) (e : Elem) (m : W64) (v : V512) : W64 :=
  match e with
  | .flt f =>
    match activeLanes f.width m v with
    | [] => w64 (noLane wantMax f)
    | x :: r => w64 (r.foldl (fpick wantMax f) (canonF f x))
  | .int w sgn =>
    match activeLanes w m v with
    | [] => laneWord e (intBits w (if wantMax then (intRange w sgn).1 else (intRange w sgn).2))
    | x :: r => laneWord e (r.foldl (ipick wantMax w sgn) x)

/-- vrsumi: the active lanes added modulo 2^64 (R92). -/
def sumInts (e : Elem) (m : W64) (v : V512) : W64 :=
  (activeLanes (elemWidth e) m v).foldl (fun acc x => acc + laneWord e x) 0

/-- A reduction into a general register (R90, R92, R127). -/
def reduceOp (i : Instr) (t : VType) (cls : Elem → Bool) (g : Elem → RMode → W64 → V512 → W64 × FFlags) (d a : Reg)
    (x : Reg8) (s : State) : Out State :=
  issueTyped i t cls { vs := [a], ms := [x], gd := some d } (fun e s0 =>
    let (va, _, s) := popV false a s0
    let (r, fl) := g e (modeNow s0) (readM s0 x) va
    complete (raiseFlags fl (writeG d r 12 s))) s

/-- VRSUM (R90). -/
def execVrsum (t : VType) (d a : Reg) (x : Reg8) (s : State) : Out State :=
  reduceOp (.vrsum t d a x) t isFlt (fun e mode m v => match e with
    | .flt f =>
      let (r, fl) := sumLanes f mode m v
      (w64 r, fl)
    | .int .. => (0, 0)) d a x s
/-- VRMAX (R92). -/
def execVrmax (t : VType) (d a : Reg) (x : Reg8) (s : State) : Out State :=
  reduceOp (.vrmax t d a x) t anyElem (fun e _ m v => (pickLanes true e m v, 0)) d a x s
/-- VRMIN (R92). -/
def execVrmin (t : VType) (d a : Reg) (x : Reg8) (s : State) : Out State :=
  reduceOp (.vrmin t d a x) t anyElem (fun e _ m v => (pickLanes false e m v, 0)) d a x s
/-- VRSUMI (R92). -/
def execVrsumi (t : VType) (d a : Reg) (x : Reg8) (s : State) : Out State :=
  reduceOp (.vrsumi t d a x) t isInt (fun e _ m v => (sumInts e m v, 0)) d a x s

/-! ### Conversions -/

/-- The lanes of a conversion: those below both lane counts that the mask enables (R137). -/
def convertLanes (dst src : Elem) (sat : Bool) (mode : RMode) (m : W64) (keep v : V512) : V512 × FFlags :=
  let wd := elemWidth dst
  let ws := elemWidth src
  let n := min (512 / wd) (512 / ws)
  masked wd m keep fun i => if i < n then convert src dst sat mode (laneAt ws v i) else (laneAt wd keep i, 0)

/-- A conversion (R137, R138); `rtz` names the mode of vcvt.rtz. -/
def convertOp (i : Instr) (dt st : VType) (sat rtz : Bool) (d a : Reg) (x : Reg8) (s : State) : Out State :=
  match elemOf st s.me.fmt8.toNat with
  | none => illegalNow i s
  | some se => issueTyped i dt anyElem { vs := [a], vd := some d, ms := [x] } (fun de s0 =>
      let (va, _, s) := popV false a s0
      finishV d 4 (convertLanes de se sat (if rtz then .rtz else modeNow s0) (readM s0 x) (keepOf s0 d) va) s) s

/-- VCVT (R138). -/
def execVcvt (dt st : VType) (d a : Reg) (x : Reg8) (s : State) : Out State :=
  convertOp (.vcvt dt st d a x) dt st false false d a x s
/-- VCVT_SAT (R138). -/
def execVcvtSat (dt st : VType) (d a : Reg) (x : Reg8) (s : State) : Out State :=
  convertOp (.vcvtSat dt st d a x) dt st true false d a x s
/-- VCVT_RTZ (R138). -/
def execVcvtRtz (dt st : VType) (d a : Reg) (x : Reg8) (s : State) : Out State :=
  convertOp (.vcvtRtz dt st d a x) dt st false true d a x s

end Sys2Proof.Machine
end

