-- ==== Sys2Proof/Machine/Special.lean ====
section
/-! DEFINITION. The approximate and special functions of major 0x27 (R143-R151), on f32 lanes. -/
namespace Sys2Proof.Machine

/-- The canonical NaN, the infinities and 1.0 as f32 codes (R72). -/
def nan32 : Nat := 0x7FC00000
/-- An infinity. -/
def inf32 (neg : Bool) : Nat := 0x7F800000 + b2n neg * 2 ^ 31
/-- 1.0. -/
def one32 : Nat := 0x3F800000

/-- Square root rounded down, bit by bit. -/
def isqrtFrom (n : Nat) : Nat → Nat → Nat
  | 0, r => r
  | b + 1, r => isqrtFrom n b (if (r + 2 ^ b) * (r + 2 ^ b) ≤ n then r + 2 ^ b else r)

/-- Square root rounded down. -/
def isqrt (n : Nat) : Nat := isqrtFrom n (bitLen n / 2 + 1) 0

/-- a / b × 2^e with 80 quotient bits and a sticky bit below them, enough for one correct rounding to f32. -/
def quotient (neg : Bool) (a b : Nat) (e : Int) : Num :=
  let k := 80 + bitLen b
  let q := a * 2 ^ k / b
  .fin neg (if a = 0 then 0 else 2 * q + b2n (a * 2 ^ k % b != 0)) (e - k - 1)

/-- The f32 value nearest to a decimal, a / 10^k (R148-R150). -/
def decimal (neg : Bool) (a k : Nat) : Num := f32 (rne32 (quotient neg a (10 ^ k) 0))

/-- Round an exact value to f32 to nearest and go on with it (R143). -/
def r32 (v : Num) : Num := f32 (rne32 v)
/-- A rounded product. -/
def rmul (a b : Num) : Num := r32 (mulNum a b).1
/-- A fused multiply-add with its one rounding. -/
def rfma (a b c : Num) : Num := r32 (fmaNum .rne false false a b c).1

/-- f × 2^e = 1, for f above 0. -/
def isOne (f : Nat) (e : Int) : Bool := decide (2 ^ Nat.log2 f = f) && decide (e + Nat.log2 f = 0)

/-- The flags of a lane: inexact when it is not the exact value, underflow when it is then nonzero and below 2^−126
(R143). -/
def laneFlags (x : Nat) (exact : Bool) : FFlags :=
  if exact then 0
  else if 0 < x % 2 ^ 31 ∧ x % 2 ^ 31 < 0x800000 then fUnderflow else fInexact

/-- Exponent e and fraction f of a finite nonzero x = ± 2^e × (1 + f × 2^−23) (R144). -/
def parts (m : Nat) (e : Int) : Int × Nat :=
  (e + Nat.log2 m, m * 2 ^ (23 - Nat.log2 m) - 2 ^ 23)

/-- T[j]: the integer nearest to 2^30 / (64 + j) (R145). -/
def seedT (j : Nat) : Nat := (2 ^ 31 + (64 + j)) / (2 * (64 + j))

/-- S[j]: the integer nearest to 2^24 / sqrt(u_j) (R146). -/
def seedS (j : Nat) : Nat :=
  (isqrt (if j ≤ 32 then 2 ^ 50 * 32 / (32 + j) else 2 ^ 50 * 16 / j) + 1) / 2

/-- vrcp (R144, R145). -/
def rcpLane (x : Nat) : Nat × FFlags :=
  match f32 x with
  | .nan => (nan32, 0)
  | .inf neg => (b2n neg * 2 ^ 31, 0)
  | .fin neg m ex =>
    if m = 0 then (inf32 neg, fDivZero)
    else
      let (e, f) := parts m ex
      let j := f / 2 ^ 17
      let y := seedT j - (seedT j - seedT (j + 1)) * (f % 2 ^ 17) / 2 ^ 17
      let (z, fl) := round32 .rne (.fin neg y (-24 - e))
      match f32 z with
      | .fin _ mz ez => (z, laneFlags z (isOne (mz * m) (ez + ex)))
      | _ => (z, fl)

/-- vrsq (R144, R146). -/
def rsqLane (x : Nat) : Nat × FFlags :=
  match f32 x with
  | .nan => (nan32, 0)
  | .inf neg => if neg then (nan32, fInvalid) else (0, 0)
  | .fin neg m ex =>
    if m = 0 then (inf32 neg, fDivZero)
    else if neg then (nan32, fInvalid)
    else
      let (e, f) := parts m ex
      let k := e / 2
      let j := (if e = 2 * k then 0 else 32) + f / 2 ^ 18
      let y := seedS j - (seedS j - seedS (j + 1)) * (f % 2 ^ 18) / 2 ^ 18
      let z := rne32 (.fin false y (-24 - k))
      match f32 z with
      | .fin _ mz ez => (z, laneFlags z (isOne (mz * mz * m) (2 * ez + ex)))
      | _ => (z, fInexact)

/-- vsqrt (R144, R151): correctly rounded under the mode in force. -/
def sqrtLane (mode : RMode) (x : Nat) : Nat × FFlags :=
  match f32 x with
  | .nan => (nan32, 0)
  | .inf neg => if neg then (nan32, fInvalid) else (inf32 false, 0)
  | .fin neg m e =>
    if m = 0 then (x, 0)
    else if neg then (nan32, fInvalid)
    else
      let k := 100 + (e % 2).toNat
      let n := m * 2 ^ k
      let r := isqrt n
      round32 mode (.fin false (2 * r + b2n (r * r != n)) ((e - k) / 2 - 1))

/-- P = P1 + P2 + P3, exactly (R147): its magnitude and exponent. -/
def reduceP : Nat × Int :=
  match (addNum .rne (addNum .rne (f32 0x3FC90FDA) (f32 0x33A22168)).1 (f32 0x27C23500)).1 with
  | .fin _ m e => (m, e)
  | _ => (1, 0)

/-- The integer nearest to x / P, for finite |x| ≤ 2^20 (R147). -/
def quadrantOf (x : Nat) : Option Int :=
  match f32 x with
  | .fin neg m e =>
    if cmpNum (.fin false m e) (.fin false 1 20) = .gt then none
    else
      let d := min e reduceP.2
      let a := m * 2 ^ (e - d).toNat
      let p := reduceP.1 * 2 ^ (reduceP.2 - d).toNat
      let q := (2 * a + p) / (2 * p)
      some (if neg then -q else q)
  | _ => none

/-- vredh (R147): x − q × P, rounded under the mode in force. -/
def redhLane (mode : RMode) (x : Nat) : Nat × FFlags :=
  match f32 x, quadrantOf x with
  | .nan, _ => (nan32, 0)
  | _, none => (nan32, fInvalid)
  | v, some q =>
    if q = 0 then (x, 0)
    else round32 mode (addNum mode v (.fin (decide (0 < q)) (q.natAbs * reduceP.1) reduceP.2)).1

/-- vquad (R147). -/
def quadLane (x : Nat) : Nat :=
  match quadrantOf x with
  | some q => (q % 4).toNat
  | none => 0

/-- The sine kernel (R148). -/
def sinKernel (r z : Num) : Num :=
  let w := rmul r z
  let p := rfma (decimal true 19515295891 14) z (decimal false 83321608736 13)
  let p := rfma p z (decimal true 16666654611 11)
  rfma w p r

/-- The cosine kernel (R148). -/
def cosKernel (z : Num) : Num :=
  let p := rfma (decimal false 24433157118 15) z (decimal true 13887316255 13)
  let p := rfma p z (decimal false 41666645683 12)
  let p := rfma p z (decimal true 5 1)
  rfma p z (f32 one32)

/-- Invert the sign of a code that is no NaN. -/
def flipSign (x : Nat) : Nat :=
  if x % 2 ^ 31 ≤ 0x7F800000 then (if bit x 31 then x - 2 ^ 31 else x + 2 ^ 31) else x

/-- vsin of r in quadrant q (R148). -/
def sinLane (x q : Nat) : Nat × FFlags :=
  match f32 x with
  | .nan => (nan32, 0)
  | .inf _ => (nan32, fInvalid)
  | .fin n m e =>
    let r : Num := .fin n m e
    let z := rmul r r
    let y := if q % 2 = 0 then (if m = 0 then x else rne32 (sinKernel r z)) else rne32 (cosKernel z)
    let y := if q / 2 % 2 = 1 then flipSign y else y
    (y, laneFlags y (m == 0))

/-- Fused steps p := rne(p × x + c) through a list of coefficients (R149, R150). -/
def horner (x : Num) : Num → List Num → Num
  | p, [] => p
  | p, c :: r => horner x (rfma p x c) r

/-- c6 … c0 of R149. -/
def expCoeffs : List Num :=
  [decimal false 15403530393 14, decimal false 13333558146 13, decimal false 96181291076 13,
    decimal false 55504108665 12, decimal false 24022650696 11, decimal false 69314718056 11, f32 one32]

/-- The integer nearest to ± m × 2^e, ties to even (R149). -/
def nearest (neg : Bool) (m : Nat) (e : Int) : Int :=
  let (r, _) := roundShift .rne neg m (-e)
  if neg then -r else r

/-- Multiply a value by 2^n. -/
def scaleNum (n : Int) : Num → Num
  | .fin s m e => .fin s m (e + n)
  | v => v

/-- vexp2 (R144, R149). -/
def exp2Lane (x : Nat) : Nat × FFlags :=
  match f32 x with
  | .nan => (nan32, 0)
  | .inf neg => (if neg then 0 else inf32 false, 0)
  | .fin neg m e =>
    let v : Num := .fin neg m e
    if m = 0 then (one32, 0)
    else if cmpNum v (ofInt 128) = .gt then (inf32 false, fOverflow)
    else if cmpNum v (ofInt (-151)) = .lt then (0, fUnderflow)
    else
      let n := nearest neg m e
      let f := (addNum .rne v (ofInt (-n))).1
      let p := horner f (decimal false 15252733804 15) expCoeffs
      let (y, fl) := round32 .rne (scaleNum n p)
      if f32 y = .inf false then (y, fl)
      else (y, laneFlags y (cmpNum f (ofInt 0) == .eq && decide (-149 ≤ n)))

/-- L9, L7, L5, L3, L1 of R150. -/
def logCoeffs : List Num :=
  [decimal false 32059889798 11, decimal false 41219858311 11, decimal false 57707801636 11,
    decimal false 96179669393 11, decimal false 28853900818 10]

/-- A quotient of finite values rounded to f32 to nearest. -/
def rdiv (a b : Num) : Num :=
  match a, b with
  | .fin an am ae, .fin bn bm be => r32 (quotient (an != bn) am bm (ae - be))
  | _, _ => .nan

/-- vlog2 (R144, R150). -/
def log2Lane (x : Nat) : Nat × FFlags :=
  match f32 x with
  | .nan => (nan32, 0)
  | .inf neg => if neg then (nan32, fInvalid) else (inf32 false, 0)
  | .fin neg m ex =>
    if m = 0 then (inf32 true, fDivZero)
    else if neg then (nan32, fInvalid)
    else
      let (e, f) := parts m ex
      let big := 0x3504F3 < f
      let mant : Num := .fin false (2 ^ 23 + f) (if big then -24 else -23)
      let e := if big then e + 1 else e
      let u := (addNum .rne mant (ofInt (-1))).1
      let v := r32 (addNum .rne mant (ofInt 1)).1
      let q := rdiv u v
      let z := rmul q q
      let p := horner z (decimal false 26230818925 11) logCoeffs
      let t := rmul q p
      let y := if e = 0 then rne32 t else rne32 (addNum .rne (ofInt e) t).1
      (y, laneFlags y (f == 0))

/-- A special function of one operand (R42, R143). -/
def specialOp (i : Instr) (lat : Nat) (g : RMode → Nat → Nat × FFlags) (d a : Reg) (x : Reg8) (s : State) : Out State :=
  lanewise1 i .f32 isFlt lat (fun _ mode y => g mode y) d a x s

/-- VRSQ (R146). -/
def execVrsq (d a : Reg) (x : Reg8) (s : State) : Out State := specialOp (.vrsq d a x) 8 (fun _ y => rsqLane y) d a x s
/-- VRCP (R145). -/
def execVrcp (d a : Reg) (x : Reg8) (s : State) : Out State := specialOp (.vrcp d a x) 8 (fun _ y => rcpLane y) d a x s
/-- VREDH (R147). -/
def execVredh (d a : Reg) (x : Reg8) (s : State) : Out State := specialOp (.vredh d a x) 8 redhLane d a x s
/-- VQUAD (R147). -/
def execVquad (d a : Reg) (x : Reg8) (s : State) : Out State :=
  specialOp (.vquad d a x) 8 (fun _ y => (quadLane y, 0)) d a x s
/-- VEXP2 (R149). -/
def execVexp2 (d a : Reg) (x : Reg8) (s : State) : Out State :=
  specialOp (.vexp2 d a x) 16 (fun _ y => exp2Lane y) d a x s
/-- VLOG2 (R150). -/
def execVlog2 (d a : Reg) (x : Reg8) (s : State) : Out State :=
  specialOp (.vlog2 d a x) 16 (fun _ y => log2Lane y) d a x s
/-- VSQRT (R151). -/
def execVsqrt (d a : Reg) (x : Reg8) (s : State) : Out State := specialOp (.vsqrt d a x) 16 sqrtLane d a x s

/-- vsin or vcos: r from va, the quadrant from vd (R148). -/
def trigOp (i : Instr) (turn : Nat) (d a : Reg) (x : Reg8) (s : State) : Out State :=
  issue i { vs := [a, d], vd := some d, ms := [x] } (fun s0 =>
    let (va, vd, s) := vsrc2 a d s0
    finishV d 16 (masked 32 (readM s0 x) (keepOf s0 d) fun j =>
      sinLane (laneAt 32 va j) ((laneAt 32 vd j + turn) % 4)) s) s

/-- VSIN (R148). -/
def execVsin (d a : Reg) (x : Reg8) (s : State) : Out State := trigOp (.vsin d a x) 0 d a x s
/-- VCOS (R148). -/
def execVcos (d a : Reg) (x : Reg8) (s : State) : Out State := trigOp (.vcos d a x) 1 d a x s

end Sys2Proof.Machine
end

