-- ==== Sys2Proof/Machine/VecMem.lean ====
section
/-! DEFINITION. Vector access to local memory: vld.l and vst.l (R139), gathers and scatters (R141, R142). -/
namespace Sys2Proof.Machine

/-- VLD_L (R139). -/
def execVldL (d a : Reg) (imm : BitVec 11) (s : State) : Out State :=
  issueLocal (.vldL d a imm) { gs := [a], vd := some d } (fun s0 =>
    let ea := scaled (src1 a s0).1 imm 64
    if ea.toNat % 64 ≠ 0 then raise .alignment ea s0
    else if 0x7FFC0 < ea.toNat then raise .bounds ea s0
    else onBank true ea.toNat 64 s0 fun s =>
      let s := (src1 a s).2
      complete (writeV d (BitVec.ofNat 512 (tileLoad s.myTile ea.toNat 64)) 4 s)) s

/-- VST_L (R139, R116). -/
def execVstL (d a : Reg) (imm : BitVec 11) (s : State) : Out State :=
  issueLocal (.vstL d a imm) { gs := [a], vs := [d] } (fun s0 =>
    let (x, _, _) := popG false a s0
    let ea := scaled x imm 64
    if ea.toNat % 64 ≠ 0 then raise .alignment ea s0
    else if 0x7FFC0 < ea.toNat then raise .bounds ea s0
    else onBank false ea.toNat 64 s0 fun s =>
      let (_, p, s) := popG false a s
      let (v, _, s) := popV p d s
      complete (s.modMyTile (tileStore ea.toNat (leBytes 64 v.toNat)))) s

/-- The active lanes of a gather or scatter with their addresses, lowest first (R141). -/
def laneAddrs (n : Nat) (base : W64) (m : W64) (idx : V512) : List (Nat × W64) :=
  ((List.range (64 / n)).filter fun i => m.getLsbD i).map fun i =>
    (i, base + w64 (laneAt (8 * n) idx i) * w64 n)

/-- The exception of the lowest failing lane: alignment, then bounds (R141). -/
def laneFault (n : Nat) : List (Nat × W64) → Option (Cause × W64)
  | [] => none
  | (_, ea) :: r =>
    if ea.toNat % n ≠ 0 then some (.alignment, ea)
    else if 0x7FFFF < ea.toNat then some (.bounds, ea)
    else laneFault n r

/-! ### Granule by granule -/

/-- A gather or scatter stands in the waiting list of a bank it still needs, since the cycle it issued in (R142). -/
def gatherWaits (k : Fin 8) (b : Fin 16) (j : Gather) (x : Tile) : Tile :=
  waitFrom (.strand k) b j.since x

/-- The lanes of one granule are read or written, in increasing lane order (R141, R142); the first bad word that is read is
noted (R153). -/
def serveLanes (j : Gather) (g : Nat) (x : Tile) : Gather × Tile :=
  let mine := j.lanes.filter fun p => p.2 / 64 == g
  let rest := j.lanes.filter fun p => p.2 / 64 != g
  if j.store then
    ({ j with lanes := rest },
      mine.foldl (fun x p => tileStore p.2 (leBytes j.size (laneAt (8 * j.size) j.data p.1)) x) x)
  else
    ({ j with lanes := rest, bad := j.bad.or ((mine.findSome? fun p => badIn x.badLm p.2 j.size).map fun w => w64 (4 * w))
              data := mine.foldl (fun v p =>
        v ||| (BitVec.ofNat 512 (tileLoad x p.2 j.size) <<< (8 * j.size * p.1))) j.data }, x)

/-- Bank `b` serves the lowest granule that strand `k`'s gather or scatter still has there, when the bank is its to use
(R142, R265). -/
def serveBank (k : Fin 8) (x : Tile) (b : Fin 16) : Tile :=
  match x.strands[k].gather with
  | none => x
  | some j =>
    match ((j.lanes.filter fun p => bankOf p.2 == b).map (·.2 / 64)).min? with
    | none => x
    | some g =>
      match takeBank (.strand k) (64 * g) 1 (gatherWaits k b j x) with
      | (false, x) => x
      | (true, x) =>
        let (j, x) := serveLanes j g x
        let x := { x with strands := x.strands.set k { x.strands[k] with gather := some j } }
        if j.lanes.any fun p => bankOf p.2 == b then gatherWaits k b j x else x

/-- The last granule has been served: the access completes with this cycle, and a gather's data is ready four cycles after
it (R142). -/
def gatherEnds (k : Fin 8) (x : Tile) : Tile :=
  let z := x.strands[k]
  match z.gather with
  | none => x
  | some j =>
    if !j.lanes.isEmpty || j.bad.isSome then x
    else
      let c := x.cycle + 4
      let done (z : Strand) : Tile := { x with strands := x.strands.set k { z with
        gather := none
        r := { z.r with accessFrom := x.cycle + 1, resultsFrom := if j.store then z.r.resultsFrom else max z.r.resultsFrom c } } }
      match j.dest with
      | .v r => done (setV z r j.data c)
      | .queue q id => fillQueue q id (toWords j.data) c (done z)
      | _ => done z

/-- One cycle of strand `k`'s gather or scatter: each bank it needs serves one granule (R142). -/
def gatherCycle (x : Tile) (k : Fin 8) : Tile := gatherEnds k ((List.finRange 16).foldl (serveBank k) x)

/-- A gather whose granule has met a bad word raises the machine check; it has written nothing (R153). -/
def gatherFault (t : TileNo) (s : State) (k : Fin 8) : State :=
  match (s.strandAt t k).gather with
  | some { bad := some v, pc, dest, .. } =>
    let s := s.modStrand t k fun z => { z with gather := none }
    let s := match dest with
      | .queue q id => s.modTile t (dropReserved q id)
      | _ => s
    onHart (.strand t k) (raiseAt .machineCheck v pc) s
  | _ => s

/-- The gathers and scatters that issued in earlier cycles go on (R142). -/
def gatherSlot (t : TileNo) (s : State) : State :=
  ((List.finRange 8).filter fun k => (s.strandAt t k).gather.any fun j => j.since != (s.tile t).cycle).foldl
    (fun s k => gatherFault t (s.modTile t (gatherCycle · k)) k) s

/-- A gather or scatter of a strand issues, and its first granules are served (R142). -/
def startGather (j : Gather) (s : State) : State :=
  match s.hart with
  | .strand t k => (s.modStrand t k fun z => { z with gather := some j }).modTile t fun x => gatherCycle x k
  | _ => s

/-- Lanes with their addresses as naturals. -/
def laneNats (l : List (Nat × W64)) : List (Nat × Nat) := l.map fun p => (p.1, p.2.toNat)

/-- A gather of `n`-byte elements (R141, R142). -/
def gatherOp (i : Instr) (n : Nat) (d a b : Reg) (x : Reg8) (s : State) : Out State :=
  issueLocal i { gs := [a], vs := [b], vd := some d, ms := [x] } (fun s0 =>
    let (base, p, s) := popG false a s0
    let (idx, _, s) := popV p b s
    let l := laneAddrs n base (readM s0 x) idx
    match laneFault n l, l.findSome? fun p => badIn s0.myTile.badLm p.2.toNat n with
    | some (c, ea), _ => raise c ea s0
    | none, some w => raise .machineCheck (w64 (4 * w)) s0
    | none, none =>
      let kept := (masked (8 * n) (readM s0 x) (keepOf s0 d) fun _ => (0, 0)).1
      let (id, s) := s.draw
      let (dest, s) := reserve true d id s
      complete (startGather ⟨false, n, laneNats l, kept, dest, s0.cyc, s0.regs.pc, none⟩ s)) s

/-- A scatter of `n`-byte elements, in increasing lane order (R141, R142, R116). -/
def scatterOp (i : Instr) (n : Nat) (d a b : Reg) (x : Reg8) (s : State) : Out State :=
  issueLocal i { gs := [a], vs := [b, d], ms := [x] } (fun s0 =>
    let (base, p, s) := popG false a s0
    let (idx, p, s) := popV p b s
    let (v, _, s) := popV p d s
    let l := laneAddrs n base (readM s0 x) idx
    match laneFault n l with
    | some (c, ea) => raise c ea s0
    | none => complete (startGather ⟨true, n, laneNats l, v, .none, s0.cyc, s0.regs.pc, none⟩ s)) s

/-- VGATH_W (R141). -/
def execVgathW (d a b : Reg) (x : Reg8) (s : State) : Out State := gatherOp (.vgathW d a b x) 4 d a b x s
/-- VSCAT_W (R141). -/
def execVscatW (d a b : Reg) (x : Reg8) (s : State) : Out State := scatterOp (.vscatW d a b x) 4 d a b x s
/-- VGATH_H (R141). -/
def execVgathH (d a b : Reg) (x : Reg8) (s : State) : Out State := gatherOp (.vgathH d a b x) 2 d a b x s
/-- VSCAT_H (R141). -/
def execVscatH (d a b : Reg) (x : Reg8) (s : State) : Out State := scatterOp (.vscatH d a b x) 2 d a b x s
/-- VGATH_B (R141). -/
def execVgathB (d a b : Reg) (x : Reg8) (s : State) : Out State := gatherOp (.vgathB d a b x) 1 d a b x s
/-- VSCAT_B (R141). -/
def execVscatB (d a b : Reg) (x : Reg8) (s : State) : Out State := scatterOp (.vscatB d a b x) 1 d a b x s

end Sys2Proof.Machine
end

