-- ==== Sys2Proof/Machine/Matrix.lean ====
section
/-! DEFINITION. The matrix unit (R192-R213): issue of matrix instructions, the cycle in which one begins with its checks,
its reads and writes of local memory cycle by cycle, and its end with its results; the accumulation of R93-R97. -/
namespace Sys2Proof.Machine

/-! ### Issue -/

/-- Issue a matrix instruction (R161, R202): it queues with the operands it took and popped, and its strand leaves the
rotation. -/
def matIssue (i : Instr) (nd : Need) (a v : Option Reg) (dst : Option (Bool × Reg)) (s : State) : Out State :=
  issue i nd (fun s =>
    match s.hart with
    | .strand t k =>
      if !drained s then s
      else
        let av := match a with
          | some r => (src1 r s).1
          | none => 0
        let vv := match v with
          | some r => (popV false r s).1
          | none => 0
        let (id, s') := s.draw
        let (dest, s') := match dst with
          | some (vec, d) => reserve vec d id s'
          | none => (.none, s')
        let (popped, s') := popAll s' (popsOf s nd)
        let op : MatOp :=
          { strand := k, instr := i, pc := s.regs.pc, a := av, v := vv, rm := s.me.rmode.toNat
            fmt8 := s.me.fmt8.toNat, popped := popped, sstat := s.me.sstat, dest := dest }
        (s'.modTile t fun x => { x with mx := { x.mx with queue := x.mx.queue ++ [op] } }).modStrand t k
          fun x => { x with matrixWait := true }
    | _ => s) s

/-- A b8 operand selector is legal only under an FMT8 that R17 admits. -/
def selOk (fmt8 : Nat) (f : MatSel) : Bool := f != .b8 || (elemOf .b8 fmt8).isSome

/-- MMA (R205). -/
def execMma (c : AccNo) (a : Reg) (fa fb : MatSel) (l : Fin 2) (fw hd z : Bool) (s : State) : Out State :=
  if selOk s.me.fmt8.toNat fa && selOk s.me.fmt8.toNat fb then
    matIssue (.mma c a fa fb l fw hd z) { gs := [a] } (some a) none none s
  else illegalNow (.mma c a fa fb l fw hd z) s

/-- MMS (R205). -/
def execMms (c : AccNo) (a : Reg) (fa fb : MatSel) (l : Fin 2) (fw hd z : Bool) (s : State) : Out State :=
  if selOk s.me.fmt8.toNat fa && selOk s.me.fmt8.toNat fb then
    matIssue (.mms c a fa fb l fw hd z) { gs := [a] } (some a) none none s
  else illegalNow (.mms c a fa fb l fw hd z) s

/-- MLB (R211). -/
def execMlb (a : Reg) (l : Fin 2) (s : State) : Out State :=
  matIssue (.mlb a l) { gs := [a] } (some a) none none s
/-- MLARM (R211). -/
def execMlarm (l : Fin 2) (fw : Bool) (s : State) : Out State := matIssue (.mlarm l fw) {} none none none s
/-- MLFREE (R211). -/
def execMlfree (l : Fin 2) (s : State) : Out State := matIssue (.mlfree l) {} none none none s
/-- MROW (R207). -/
def execMrow (c : AccNo) (v : Reg) (row : Fin 32) (half : Bool) (s : State) : Out State :=
  matIssue (.mrow c v row half) { vd := some v } none none (some (true, v)) s
/-- MWROW (R207). -/
def execMwrow (c : AccNo) (v : Reg) (row : Fin 32) (half : Bool) (s : State) : Out State :=
  matIssue (.mwrow c v row half) { vs := [v] } none (some v) none s
/-- MST (R208). -/
def execMst (c : AccNo) (a : Reg) (f : StFmt) (s : State) : Out State :=
  matIssue (.mst c a f) { gs := [a] } (some a) none none s
/-- MZERO (R208). -/
def execMzero (c : AccNo) (s : State) : Out State := matIssue (.mzero c) {} none none none s
/-- MWAIT (R210). -/
def execMwait (s : State) : Out State := matIssue .mwait {} none none none s
/-- MHDR (R210). -/
def execMhdr (d : Reg) (l : Fin 2) (s : State) : Out State :=
  matIssue (.mhdr d l) { gd := some d } none none (some (false, d)) s
/-- MTAG (R209). -/
def execMtag (c : AccNo) (a : Reg) (s : State) : Out State :=
  matIssue (.mtag c a) { gs := [a] } (some a) none none s

/-! ### Operands -/

/-- Element type of a format code (R70). -/
def elemOfCode (c : Nat) : Option Elem :=
  if c = 1 then some (.flt fmtBf16)
  else if c = 2 then some (.flt fmtF16)
  else if c = 0x30 then some (.int 8 true)
  else if c = 0x31 then some (.int 8 false)
  else (fmt8Of c).map .flt

/-- Element type of an operand selector (R45). -/
def selElem (fmt8 : Nat) (f : MatSel) : Elem :=
  match f with
  | .bf16 => .flt fmtBf16
  | .f16 => .flt fmtF16
  | .b8 => (elemOf .b8 fmt8).getD (.int 8 true)
  | .i8 => .int 8 true
  | .n8 => .int 8 false

/-- Exact value of an element code. -/
def elemNum (e : Elem) (x : Nat) : Num :=
  match e with
  | .flt f => decodeF f x
  | .int w sgn => ofInt (intValue w sgn x)

/-- What an mma or mms works on: element types, K, and whether scales apply (R195-R197, R205). -/
structure MacForm where
  ea : Elem
  eb : Elem
  k : Nat
  scaled : Bool
deriving DecidableEq, Repr

/-- The form of an mma or mms on a block (R205). -/
def macForm (fa fb : MatSel) (hd : Bool) (fmt8 hdr : Nat) : MacForm :=
  if hd then
    let e := (elemOfCode (bits hdr 0 8)).getD (.int 8 true)
    { ea := e, eb := e, k := 512 / (elemWidth e), scaled := bit hdr 24 }
  else
    let ea := selElem fmt8 fa
    { ea := ea, eb := selElem fmt8 fb, k := 512 / (elemWidth ea), scaled := false }

/-- Value of an E8M0 scale (R86). -/
def scaleNumOf (e : Nat) : Num := if e = 0xFF then .nan else .fin false 1 (e - 127)

/-- Natural value of `n` bytes of a list at an offset. -/
def listVal (l : List Byte) (o n : Nat) : Nat := leVal ((l.drop o).take n)

/-- Scaled values of row `i` of the A block (R195, R197). -/
def rowA (f : MacForm) (a : List Byte) (i : Nat) : List Num :=
  (List.range f.k).map fun k =>
    let n := elemWidth f.ea / 8
    let v := elemNum f.ea (listVal a (64 * i + n * k) n)
    if f.scaled then (mulNum v (scaleNumOf (listVal a (2048 + f.k / 32 * i + k / 32) 1))).1 else v

/-- Scaled values of column `c` of the B block in a latch (R196, R197). -/
def colB (f : MacForm) (y : Latch) (c : Nat) : List Num :=
  let s := y.size - 65
  (List.range f.k).map fun k =>
    let w := elemWidth f.eb
    let o := 64 * c * 8 + w * k
    let flit := (y.flits[1 + s + o / 256]?.getD {}).data
    let v := elemNum f.eb (flit.extractLsb' (o % 256) w).toNat
    if f.scaled then
      let sf := (y.flits[1 + k / 32]?.getD {}).data
      (mulNum v (scaleNumOf (sf.extractLsb' (8 * c) 8).toNat)).1
    else v

/-- One product as a term, negated for mms (R205). -/
def productTerm (neg : Bool) (a b : Num) : Term :=
  let (v, fl) := mulNum a b
  { v := if neg then negNum v else v, made := fl != 0 }

/-- Value of an exact integer result. -/
def numInt : Num → Int
  | .fin n m e => (if n then -(m * 2 ^ e.toNat : Int) else (m * 2 ^ e.toNat : Int))
  | _ => 0

/-- The new value of one output element from its old word (R93, R95, R205). -/
def macElem (f : MacForm) (neg z : Bool) (mode : RMode) (old : Nat) (row col : List Num) : Nat × FFlags :=
  let terms := (row.zip col).map fun p => productTerm neg p.1 p.2
  let old := if z then 0 else old
  if isInt f.ea && isInt f.eb then
    (intBits 32 ((old : Int) + terms.foldl (fun acc t => acc + numInt t.v) 0), 0)
  else macSum mode (⟨f32 old, false⟩ :: terms)

/-- The 1,024 new words of a block, row by row, with the flags of all (R79, R205). -/
def macBlock (f : MacForm) (neg z : Bool) (mode : RMode) (acc : Mem) (blk : Nat) (a : List Byte) (y : Latch) :
    List (Nat × FFlags) :=
  let cols := (List.range 32).map (colB f y)
  (List.range 32).flatMap fun i =>
    let row := rowA f a i
    cols.zipIdx.map fun (col, c) => macElem f neg z mode (memRead acc (0x1000 * blk + 128 * i + 4 * c) 4) row col

/-! ### Begin -/

/-- The latch an instruction names. -/
def latchNamed : Instr → Option (Fin 2)
  | .mma _ _ _ _ l .. => some l
  | .mms _ _ _ _ l .. => some l
  | .mlb _ l => some l
  | .mlarm l _ => some l
  | .mlfree l => some l
  | .mhdr _ l => some l
  | _ => none

/-- Cycles an instruction occupies the unit (R201). -/
def matDur (x : Tile) (op : MatOp) : Nat :=
  match op.instr with
  | .mma .. | .mms .. => 64
  | .mlb .. => blockAt x op.a
  | .mrow .. => 4
  | .mwrow .. | .mzero .. | .mhdr .. => 2
  | .mst _ _ f => if f = .f32 then 64 else 32
  | _ => 1

/-- The block of an mma or mms forwards (R200). -/
def forwards (m : Matrix) (i : Instr) : Option (Fin 2) :=
  match i with
  | .mma _ _ _ _ l fw _ _ => if fw || m.latch[l].ring then some l else none
  | .mms _ _ _ _ l fw _ _ => if fw || m.latch[l].ring then some l else none
  | _ => none

/-- What the begin of an instruction changes in the latches (R198, R200, R211). -/
def beginLatches (x : Tile) (op : MatOp) : Matrix :=
  let m := x.mx
  match op.instr with
  | .mlb _ l =>
    let y := { m.latch[l] with
      st := .filling, flits := [], size := blockAt x op.a, byMlb := true, since := x.cycle + 1 }
    { m with latch := m.latch.set l y }
  | i =>
    match forwards m i with
    | some l =>
      let y := { m.latch[l] with
        st := .forwarding, fwd := 0, fwdBegin := x.cycle, inUse := true, since := x.cycle + 1 }
      { m with latch := m.latch.set l y, fwdOrder := m.fwdOrder ++ [l] }
    | none => m

/-- An instruction begins: it leaves the queue and occupies the unit (R201). -/
def startOp (x : Tile) (op : MatOp) (rest : List MatOp) : Tile :=
  let m := beginLatches x op
  { x with mx := { m with
      queue := rest
      run := some { op := op, start := x.cycle, dur := matDur x op, fwd := (forwards x.mx op.instr).isSome, read := [] } } }

/-- A strand is done with its matrix instruction: it rejoins the rotation (R161). -/
def releaseStrand (t : TileNo) (k : Fin 8) (s : State) : State :=
  s.modStrand t k fun x => { x with matrixWait := false }

/-- A matrix instruction that traps gives back what it popped and releases its reservations (R165). -/
def undoOp (t : TileNo) (op : MatOp) (s : State) : State :=
  giveBack (.strand t op.strand) op.popped op.sstat (match op.dest with
    | .queue k id => s.modTile t (dropReserved k id)
    | _ => s)

/-- An instruction that cannot begin traps; the unit goes on in the next cycle (R213). -/
def refuseOp (t : TileNo) (op : MatOp) (rest : List MatOp) (c : Cause) (eval : W64) (s : State) : State :=
  let s := undoOp t op (s.modTile t fun x => { x with mx := { x.mx with queue := rest, beginFrom := x.cycle + 1 } })
  onHart (.strand t op.strand) (raiseAt c eval op.pc) (releaseStrand t op.strand s)

/-- The bad word of local memory that the executing instruction consumes in this cycle (R203, R213). -/
def granuleBad (x : Tile) (r : MatRun) : Option W64 :=
  let n : Nat := match r.op.instr with
    | .mma .. | .mms .. => 64
    | .mlb .. => 32
    | _ => 0
  (granuleAt x r.op.instr r.op.a (x.cycle - r.start)).bind fun a => (badIn x.badLm a n).map fun w => w64 (4 * w)

/-- The bad accumulator word that an mst consumes for its granule of this cycle (R208, R213). -/
def rowBad (x : Tile) (r : MatRun) : Option W64 :=
  match r.op.instr with
  | .mst c _ f =>
    let n := if f = .f32 then 64 else 128
    accBadAt x (0x1000 * c.val + n * (x.cycle - r.start), n)
  | _ => none

/-- The latch of an instruction that traps after its begin is as it was: an mlb's free, a forwarding one full (R213). -/
def unlatch (r : MatRun) (m : Matrix) : Matrix :=
  match r.op.instr with
  | .mlb _ l => { m with latch := m.latch.set l { since := m.latch[l].since } }
  | i => match latchNamed i with
    | some l =>
      if r.fwd then { m with
        latch := m.latch.set l { m.latch[l] with st := .full, fwd := 0, inUse := false }
        fwdOrder := m.fwdOrder.filter (· != l) }
      else m
    | none => m

/-- The local bytes that an mst's granules have replaced stand again (R213). -/
def unrun (r : MatRun) (x : Tile) : Tile := r.undo.foldl (fun x p => tileWrite p.1 p.2 x) x

/-- The executing instruction raises the machine check: it writes nothing and forwards nothing (R213, R365). -/
def matFault (t : TileNo) (r : MatRun) (eval : W64) (s : State) : State :=
  let op := r.op
  let s := undoOp t op (s.modTile t fun x => unrun r { x with
    mx := { unlatch r x.mx with run := none, beginFrom := x.cycle + 1 } })
  onHart (.strand t op.strand) (raiseAt .machineCheck eval op.pc) (releaseStrand t op.strand s)

/-- The first queued instruction begins, if it may in this cycle; `late` takes mlfree only (R193, R199, R201, R213). -/
def beginNext (late : Bool) (t : TileNo) (s : State) : State :=
  let x := s.tile t
  match x.mx.run, x.mx.queue with
  | none, op :: rest =>
    if x.cycle < x.mx.beginFrom || isMlfree op.instr != late || !beginCond x.mx x.cycle op.instr then s
    else if (accNamed op.instr).any fun n => x.mx.accWait.any fun w => w.2 == n.val then
      s.modTile t fun x => { x with mx := { x.mx with
        beginFrom := x.cycle + 1, accWait := x.mx.accWait.filter fun w => some w.2 != (accNamed op.instr).map (·.val) } }
    else match (beginCheck x op).or ((accBad x op.instr).map fun v => (Cause.machineCheck, v)) with
      | some (c, eval) => refuseOp t op rest c eval s
      | none => s.modTile t fun x => startOp x op rest
  | _, _ => s

/-! ### Local memory, cycle by cycle -/

/-- A granule of converted accumulator words (R208). -/
def storeRow (acc : Mem) (blk i : Nat) (f : Fmt) (mode : RMode) : List Byte :=
  (List.range 32).flatMap fun c =>
    leBytes 2 (convert (.flt fmtF32) (.flt f) false mode (memRead acc (0x1000 * blk + 128 * i + 4 * c) 4)).1

/-- Format of an mst (R45). -/
def stFmt : StFmt → Fmt
  | .f32 => fmtF32
  | .bf16 => fmtBf16
  | .f16 => fmtF16

/-- The granule of local memory that the executing instruction uses in this cycle (R203), once per cycle. -/
def useGranule (x : Tile) (r : MatRun) : Tile :=
  let k := x.cycle - r.start
  let a := r.op.a.toNat
  let read (o n : Nat) : Tile :=
    let y := claimBank (a + o) x
    { y with mx := { x.mx with run := some { r with read := r.read ++ memBytes x.lm (a + o) n } } }
  let mac (l : Fin 2) (hd : Bool) : Tile :=
    if k < 32 && r.read.length == 64 * k then read (64 * k) 64
    else if k == 32 && r.read.length == 2048 && hd && bit (latchHeader x.mx.latch[l]) 24 then read 2048 64
    else x
  match r.op.instr with
  | .mma _ _ _ _ l _ hd _ => mac l hd
  | .mms _ _ _ _ l _ hd _ => mac l hd
  | .mlb _ l =>
    let y := x.mx.latch[l]
    if y.flits.length == k && k < y.size then
      let f : Flit :=
        { data := BitVec.ofNat 256 (tileLoad x (a + 32 * k) 32), h := k == 0, e := k + 1 == y.size }
      let z := claimBank (a + 32 * k) x
      { z with mx := { x.mx with latch := x.mx.latch.set l { y with flits := y.flits ++ [f] } } }
    else x
  | .mst c _ f =>
    if r.read.length == k && k < r.dur then
      let bs := if f = .f32 then memBytes x.acc (0x1000 * c.val + 64 * k) 64
        else storeRow x.acc c.val k (stFmt f) (modeOf r.op.rm)
      let old := memBytes x.lm (a + 64 * k) 64
      let x := tileStore (a + 64 * k) bs (claimBank (a + 64 * k) x)
      { x with mx := { x.mx with run := some { r with read := r.read ++ [0], undo := (a + 64 * k, old) :: r.undo } } }
    else x
  | _ => x

/-- The executing instruction uses local memory in this cycle. -/
def matCycle (t : TileNo) (s : State) : State :=
  match (s.tile t).mx.run with
  | some r => match (granuleBad (s.tile t) r).or (rowBad (s.tile t) r) with
    | some v => matFault t r v s
    | none => s.setTile t (useGranule (s.tile t) r)
  | none => s

/-- MATRIX_INSTRUCTION_BEGIN (R201): of the queued instructions the first, unless it is mlfree, and the local-memory
use of the cycle. -/
def execMatrixInstructionBegin (t : TileNo) (s : State) : Out State := .next (matCycle t (beginNext false t s))

/-- The begin of an mlfree, after the switch's moves of the cycle (R199). -/
def matrixLate (t : TileNo) (s : State) : State := beginNext true t s

/-! ### End -/

/-- The results of an mma or mms (R205): the block, the tag's step, the flags. -/
def endMac (neg : Bool) (c : AccNo) (fa fb : MatSel) (l : Fin 2) (hd z : Bool) (r : MatRun) (x : Tile) : Tile × FFlags :=
  let y := x.mx.latch[l]
  let f := macForm fa fb hd r.op.fmt8 (latchHeader y)
  let out := macBlock f neg z (modeOf r.op.rm) x.acc c.val r.read y
  let m := x.mx
  let m := if m.tagv[c] then { m with atag := m.atag.set c (m.atag[c] + (m.step[c]).signExtend 16) } else m
  let m := if r.fwd then { m with latch := m.latch.set l { m.latch[l] with inUse := false } } else m
  let m := if r.fwd && !m.fwdOrder.contains l then releaseLatch l m (x.cycle - 1) else m
  (accStore (0x1000 * c.val) (out.flatMap fun p => leBytes 4 p.1) { x with mx := m }, orFlags (out.map (·.2)))

/-- The flags of an mst (R208). -/
def mstFlags (x : Tile) (c : AccNo) (f : StFmt) (mode : RMode) : FFlags :=
  if f = .f32 then 0
  else orFlags ((List.range 1024).map fun i =>
    (convert (.flt fmtF32) (.flt (stFmt f)) false mode (memRead x.acc (0x1000 * c.val + 4 * i) 4)).2)

/-- The results of an instruction on the tile, its flags, and the bytes of its register result (R205-R211). -/
def endEffect (r : MatRun) (x : Tile) : Tile × FFlags × List Byte :=
  let m := x.mx
  match r.op.instr with
  | .mma c _ fa fb l _ hd z => let (x, fl) := endMac false c fa fb l hd z r x; (x, fl, [])
  | .mms c _ fa fb l _ hd z => let (x, fl) := endMac true c fa fb l hd z r x; (x, fl, [])
  | .mlb _ l => ({ x with mx := { m with latch := m.latch.set l { m.latch[l] with st := .full, since := x.cycle } } }, 0, [])
  | .mlarm l fw => ({ x with mx := { m with
      latch := m.latch.set l { ({} : Latch) with st := .armed, ring := fw, since := x.cycle }
      armOrder := m.armOrder ++ [l] } }, 0, [])
  | .mlfree l => ({ x with mx := { m with
      latch := m.latch.set l { ({} : Latch) with since := x.cycle }
      armOrder := m.armOrder.filter (· != l) } }, 0, [])
  | .mrow c _ row half => (x, 0, memBytes x.acc (halfRow c row half) 64)
  | .mwrow c _ row half => (accStore (halfRow c row half) (leBytes 64 r.op.v.toNat) x, 0, [])
  | .mst c _ f => (x, mstFlags x c f (modeOf r.op.rm), [])
  | .mzero c => ({ x with
      acc := memZero x.acc (0x1000 * c.val) 0x1000
      badAcc := healed x.badAcc (0x1000 * c.val) 0x1000
      accResidue := accHealed x.accResidue (0x1000 * c.val) 0x1000 }, 0, [])
  | .mhdr _ l => (x, 0, leBytes 8 (latchHeader m.latch[l]))
  | .mtag c _ => ({ x with mx := { m with
      atag := m.atag.set c (r.op.a.setWidth 16)
      tagv := m.tagv.set c (bit r.op.a.toNat 16)
      step := m.step.set c (BitVec.ofNat 8 (bits r.op.a.toNat 24 8)) } }, 0, [])
  | _ => (x, 0, [])

/-- A tile that holds no region of a latency-class launch and no standing region is capped (R426). -/
def capped (x : Tile) : Bool :=
  match x.group with
  | some g => !g.latency && !g.standing
  | none => false

/-- Cycles by which a duty cap delays the next begin (R426). -/
def dutyDelay (duty d : Nat) : Nat := (d * (64 - duty) + duty - 1) / duty

/-- The register result of a matrix instruction is there from the cycle after its last (R201); words for a queue may leave
from that cycle (R165). -/
def matDeliver (t : TileNo) (r : MatRun) (bs : List Byte) (s : State) : State :=
  match r.op.dest with
  | .queue k id => s.modTile t (fillQueue k id (toWords (BitVec.ofNat 512 (leVal bs))) (r.start + r.dur))
  | d => deliverDest (.strand t r.op.strand) d bs s

/-- The executing instruction ends: results, flags, and the strand's completion (R201, R161). -/
def finishOp (t : TileNo) (r : MatRun) (s : State) : State :=
  let duty := (s.die (tileDie t)).duty
  let (x, fl, bs) := endEffect r (s.tile t)
  let wait := if capped x then dutyDelay duty r.dur else 0
  let s := s.setTile t { x with mx := { x.mx with run := none, beginFrom := max x.mx.beginFrom (x.cycle + wait) } }
  let h : HartId := .strand t r.op.strand
  let s := matDeliver t r bs (releaseStrand t r.op.strand s)
  onHart h (fun s => complete (raiseFlags fl s)) s

/-- The bad accumulator word that an instruction consumes for its results (R213); an mst has consumed its own with its
granules. -/
def accAtEnd (x : Tile) (i : Instr) : Option W64 :=
  match i with
  | .mst .. => none
  | i => accBad x i

/-- MATRIX_INSTRUCTION_END (R201): from cycle b + d its results are visible. MSTAT is then noted as csrr reads it
(R212). -/
def execMatrixInstructionEnd (t : TileNo) (s : State) : Out State :=
  let s := match (s.tile t).mx.run with
    | some r =>
      if (s.tile t).cycle < r.start + r.dur then s
      else match accAtEnd (s.tile t) r.op.instr with
        | some v => matFault t r v s
        | none => finishOp t r s
    | none => s
  .next (s.modTile t fun x => { x with mx := { x.mx with seen := mstatWord x.mx } })

/-- ACCUMULATOR_WINDOW_ACCESS (R193): it waits while the unit executes an instruction that names the block. -/
def execAccumulatorWindowAccess (t : TileNo) (off n : Nat) (wr : Option V512) (s : State) : Out State :=
  let (r, s') := accessTile s t (0x80000 + off) n (wr.map fun v => (leBytes 64 v.toNat).take n)
    (.event (.accumulatorWindowAccess t off n wr))
  .next (if r = .wait then s'.defer (.accumulatorWindowAccess t off n wr) else s')

end Sys2Proof.Machine
end

