-- ==== Sys2Proof/Machine/Sorus.lean ====
section
/-! DEFINITION. The Sorus sampler: esort and esamp (R309-R314), SORUS_REQUEST_START and SORUS_REQUEST_END. -/
namespace Sys2Proof.Machine

/-! ### Limits -/

/-- A temperature that R296 refuses: negative, infinite or NaN. -/
def badTemp (t : Nat) : Bool := bits t 23 8 == 0xFF || (bit t 31 && bits t 0 31 != 0)

/-- MODE of an esort (R294). -/
def sortMerge (d : Desc) : Bool := bit d.w14 11

/-- esort's limits (R296). -/
def sortOk (d : Desc) : Bool :=
  let k := bits d.w14 0 11
  let m := bits d.w18.toNat 32 32
  ctlClean d.ctl && 1 ≤ d.len && d.len ≤ 2 ^ 20 && 1 ≤ k && k ≤ 1024 && bits d.w14 12 2 != 3 &&
    decide (bits d.w18.toNat 0 32 + d.len ≤ 2 ^ 32) && (!sortMerge d || (2 ≤ m && m ≤ 16)) &&
    !badTemp (bits d.w20.toNat 0 32)

/-- esamp's limits (R296): PTOP lies in (0, 1]. -/
def sampOk (d : Desc) : Bool :=
  let ptop := bits d.w30.toNat 32 32
  ctlClean d.ctl && 1 ≤ d.len && d.len ≤ 1024 && !badTemp d.w14 && 0 < ptop && ptop ≤ 0x3F800000

/-! ### esort -/

/-- A candidate: value as f32, index, list number and position (R310). -/
structure Cand where
  value : Nat
  index : Nat
  list : Nat
  pos : Nat
deriving DecidableEq, Repr, Inhabited

/-- A value as it is read: NaN as −∞, +∞ as the largest finite value (R310, R312). -/
def candValue (x : Nat) : Nat :=
  if decodeF fmtF32 x = .nan then 0xFF800000 else if x = 0x7F800000 then 0x7F7FFFFF else x

/-- Order of values: −0 = +0, and −∞ lowest. -/
def candKey (x : Nat) : Int := if bit x 31 then -(bits x 0 31 : Int) else x

/-- The order of R310. -/
def candLe (a b : Cand) : Bool :=
  if candKey a.value ≠ candKey b.value then candKey b.value < candKey a.value
  else if a.index ≠ b.index then a.index < b.index
  else if a.list ≠ b.list then a.list < b.list
  else a.pos ≤ b.pos

/-- The exact quotient of a value by a finite nonzero one, with a sticky last bit. -/
def quotNum (a b : Num) : Num :=
  match a, b with
  | .fin n m e, .fin _ k f =>
    let up := 64 + bitLen k
    let q := m * 2 ^ up / k
    .fin n (2 * q + (if m * 2 ^ up % k = 0 then 0 else 1)) (e - f - up - 1)
  | a, _ => a

/-- The scaled value of mode 0 (R310). -/
def scaledValue (f : Fmt) (t x : Nat) : Nat :=
  let v := decodeF f x
  let y := if bits t 0 31 = 0 then rne32 v else rne32 (quotNum v (f32 t))
  candValue y

/-- Format of an esort's logits (R310). -/
def sortFmt (d : Desc) : Fmt := redFmt (bits d.w14 12 2)

/-- The first K candidates in order, as bytes, and their number (R310). -/
def bestOf (d : Desc) (cs : List Cand) : List Byte × Nat :=
  let best := (sortBy candLe cs).take (bits d.w14 0 11)
  (best.flatMap fun c => leBytes 4 c.value ++ leBytes 4 c.index, best.length)

/-- The entries of a list in memory. -/
def candsOf (l : Nat) (bs : List Byte) (n : Nat) : List Cand :=
  (elements 8 bs n).zipIdx.map fun (e, q) => ⟨candValue (bits e 0 32), bits e 32 32, l, q⟩

/-- Read the lists of a merge table (R310). -/
def readLists (t : TileNo) (c : Nat) : List (Nat × Nat) → Nat → State → Eng (List Cand)
  | [], _, s => .ok [] s
  | (a, n) :: r, l, s =>
    if a % 8 ≠ 0 then .fail 3 (w64 a) s
    else
      (engRead t (ctlSrcl c) (w64 a) (8 * n) s).bind fun bs s =>
      (readLists t c r (l + 1) s).bind fun rest s => .ok (candsOf l bs n ++ rest) s

/-- What an esort writes, and its gd (R310, R296). The lists that must be aligned to 8 bytes are the source lists of a merge.
DESIGN CHOICE, log 104. -/
def sortResult (t : TileNo) (d : Desc) (s : State) : Eng (List Byte × Nat) :=
  let desc := jobDesc (s.tile t)
  let c := d.ctl
  if sortMerge d then
    let m := bits d.w18.toNat 32 32
    (engRead t (ctlSrcl c) d.src (16 * m) s).bind fun tb s =>
      let table := (List.range m).map fun i => (fld tb (16 * i) 8, fld tb (16 * i + 8) 4, fld tb (16 * i + 12) 4)
      if table.any fun e => decide (1024 < e.2.1) || e.2.2 != 0 then .fail 2 desc s
      else (readLists t c (table.map fun e => (e.1, e.2.1)) 0 s).bind fun cs s => .ok (bestOf d cs) s
  else
    let f := sortFmt d
    let n := f.width / 8
    if d.src.toNat % n ≠ 0 then .fail 3 d.src s
    else
      (engRead t (ctlSrcl c) d.src (n * d.len) s).bind fun bs s =>
        .ok (bestOf d ((elements n bs d.len).zipIdx.map fun (x, j) =>
          ⟨scaledValue f (bits d.w20.toNat 0 32) x, bits d.w18.toNat 0 32 + j, 0, j⟩)) s

/-! ### esamp -/

/-- One round of philox (R313) on (c0, c1, c2, c3) under the key (k0, k1). -/
def philoxRound (k0 k1 : Nat) (c : Nat × Nat × Nat × Nat) : Nat × Nat × Nat × Nat :=
  let p := 0xD2511F53 * c.1
  let q := 0xCD9E8D57 * c.2.2.1
  ((q / 2 ^ 32) ^^^ c.2.1 ^^^ k0, q % 2 ^ 32, (p / 2 ^ 32) ^^^ c.2.2.2 ^^^ k1, p % 2 ^ 32)

/-- Rounds of philox, the key stepped after each (R313). -/
def philoxRounds : Nat → Nat → Nat → Nat × Nat × Nat × Nat → Nat × Nat × Nat × Nat
  | 0, _, _, c => c
  | n + 1, k0, k1, c =>
    philoxRounds n ((k0 + 0x9E3779B9) % 2 ^ 32) ((k1 + 0xBB67AE85) % 2 ^ 32) (philoxRound k0 k1 c)

/-- Philox-4x32-10 (R313). -/
def philox (seed seq pos draw : Nat) : Nat :=
  (philoxRounds 10 (bits seed 0 32) (bits seed 32 32) (seq, pos, draw, 0x534E5253)).1

/-- The exponentials of an esamp (R312): exp2(rne(rne(v − m) × L)). -/
def sampExp (m v : Nat) : Nat :=
  let u := rne32 (addNum .rne (f32 v) (negNum (f32 m))).1
  (exp2Lane (rne32 (mulNum (f32 u) (f32 0x3FB8AA3B)).1)).1

/-- Sequential sums (R312). -/
def sampSums : Nat → List Nat → List Nat
  | _, [] => []
  | acc, e :: r =>
    let c := addF32 .rne acc e
    c :: sampSums c r

/-- C[0] is e[0] itself; the later ones are sums (R312). -/
def sampCum : List Nat → List Nat
  | [] => []
  | e :: r => e :: sampSums e r

/-- The draw of an esamp over its entries: s, total and w (R312). Sums, thresholds and t are never negative or NaN, so
their codes order as their values do. -/
def sampDraw (d : Desc) (vs : List Nat) : Nat × Nat × Nat :=
  let m := vs.tail.foldl (fpick true fmtF32) (vs.headD 0)
  if bits d.w14 0 31 = 0 || m = 0xFF800000 then (0, 0, 0)
  else
    let cum := sampCum (vs.map (sampExp m))
    let thr := rne32 (mulNum (f32 (bits d.w30.toNat 32 32)) (f32 (cum.getLastD 0))).1
    let n := 1 + ((cum.findIdx? fun c => decide (thr ≤ c)).getD 0)
    let total := cum.getD (n - 1) 0
    let w := philox d.w18.toNat (bits d.w20.toNat 0 32) (bits d.w20.toNat 32 32) (bits d.w30.toNat 0 32)
    let t := rne32 (mulNum (.fin false (w / 2 ^ 8) (-24)) (f32 total)).1
    (((cum.take n).findIdx? fun c => decide (t < c)).getD (n - 1), total, w)

/-- What an esamp writes, and its gd (R312). -/
def sampResult (t : TileNo) (d : Desc) (s : State) : Eng (List Byte × Nat) :=
  if d.dst.toNat % 16 ≠ 0 then .fail 3 d.dst s
  else
    (engRead t (ctlSrcl d.ctl) d.src (8 * d.len) s).bind fun bs s =>
      let cs := candsOf 0 bs d.len
      let (i, total, w) := sampDraw d (cs.map (·.value))
      let idx := (cs.getD i default).index
      .ok (leBytes 4 idx ++ leBytes 4 i ++ leBytes 4 total ++ leBytes 4 w, idx) s

/-! ### Requests -/

/-- esort and esamp on the engine (R309): the request lines up at the die's sampler, and its answer is awaited. -/
def sorusBody (rd : Reg) (t : TileNo) (_ : Desc) (s : State) : Eng State :=
  match (s.tile t).eng.shared with
  | .none =>
    .hold ((s.modDie (tileDie t) fun d => { d with sorusQ := d.sorusQ ++ [t.val] }).modEng t
      fun e => { e with shared := .sorusWaiting })
  | .answered 0 _ gd =>
    let s := engDone t rd gd s
    .ok s s
  | .answered err efault _ => .fail err efault s
  | _ => .hold s

/-- ESAMP (R312). -/
def execEsamp (d a : Reg) (s : State) : Out State := engRun (.esamp d a) d a sampOk (sorusBody d) s
/-- ESORT (R310). -/
def execEsort (d a : Reg) (s : State) : Out State := engRun (.esort d a) d a sortOk (sorusBody d) s

/-- SORUS_REQUEST_START (R309): an idle sampler takes the request that came first. -/
def execSorusRequestStart (d : DieNo) (s : State) : Out State :=
  let x := s.die d
  .next <| match x.sorusRun, x.sorusQ with
  | none, t :: rest =>
    (s.setDie d { x with sorusRun := some t, sorusQ := rest }).modEng (tileOf t) fun e =>
      { e with shared := .sorusRunning none }
  | _, _ => s

/-- The descriptor of the request of a tile: that of the running instruction's register (R297). -/
def sorusDesc (t : TileNo) (s : State) : Option (Bool × Desc) :=
  match decodeCore (memRead (microcodeOf s (tileDie t)) (s.tile t).eng.r.pc.toNat 4) with
  | .ok (.esort _ a) => (descOf (s.tile t).eng (plainG (s.tile t).eng.r a)).map fun b => (true, parseDesc b)
  | .ok (.esamp _ a) => (descOf (s.tile t).eng (plainG (s.tile t).eng.r a)).map fun b => (false, parseDesc b)
  | _ => none

/-- Deliver what is left of a request's result (R314). -/
def sorusWrite (t : TileNo) (c : Nat) (dst : W64) (out : List Byte) : Nat → State → Eng State
  | 0, s => .ok s s
  | n + 1, s =>
    if out.length ≤ (s.tile t).eng.next then .ok s s
    else (writePiece t c dst out s).bind fun _ s => sorusWrite t c dst out n s

/-- The served request has ended: the sampler is free and the engine has its answer. -/
def sorusAnswer (d : DieNo) (t : TileNo) (err : Nat) (efault : W64) (gd : Nat) (s : State) : State :=
  (s.modDie d fun x => { x with sorusRun := none }).modEng t fun e => { e with shared := .answered err efault gd }

/-- Serve the running request as far as translation and banks allow (R309, R314), while its engine waits (R293). It ends once
its writes have completed. -/
def sorusServe (d : DieNo) (t : TileNo) (s : State) : State :=
  let s := s.modEng t fun e => { e with used := 0 }
  let settle (x : Eng State) : State := (match x with
    | .ok s _ => s
    | .hold s => s
    | .later s => s
    | .fail err v s => sorusAnswer d t err v 0 s).modEng t fun e => { e with state := .waiting }
  match (s.tile t).eng.shared, sorusDesc t s with
  | .sorusRunning none, some (sort, x) =>
    settle ((if sort then sortResult t x s else sampResult t x s).bind fun r s =>
      let s := s.modEng t fun e => { e with
        shared := .sorusRunning (some r), progress := 0, next := 0, buf := [], used := 0 }
      .ok s s)
  | .sorusRunning (some (out, gd)), some (_, x) =>
    settle ((sorusWrite t x.ctl x.dst out (out.length + 1) s).bind fun _ s =>
      let s := if regsBusy (s.tile t).eng.r then s else sorusAnswer d t 0 0 gd s
      .ok s s)
  | _, _ => s.modDie d fun x => { x with sorusRun := none }

/-- SORUS_REQUEST_END (R309): the request under service is computed, its results written, its answer returned. A condition
that has ended the job ends the request (R286). -/
def execSorusRequestEnd (d : DieNo) (s : State) : Out State :=
  .next <| match (s.die d).sorusRun with
  | none => s
  | some t =>
    let e := (s.tile (tileOf t)).eng
    if e.r.held.isSome then s
    else if let some (err, v) := e.ending then (if regsBusy e.r then s else sorusAnswer d (tileOf t) err v 0 s)
    else
      let s := sorusServe d (tileOf t) s
      match (s.tile (tileOf t)).eng.shared with
      | .sorusRunning (some _) => if (s.tile (tileOf t)).eng.r.held.isSome then s else sorusServe d (tileOf t) s
      | _ => s

end Sys2Proof.Machine
end

