-- ==== Sys2Proof/Machine/Trap.lean ====
section
/-! DEFINITION. trap and eret (R361, R362), words that are illegal (R49, R51), and the delivery of asynchronous traps
(R187, R359, R360, R363). -/
namespace Sys2Proof.Machine

/-- TRAP (R361): EVAL holds its code; it does not complete. -/
def execTrap (code : Fin 4096) (s : State) : Out State := issue (.trap code) {} (raise .trap (w64 code.val)) s

/-- ERET (R362). -/
def execEret (s : State) : Out State := issue .eret {} returnFromTrap s

/-- ILLEGAL_INSTRUCTION (R49-R51): EVAL holds the word. -/
def execIllegalInstruction (w : W32) (s : State) : Out State :=
  if hartFree s then .next (raise .illegal (w.setWidth 64) s) else .next s

/-- A strand stands at an instruction boundary at which an asynchronous cause may be delivered (R359, R360). -/
def deliverable (x : Tile) (z : Strand) : Bool :=
  x.running && z.run == .active && !z.matrixWait && !blocked z.r && z.r.held.isNone && !z.inh && (z.ovrpend || z.swpend)

/-- Deliver the first pending cause of a strand: OVERRUN with EVAL = D, then the switch fault with EVAL = SWFAULT. -/
def deliverAsync (t : TileNo) (k : Fin 8) (s : State) : State :=
  let x := s.tile t
  let z := x.strands[k]
  if !deliverable x z then s
  else if z.ovrpend then
    takeTrap (s.modStrand t k fun z => { z with ovrpend := false, overran := true }) t k .overrun
      (w64 ((x.group.map Group.dur).getD 0)) true z.r.pc
  else
    let cause := bits x.sw.fault.toNat 11 4
    takeTrap (s.modStrand t k fun z => { z with swpend := false }) t k
      (if cause = 4 || cause = 5 then .decodeFault else .switchFault) x.sw.fault true z.r.pc

/-- ASYNC_TRAP_DELIVERY (R360). -/
def execAsyncTrapDelivery (t : TileNo) (k : Fin 8) (s : State) : Out State := .next (deliverAsync t k s)

end Sys2Proof.Machine
end

