-- ==== Sys2Proof/Machine/Dispatch.lean ====
section
/-! DEFINITION. The machine's one dispatch: every instruction and event to its meaning. -/
namespace Sys2Proof.Machine

def exec (i : Instr) (s : State) : Host.Outcome State Fault Refusal :=
  match i with
  | .add x1 x2 x3 => Sys2Proof.Machine.execAdd x1 x2 x3 s
  | .sub x1 x2 x3 => Sys2Proof.Machine.execSub x1 x2 x3 s
  | .and x1 x2 x3 => Sys2Proof.Machine.execAnd x1 x2 x3 s
  | .or x1 x2 x3 => Sys2Proof.Machine.execOr x1 x2 x3 s
  | .xor x1 x2 x3 => Sys2Proof.Machine.execXor x1 x2 x3 s
  | .andn x1 x2 x3 => Sys2Proof.Machine.execAndn x1 x2 x3 s
  | .shl x1 x2 x3 => Sys2Proof.Machine.execShl x1 x2 x3 s
  | .shr x1 x2 x3 => Sys2Proof.Machine.execShr x1 x2 x3 s
  | .sra x1 x2 x3 => Sys2Proof.Machine.execSra x1 x2 x3 s
  | .rot x1 x2 x3 => Sys2Proof.Machine.execRot x1 x2 x3 s
  | .min x1 x2 x3 => Sys2Proof.Machine.execMin x1 x2 x3 s
  | .max x1 x2 x3 => Sys2Proof.Machine.execMax x1 x2 x3 s
  | .minN x1 x2 x3 => Sys2Proof.Machine.execMinN x1 x2 x3 s
  | .maxN x1 x2 x3 => Sys2Proof.Machine.execMaxN x1 x2 x3 s
  | .addw x1 x2 x3 => Sys2Proof.Machine.execAddw x1 x2 x3 s
  | .subw x1 x2 x3 => Sys2Proof.Machine.execSubw x1 x2 x3 s
  | .clz x1 x2 => Sys2Proof.Machine.execClz x1 x2 s
  | .ctz x1 x2 => Sys2Proof.Machine.execCtz x1 x2 s
  | .popc x1 x2 => Sys2Proof.Machine.execPopc x1 x2 s
  | .sextB x1 x2 => Sys2Proof.Machine.execSextB x1 x2 s
  | .sextH x1 x2 => Sys2Proof.Machine.execSextH x1 x2 s
  | .sextW x1 x2 => Sys2Proof.Machine.execSextW x1 x2 s
  | .zextB x1 x2 => Sys2Proof.Machine.execZextB x1 x2 s
  | .zextH x1 x2 => Sys2Proof.Machine.execZextH x1 x2 s
  | .zextW x1 x2 => Sys2Proof.Machine.execZextW x1 x2 s
  | .bfx x1 x2 x3 => Sys2Proof.Machine.execBfx x1 x2 x3 s
  | .bfi x1 x2 x3 => Sys2Proof.Machine.execBfi x1 x2 x3 s
  | .sel x1 x2 x3 => Sys2Proof.Machine.execSel x1 x2 x3 s
  | .mul x1 x2 x3 => Sys2Proof.Machine.execMul x1 x2 x3 s
  | .mulh x1 x2 x3 => Sys2Proof.Machine.execMulh x1 x2 x3 s
  | .mulhN x1 x2 x3 => Sys2Proof.Machine.execMulhN x1 x2 x3 s
  | .div x1 x2 x3 => Sys2Proof.Machine.execDiv x1 x2 x3 s
  | .divN x1 x2 x3 => Sys2Proof.Machine.execDivN x1 x2 x3 s
  | .rem x1 x2 x3 => Sys2Proof.Machine.execRem x1 x2 x3 s
  | .remN x1 x2 x3 => Sys2Proof.Machine.execRemN x1 x2 x3 s
  | .seq x1 x2 x3 => Sys2Proof.Machine.execSeq x1 x2 x3 s
  | .sne x1 x2 x3 => Sys2Proof.Machine.execSne x1 x2 x3 s
  | .slt x1 x2 x3 => Sys2Proof.Machine.execSlt x1 x2 x3 s
  | .sltN x1 x2 x3 => Sys2Proof.Machine.execSltN x1 x2 x3 s
  | .sle x1 x2 x3 => Sys2Proof.Machine.execSle x1 x2 x3 s
  | .sleN x1 x2 x3 => Sys2Proof.Machine.execSleN x1 x2 x3 s
  | .addi x1 x2 x3 => Sys2Proof.Machine.execAddi x1 x2 x3 s
  | .andi x1 x2 x3 => Sys2Proof.Machine.execAndi x1 x2 x3 s
  | .ori x1 x2 x3 => Sys2Proof.Machine.execOri x1 x2 x3 s
  | .xori x1 x2 x3 => Sys2Proof.Machine.execXori x1 x2 x3 s
  | .shi x1 x2 x3 x4 => Sys2Proof.Machine.execShi x1 x2 x3 x4 s
  | .ldi x1 x2 => Sys2Proof.Machine.execLdi x1 x2 s
  | .ldih x1 x2 x3 => Sys2Proof.Machine.execLdih x1 x2 x3 s
  | .slti x1 x2 x3 => Sys2Proof.Machine.execSlti x1 x2 x3 s
  | .sltiN x1 x2 x3 => Sys2Proof.Machine.execSltiN x1 x2 x3 s
  | .j x1 => Sys2Proof.Machine.execJ x1 s
  | .jal x1 => Sys2Proof.Machine.execJal x1 s
  | .b x1 x2 x3 x4 => Sys2Proof.Machine.execB x1 x2 x3 x4 s
  | .jalr x1 x2 x3 => Sys2Proof.Machine.execJalr x1 x2 x3 s
  | .loop x1 x2 x3 => Sys2Proof.Machine.execLoop x1 x2 x3 s
  | .loopi x1 x2 x3 => Sys2Proof.Machine.execLoopi x1 x2 x3 s
  | .ldl x1 x2 x3 x4 x5 => Sys2Proof.Machine.execLdl x1 x2 x3 x4 x5 s
  | .stl x1 x2 x3 x4 => Sys2Proof.Machine.execStl x1 x2 x3 x4 s
  | .ld x1 x2 x3 x4 x5 x6 => Sys2Proof.Machine.execLd x1 x2 x3 x4 x5 x6 s
  | .st x1 x2 x3 x4 x5 x6 => Sys2Proof.Machine.execSt x1 x2 x3 x4 x5 x6 s
  | .ldh x1 x2 x3 x4 x5 x6 x7 => Sys2Proof.Machine.execLdh x1 x2 x3 x4 x5 x6 x7 s
  | .sth x1 x2 x3 x4 x5 x6 x7 => Sys2Proof.Machine.execSth x1 x2 x3 x4 x5 x6 x7 s
  | .amo x1 x2 x3 x4 x5 x6 x7 => Sys2Proof.Machine.execAmo x1 x2 x3 x4 x5 x6 x7 s
  | .xlat x1 x2 x3 => Sys2Proof.Machine.execXlat x1 x2 x3 s
  | .xrel x1 => Sys2Proof.Machine.execXrel x1 s
  | .vaddFp x1 x2 x3 x4 x5 => Sys2Proof.Machine.execVaddFp x1 x2 x3 x4 x5 s
  | .vsubFp x1 x2 x3 x4 x5 => Sys2Proof.Machine.execVsubFp x1 x2 x3 x4 x5 s
  | .vmulFp x1 x2 x3 x4 x5 => Sys2Proof.Machine.execVmulFp x1 x2 x3 x4 x5 s
  | .vminFp x1 x2 x3 x4 x5 => Sys2Proof.Machine.execVminFp x1 x2 x3 x4 x5 s
  | .vmaxFp x1 x2 x3 x4 x5 => Sys2Proof.Machine.execVmaxFp x1 x2 x3 x4 x5 s
  | .vabsFp x1 x2 x3 x4 => Sys2Proof.Machine.execVabsFp x1 x2 x3 x4 s
  | .vneg x1 x2 x3 x4 => Sys2Proof.Machine.execVneg x1 x2 x3 x4 s
  | .vcpysgn x1 x2 x3 x4 x5 => Sys2Proof.Machine.execVcpysgn x1 x2 x3 x4 x5 s
  | .vfma x1 x2 x3 x4 x5 => Sys2Proof.Machine.execVfma x1 x2 x3 x4 x5 s
  | .vfms x1 x2 x3 x4 x5 => Sys2Proof.Machine.execVfms x1 x2 x3 x4 x5 s
  | .vfnma x1 x2 x3 x4 x5 => Sys2Proof.Machine.execVfnma x1 x2 x3 x4 x5 s
  | .vfnms x1 x2 x3 x4 x5 => Sys2Proof.Machine.execVfnms x1 x2 x3 x4 x5 s
  | .vaddInt x1 x2 x3 x4 x5 => Sys2Proof.Machine.execVaddInt x1 x2 x3 x4 x5 s
  | .vsubInt x1 x2 x3 x4 x5 => Sys2Proof.Machine.execVsubInt x1 x2 x3 x4 x5 s
  | .vmulInt x1 x2 x3 x4 x5 => Sys2Proof.Machine.execVmulInt x1 x2 x3 x4 x5 s
  | .vmulh x1 x2 x3 x4 x5 => Sys2Proof.Machine.execVmulh x1 x2 x3 x4 x5 s
  | .vminInt x1 x2 x3 x4 x5 => Sys2Proof.Machine.execVminInt x1 x2 x3 x4 x5 s
  | .vmaxInt x1 x2 x3 x4 x5 => Sys2Proof.Machine.execVmaxInt x1 x2 x3 x4 x5 s
  | .vand x1 x2 x3 x4 x5 => Sys2Proof.Machine.execVand x1 x2 x3 x4 x5 s
  | .vor x1 x2 x3 x4 x5 => Sys2Proof.Machine.execVor x1 x2 x3 x4 x5 s
  | .vxor x1 x2 x3 x4 x5 => Sys2Proof.Machine.execVxor x1 x2 x3 x4 x5 s
  | .vshl x1 x2 x3 x4 x5 => Sys2Proof.Machine.execVshl x1 x2 x3 x4 x5 s
  | .vshr x1 x2 x3 x4 x5 => Sys2Proof.Machine.execVshr x1 x2 x3 x4 x5 s
  | .vsra x1 x2 x3 x4 x5 => Sys2Proof.Machine.execVsra x1 x2 x3 x4 x5 s
  | .vabsInt x1 x2 x3 x4 => Sys2Proof.Machine.execVabsInt x1 x2 x3 x4 s
  | .veq x1 x2 x3 x4 x5 => Sys2Proof.Machine.execVeq x1 x2 x3 x4 x5 s
  | .vne x1 x2 x3 x4 x5 => Sys2Proof.Machine.execVne x1 x2 x3 x4 x5 s
  | .vlt x1 x2 x3 x4 x5 => Sys2Proof.Machine.execVlt x1 x2 x3 x4 x5 s
  | .vle x1 x2 x3 x4 x5 => Sys2Proof.Machine.execVle x1 x2 x3 x4 x5 s
  | .vunord x1 x2 x3 x4 x5 => Sys2Proof.Machine.execVunord x1 x2 x3 x4 x5 s
  | .vsel x1 x2 x3 x4 x5 => Sys2Proof.Machine.execVsel x1 x2 x3 x4 x5 s
  | .vswp x1 x2 x3 x4 => Sys2Proof.Machine.execVswp x1 x2 x3 x4 s
  | .vperm x1 x2 x3 x4 x5 => Sys2Proof.Machine.execVperm x1 x2 x3 x4 x5 s
  | .vslup x1 x2 x3 x4 x5 => Sys2Proof.Machine.execVslup x1 x2 x3 x4 x5 s
  | .vsldn x1 x2 x3 x4 x5 => Sys2Proof.Machine.execVsldn x1 x2 x3 x4 x5 s
  | .vzipl x1 x2 x3 x4 x5 => Sys2Proof.Machine.execVzipl x1 x2 x3 x4 x5 s
  | .vziph x1 x2 x3 x4 x5 => Sys2Proof.Machine.execVziph x1 x2 x3 x4 x5 s
  | .vuzpe x1 x2 x3 x4 x5 => Sys2Proof.Machine.execVuzpe x1 x2 x3 x4 x5 s
  | .vuzpo x1 x2 x3 x4 x5 => Sys2Proof.Machine.execVuzpo x1 x2 x3 x4 x5 s
  | .vbcast x1 x2 x3 x4 x5 => Sys2Proof.Machine.execVbcast x1 x2 x3 x4 x5 s
  | .vrsum x1 x2 x3 x4 => Sys2Proof.Machine.execVrsum x1 x2 x3 x4 s
  | .vrmax x1 x2 x3 x4 => Sys2Proof.Machine.execVrmax x1 x2 x3 x4 s
  | .vrmin x1 x2 x3 x4 => Sys2Proof.Machine.execVrmin x1 x2 x3 x4 s
  | .vrsumi x1 x2 x3 x4 => Sys2Proof.Machine.execVrsumi x1 x2 x3 x4 s
  | .vcvt x1 x2 x3 x4 x5 => Sys2Proof.Machine.execVcvt x1 x2 x3 x4 x5 s
  | .vcvtSat x1 x2 x3 x4 x5 => Sys2Proof.Machine.execVcvtSat x1 x2 x3 x4 x5 s
  | .vcvtRtz x1 x2 x3 x4 x5 => Sys2Proof.Machine.execVcvtRtz x1 x2 x3 x4 x5 s
  | .vrsq x1 x2 x3 => Sys2Proof.Machine.execVrsq x1 x2 x3 s
  | .vrcp x1 x2 x3 => Sys2Proof.Machine.execVrcp x1 x2 x3 s
  | .vredh x1 x2 x3 => Sys2Proof.Machine.execVredh x1 x2 x3 s
  | .vquad x1 x2 x3 => Sys2Proof.Machine.execVquad x1 x2 x3 s
  | .vsin x1 x2 x3 => Sys2Proof.Machine.execVsin x1 x2 x3 s
  | .vcos x1 x2 x3 => Sys2Proof.Machine.execVcos x1 x2 x3 s
  | .vexp2 x1 x2 x3 => Sys2Proof.Machine.execVexp2 x1 x2 x3 s
  | .vlog2 x1 x2 x3 => Sys2Proof.Machine.execVlog2 x1 x2 x3 s
  | .vsqrt x1 x2 x3 => Sys2Proof.Machine.execVsqrt x1 x2 x3 s
  | .vldL x1 x2 x3 => Sys2Proof.Machine.execVldL x1 x2 x3 s
  | .vldG x1 x2 x3 x4 x5 => Sys2Proof.Machine.execVldG x1 x2 x3 x4 x5 s
  | .vstL x1 x2 x3 => Sys2Proof.Machine.execVstL x1 x2 x3 s
  | .vstG x1 x2 x3 x4 x5 => Sys2Proof.Machine.execVstG x1 x2 x3 x4 x5 s
  | .vgathW x1 x2 x3 x4 => Sys2Proof.Machine.execVgathW x1 x2 x3 x4 s
  | .vscatW x1 x2 x3 x4 => Sys2Proof.Machine.execVscatW x1 x2 x3 x4 s
  | .vgathH x1 x2 x3 x4 => Sys2Proof.Machine.execVgathH x1 x2 x3 x4 s
  | .vscatH x1 x2 x3 x4 => Sys2Proof.Machine.execVscatH x1 x2 x3 x4 s
  | .vgathB x1 x2 x3 x4 => Sys2Proof.Machine.execVgathB x1 x2 x3 x4 s
  | .vscatB x1 x2 x3 x4 => Sys2Proof.Machine.execVscatB x1 x2 x3 x4 s
  | .mand x1 x2 x3 => Sys2Proof.Machine.execMand x1 x2 x3 s
  | .mor x1 x2 x3 => Sys2Proof.Machine.execMor x1 x2 x3 s
  | .mxor x1 x2 x3 => Sys2Proof.Machine.execMxor x1 x2 x3 s
  | .mnot x1 x2 => Sys2Proof.Machine.execMnot x1 x2 s
  | .mpopc x1 x2 => Sys2Proof.Machine.execMpopc x1 x2 s
  | .mfirst x1 x2 => Sys2Proof.Machine.execMfirst x1 x2 s
  | .mset x1 x2 => Sys2Proof.Machine.execMset x1 x2 s
  | .mget x1 x2 => Sys2Proof.Machine.execMget x1 x2 s
  | .vldi x1 x2 x3 x4 => Sys2Proof.Machine.execVldi x1 x2 x3 x4 s
  | .vmovg x1 x2 x3 x4 => Sys2Proof.Machine.execVmovg x1 x2 x3 x4 s
  | .vext x1 x2 x3 x4 => Sys2Proof.Machine.execVext x1 x2 x3 x4 s
  | .vins x1 x2 x3 x4 => Sys2Proof.Machine.execVins x1 x2 x3 x4 s
  | .mma x1 x2 x3 x4 x5 x6 x7 x8 => Sys2Proof.Machine.execMma x1 x2 x3 x4 x5 x6 x7 x8 s
  | .mms x1 x2 x3 x4 x5 x6 x7 x8 => Sys2Proof.Machine.execMms x1 x2 x3 x4 x5 x6 x7 x8 s
  | .mlb x1 x2 => Sys2Proof.Machine.execMlb x1 x2 s
  | .mlarm x1 x2 => Sys2Proof.Machine.execMlarm x1 x2 s
  | .mlfree x1 => Sys2Proof.Machine.execMlfree x1 s
  | .mrow x1 x2 x3 x4 => Sys2Proof.Machine.execMrow x1 x2 x3 x4 s
  | .mwrow x1 x2 x3 x4 => Sys2Proof.Machine.execMwrow x1 x2 x3 x4 s
  | .mst x1 x2 x3 => Sys2Proof.Machine.execMst x1 x2 x3 s
  | .mzero x1 => Sys2Proof.Machine.execMzero x1 s
  | .mwait => Sys2Proof.Machine.execMwait s
  | .mhdr x1 x2 => Sys2Proof.Machine.execMhdr x1 x2 s
  | .mtag x1 x2 => Sys2Proof.Machine.execMtag x1 x2 s
  | .sbind x1 x2 => Sys2Proof.Machine.execSbind x1 x2 s
  | .sfree x1 x2 => Sys2Proof.Machine.execSfree x1 x2 s
  | .speek x1 x2 => Sys2Proof.Machine.execSpeek x1 x2 s
  | .scnt x1 x2 => Sys2Proof.Machine.execScnt x1 x2 s
  | .sinj x1 x2 => Sys2Proof.Machine.execSinj x1 x2 s
  | .side x1 x2 => Sys2Proof.Machine.execSide x1 x2 s
  | .sclr x1 => Sys2Proof.Machine.execSclr x1 s
  | .sresume => Sys2Proof.Machine.execSresume s
  | .sresumeSkip => Sys2Proof.Machine.execSresumeSkip s
  | .sstat x1 => Sys2Proof.Machine.execSstat x1 s
  | .sbinit x1 x2 => Sys2Proof.Machine.execSbinit x1 x2 s
  | .sbexp x1 x2 => Sys2Proof.Machine.execSbexp x1 x2 s
  | .sbarr x1 => Sys2Proof.Machine.execSbarr x1 s
  | .sbwait x1 x2 => Sys2Proof.Machine.execSbwait x1 x2 s
  | .ekick x1 => Sys2Proof.Machine.execEkick x1 s
  | .embox x1 => Sys2Proof.Machine.execEmbox x1 s
  | .ewait => Sys2Proof.Machine.execEwait s
  | .csrr x1 x2 => Sys2Proof.Machine.execCsrr x1 x2 s
  | .csrw x1 x2 x3 => Sys2Proof.Machine.execCsrw x1 x2 x3 s
  | .csrs x1 x2 x3 => Sys2Proof.Machine.execCsrs x1 x2 x3 s
  | .csrc x1 x2 x3 => Sys2Proof.Machine.execCsrc x1 x2 x3 s
  | .trap x1 => Sys2Proof.Machine.execTrap x1 s
  | .eret => Sys2Proof.Machine.execEret s
  | .emove x1 x2 => Sys2Proof.Machine.execEmove x1 x2 s
  | .estrd x1 x2 => Sys2Proof.Machine.execEstrd x1 x2 s
  | .egath x1 x2 => Sys2Proof.Machine.execEgath x1 x2 s
  | .escat x1 x2 => Sys2Proof.Machine.execEscat x1 x2 s
  | .estream x1 x2 => Sys2Proof.Machine.execEstream x1 x2 s
  | .edrain x1 x2 => Sys2Proof.Machine.execEdrain x1 x2 s
  | .ered x1 x2 => Sys2Proof.Machine.execEred x1 x2 s
  | .esamp x1 x2 => Sys2Proof.Machine.execEsamp x1 x2 s
  | .esort x1 x2 => Sys2Proof.Machine.execEsort x1 x2 s
  | .sroute x1 x2 x3 => Sys2Proof.Machine.execSroute x1 x2 x3 s
  | .srtw x1 => Sys2Proof.Machine.execSrtw x1 s
  | .sjump x1 => Sys2Proof.Machine.execSjump x1 s
  | .sloop x1 x2 => Sys2Proof.Machine.execSloop x1 x2 s
  | .sbnz x1 x2 => Sys2Proof.Machine.execSbnz x1 x2 s
  | .sxor x1 x2 x3 x4 x5 => Sys2Proof.Machine.execSxor x1 x2 x3 x4 x5 s
  | .sdec x1 x2 x3 x4 => Sys2Proof.Machine.execSdec x1 x2 x3 x4 s
  | .ssig x1 => Sys2Proof.Machine.execSsig x1 s
  | .sskip x1 x2 x3 => Sys2Proof.Machine.execSskip x1 x2 x3 s
  | .shalt => Sys2Proof.Machine.execShalt s
  | .snop x1 => Sys2Proof.Machine.execSnop x1 s
  | .matrixInstructionBegin x1 => Sys2Proof.Machine.execMatrixInstructionBegin x1 s
  | .matrixInstructionEnd x1 => Sys2Proof.Machine.execMatrixInstructionEnd x1 s
  | .asyncTrapDelivery x1 x2 => Sys2Proof.Machine.execAsyncTrapDelivery x1 x2 s
  | .yieldExpiry x1 x2 => Sys2Proof.Machine.execYieldExpiry x1 x2 s
  | .dividerFree x1 => Sys2Proof.Machine.execDividerFree x1 s
  | .overrun x1 x2 => Sys2Proof.Machine.execOverrun x1 x2 s
  | .overrunDeadline x1 x2 => Sys2Proof.Machine.execOverrunDeadline x1 x2 s
  | .accessComplete x1 x2 => Sys2Proof.Machine.execAccessComplete x1 x2 s
  | .translationWalk x1 => Sys2Proof.Machine.execTranslationWalk x1 s
  | .faultRecordWrite x1 => Sys2Proof.Machine.execFaultRecordWrite x1 s
  | .watchPendingPush x1 x2 => Sys2Proof.Machine.execWatchPendingPush x1 x2 s
  | .engineJobStart x1 => Sys2Proof.Machine.execEngineJobStart x1 s
  | .engineJobEnd x1 => Sys2Proof.Machine.execEngineJobEnd x1 s
  | .collectiveComplete x1 x2 => Sys2Proof.Machine.execCollectiveComplete x1 x2 s
  | .sorusRequestStart x1 => Sys2Proof.Machine.execSorusRequestStart x1 s
  | .sorusRequestEnd x1 => Sys2Proof.Machine.execSorusRequestEnd x1 s
  | .slotLoadEnd x1 => Sys2Proof.Machine.execSlotLoadEnd x1 s
  | .groupPlace x1 x2 => Sys2Proof.Machine.execGroupPlace x1 x2 s
  | .groupStart x1 x2 => Sys2Proof.Machine.execGroupStart x1 x2 s
  | .groupFinish x1 x2 => Sys2Proof.Machine.execGroupFinish x1 x2 s
  | .quantumExpiry x1 x2 => Sys2Proof.Machine.execQuantumExpiry x1 x2 s
  | .freeze x1 x2 => Sys2Proof.Machine.execFreeze x1 x2 s
  | .restore x1 x2 => Sys2Proof.Machine.execRestore x1 x2 s
  | .seamCreditReturn x1 x2 x3 => Sys2Proof.Machine.execSeamCreditReturn x1 x2 x3 s
  | .ringPost x1 x2 x3 => Sys2Proof.Machine.execRingPost x1 x2 x3 s
  | .retransmitTimeout x1 x2 => Sys2Proof.Machine.execRetransmitTimeout x1 x2 s
  | .clusterCommandEnd x1 x2 => Sys2Proof.Machine.execClusterCommandEnd x1 x2 s
  | .railTimeout x1 x2 => Sys2Proof.Machine.execRailTimeout x1 x2 s
  | .illegalInstruction x1 => Sys2Proof.Machine.execIllegalInstruction x1 s
  | .illegalSwitchWord x1 => Sys2Proof.Machine.execIllegalSwitchWord x1 s
  | .hostRead x1 x2 x3 => Sys2Proof.Machine.execHostRead x1 x2 x3 s
  | .hostWrite x1 x2 x3 => Sys2Proof.Machine.execHostWrite x1 x2 x3 s
  | .attestationRequest x1 x2 => Sys2Proof.Machine.execAttestationRequest x1 x2 s
  | .queueInboxWrite x1 x2 x3 x4 x5 => Sys2Proof.Machine.execQueueInboxWrite x1 x2 x3 x4 x5 s
  | .kick x1 x2 => Sys2Proof.Machine.execKick x1 x2 s
  | .accumulatorWindowAccess x1 x2 x3 x4 => Sys2Proof.Machine.execAccumulatorWindowAccess x1 x2 x3 x4 s
  | .barrierWindowArrive x1 x2 => Sys2Proof.Machine.execBarrierWindowArrive x1 x2 s
  | .barrierWindowDeliver x1 x2 x3 => Sys2Proof.Machine.execBarrierWindowDeliver x1 x2 x3 s
  | .clusterRestore x1 x2 x3 => Sys2Proof.Machine.execClusterRestore x1 x2 x3 s
  | .ungate x1 x2 x3 => Sys2Proof.Machine.execUngate x1 x2 x3 s
  | .fqreply x1 x2 => Sys2Proof.Machine.execFqreply x1 x2 s
  | .fqheadWrite x1 x2 => Sys2Proof.Machine.execFqheadWrite x1 x2 s
  | .watchEnableWrite x1 x2 x3 => Sys2Proof.Machine.execWatchEnableWrite x1 x2 x3 s
  | .launchRecordRead => Sys2Proof.Machine.execLaunchRecordRead s
  | .doorbell x1 x2 => Sys2Proof.Machine.execDoorbell x1 x2 s
  | .qcfgWrite x1 x2 => Sys2Proof.Machine.execQcfgWrite x1 x2 s
  | .dctlWrite x1 => Sys2Proof.Machine.execDctlWrite x1 s
  | .cancel x1 => Sys2Proof.Machine.execCancel x1 s
  | .timelineCounterWrite x1 x2 => Sys2Proof.Machine.execTimelineCounterWrite x1 x2 s
  | .timelineCounterIncrement x1 x2 => Sys2Proof.Machine.execTimelineCounterIncrement x1 x2 s
  | .launchActivate => Sys2Proof.Machine.execLaunchActivate s
  | .slotLoad x1 => Sys2Proof.Machine.execSlotLoad x1 s
  | .slotUnload x1 => Sys2Proof.Machine.execSlotUnload x1 s
  | .seamSelectorWrite x1 x2 x3 x4 => Sys2Proof.Machine.execSeamSelectorWrite x1 x2 x3 x4 s
  | .seamCrcResend x1 x2 x3 => Sys2Proof.Machine.execSeamCrcResend x1 x2 x3 s
  | .seamLaneFail x1 x2 x3 => Sys2Proof.Machine.execSeamLaneFail x1 x2 x3 s
  | .dynamicLinkFail => Sys2Proof.Machine.execDynamicLinkFail s
  | .uncorrectableError x1 => Sys2Proof.Machine.execUncorrectableError x1 s
  | .irqenWrite x1 => Sys2Proof.Machine.execIrqenWrite x1 s
  | .irqcauseClear x1 => Sys2Proof.Machine.execIrqcauseClear x1 s
  | .dataFrameReceive x1 x2 x3 => Sys2Proof.Machine.execDataFrameReceive x1 x2 x3 s
  | .ackFrameReceive x1 x2 x3 x4 => Sys2Proof.Machine.execAckFrameReceive x1 x2 x3 x4 s
  | .peerReset x1 x2 x3 => Sys2Proof.Machine.execPeerReset x1 x2 x3 s
  | .fcsError x1 => Sys2Proof.Machine.execFcsError x1 s
  | .pbudgetWrite x1 => Sys2Proof.Machine.execPbudgetWrite x1 s
  | .allowanceRecompute => Sys2Proof.Machine.execAllowanceRecompute s
  | .coolantLimit x1 x2 => Sys2Proof.Machine.execCoolantLimit x1 x2 s
  | .thermalTrip x1 => Sys2Proof.Machine.execThermalTrip x1 s
  | .quiesce x1 x2 x3 => Sys2Proof.Machine.execQuiesce x1 x2 x3 s
  | .save x1 x2 x3 => Sys2Proof.Machine.execSave x1 x2 x3 s
  | .gate x1 x2 x3 => Sys2Proof.Machine.execGate x1 x2 x3 s
  | .autowakeSet x1 x2 x3 => Sys2Proof.Machine.execAutowakeSet x1 x2 x3 s
  | .clctlInvalidCommand x1 x2 => Sys2Proof.Machine.execClctlInvalidCommand x1 x2 s
  | .clsaveWrite x1 x2 x3 => Sys2Proof.Machine.execClsaveWrite x1 x2 x3 s
  | .clwake x1 x2 x3 => Sys2Proof.Machine.execClwake x1 x2 x3 s
  | .powerOnBoot => Sys2Proof.Machine.execPowerOnBoot s
  | .recoveryImageLoad x1 => Sys2Proof.Machine.execRecoveryImageLoad x1 s
  | .mrExtend x1 x2 => Sys2Proof.Machine.execMrExtend x1 x2 s
  | .keyRegenerate x1 => Sys2Proof.Machine.execKeyRegenerate x1 s
  | .panelReset => Sys2Proof.Machine.execPanelReset s
  | .smbusStatusRead => Sys2Proof.Machine.execSmbusStatusRead s
  | .jtagInstruction x1 => Sys2Proof.Machine.execJtagInstruction x1 s
  | .debugHalt x1 => Sys2Proof.Machine.execDebugHalt x1 s
  | .debugResume x1 => Sys2Proof.Machine.execDebugResume x1 s
  | .debugEnableWrite x1 x2 => Sys2Proof.Machine.execDebugEnableWrite x1 x2 s
  | .dbgresume x1 x2 => Sys2Proof.Machine.execDbgresume x1 x2 s
  | .errorCounterClear x1 => Sys2Proof.Machine.execErrorCounterClear x1 s
  | .registerWrite x1 x2 => Sys2Proof.Machine.execRegisterWrite x1 x2 s
  | .revocation x1 x2 x3 x4 => Sys2Proof.Machine.execRevocation x1 x2 x3 x4 s
  | .ethernetLinkChange x1 x2 => Sys2Proof.Machine.execEthernetLinkChange x1 x2 s
  | .ucieModuleLinkChange x1 x2 => Sys2Proof.Machine.execUcieModuleLinkChange x1 x2 s
  | .nop => Sys2Proof.Machine.execNop s
  | .retire => Sys2Proof.Machine.execRetire s
  | .yield => Sys2Proof.Machine.execYield s
  | .brk => Sys2Proof.Machine.execBrk s
  | .fenceT => Sys2Proof.Machine.execFenceT s
  | .fenceD => Sys2Proof.Machine.execFenceD s
  | .fenceM => Sys2Proof.Machine.execFenceM s
  | .fenceP => Sys2Proof.Machine.execFenceP s
  | .fenceS => Sys2Proof.Machine.execFenceS s

end Sys2Proof.Machine
end

