-- ==== Sys2Proof/Machine/Cycle.lean ====
section
/-! DEFINITION. One tile cycle: the slots in which the parties act, in the order they act, and the turn of the clock. A
party outside the tile clock (network, host side, loader, firmware) acts after a free delay. -/
namespace Sys2Proof.Machine

/-- Take events before anything else, in order. -/
def State.pushAll (s : State) (l : List Instr) : State := { s with inputs := l ++ s.inputs }

/-- Do something after a free delay: now, or look again in the next cycle (R3, R389). -/
def perhaps (s : State) (f : Nat → State → Out State) : Out State :=
  let (n, s) := s.draw
  if Config.delay n = 0 then f n s else .next s

/-- Map the next state of an outcome. -/
def mapNext (f : State → State) : Out State → Out State
  | .next s => .next (f s)
  | .fault e => .fault e
  | .refused r => .refused r

/-- The end of a tile's cycle (R16, R426): what is kept of the cycle alone is forgotten (R182, R265). -/
def tickTile (x : Tile) : Tile :=
  let y := { x with
    cycle := x.cycle + 1
    windowIssues := if (x.cycle + 1) % 64 = 0 then 0 else x.windowIssues
    wrote := [], accServed := [] }
  { y with bankWait := x.bankWait.filter (stillWaits y) }

/-- The end of a management hart's cycle: CYCLE counts while it runs (R424). -/
def tickDie (x : Die) : Die :=
  if x.mgmt.running then { x with mgmt := { x.mgmt with cycle := x.mgmt.cycle + 1 } } else x

/-! ### Strands -/

/-- The core word a strand fetches (R12, R13). -/
def fetchWord (s : State) (t : TileNo) (k : Fin 8) : Nat := memRead (s.tile t).imem (s.strandAt t k).r.pc.toNat 4

/-- The instruction of a core word: the one it encodes, or the illegal-instruction event (R49). -/
def instrOf (w : Nat) : Instr :=
  match decodeCore w with
  | .ok i => i
  | .error _ => .illegalInstruction (BitVec.ofNat 32 w)

/-- What of a strand changes whenever an instruction issues. -/
def strandMark (z : Strand) : W64 × W64 × RunState × Bool × Nat × Bool × Bool × Bool × Bool :=
  (z.r.pc, z.r.issued, z.run, z.matrixWait, z.r.accesses.length, z.r.held.isSome, z.inh, z.sinj.isSome, z.gather.isSome)

/-- A slot is the arbiter's turn for a strand of tile `t`. -/
def isAttempt (t : TileNo) : SlotKind → Bool
  | .attempt u _ => u == t
  | .lateAttempt u _ => u == t
  | _ => false

/-- Strand `k` has issued: the rotation pointer goes to it, the issue counts toward the window's cap, and the cycle holds
no further turn (R159, R426). -/
def hasIssued (t : TileNo) (k : Fin 8) (s : State) : State :=
  { s.modTile t fun x => { x with rotation := k, windowIssues := x.windowIssues + 1 } with
    todo := s.todo.filter fun c => !isAttempt t c }

/-- After a strand's turn: whether it issued. -/
def afterAttempt (t : TileNo) (k : Fin 8) (old : Strand) (s : State) : State :=
  if strandMark (s.strandAt t k) == strandMark old then s
  else if (s.tile t).running then hasIssued t k s
  else { s with todo := s.todo.filter fun c => !isAttempt t c }

/-- A strand's turn: its next instruction is fetched, decoded and tried (R158, R159). -/
def attempt (t : TileNo) (k : Fin 8) (s : State) : Out State :=
  if !tileRuns s t then .next s
  else mapNext (afterAttempt t k (s.strandAt t k)) (exec (instrOf (fetchWord s t k)) { s with hart := .strand t k })

/-- The strand's next instruction is an sbwait: it sees its barrier at the end of the cycle (R172). -/
def atSbwait (s : State) (t : TileNo) (k : Fin 8) : Bool :=
  match instrOf (fetchWord s t k) with
  | .sbwait _ _ => true
  | _ => false

/-- The turn of a strand at an sbwait: if the barrier would let it pass now, the cycle is its own, to be decided by its late
turn (R159, R172). DESIGN CHOICE, log 87. -/
def tentative (t : TileNo) (k : Fin 8) (s : State) : Out State :=
  match attempt t k s with
  | .next s' =>
    if strandMark (s'.strandAt t k) == strandMark (s.strandAt t k) then .next s
    else .next { s with todo := s.todo.filter fun c => !isAttempt t c || c == .lateAttempt t k }
  | r => r

/-- A strand's turn in the order of the arbiter. -/
def earlyAttempt (t : TileNo) (k : Fin 8) (s : State) : Out State :=
  if s.todo.contains (.lateAttempt t k) then tentative t k s else attempt t k s

/-- The arbiter's order of strands (R159). -/
def rotationFrom (p : Fin 8) : List (Fin 8) := (List.range 8).map fun i => fin8 (p.val + 1 + i)

/-- The issue cap of a capped tile is used up in this window (R426). -/
def capReached (s : State) (t : TileNo) : Bool :=
  let x := s.tile t
  capped x && decide ((s.die (tileDie t)).issueCap ≤ x.windowIssues)

/-- The issue slot of a tile: asynchronous causes are delivered, and the strands that took none have their turns
(R158-R160, R360), those at an sbwait another at the end of the cycle (R172). -/
def issueSlot (t : TileNo) (s : State) : State :=
  if !tileRuns s t then s
  else
    let got := (List.finRange 8).filter fun k => deliverable (s.tile t) (s.tile t).strands[k]
    let s := got.foldl (fun s k => deliverAsync t k s) s
    if !tileRuns s t || capReached s t then s
    else
      let ks := (rotationFrom (s.tile t).rotation).filter fun k => !got.contains k
      let late := (ks.filter (atSbwait s t)).map (SlotKind.lateAttempt t)
      { s with todo := ks.map (.attempt t) ++ s.todo.flatMap fun c => if c == .waitLate t then late else [c] }

/-! ### Switch, engine, management hart -/

/-- The switch word at a tile's SPC (R52). -/
def switchFetch (s : State) (t : TileNo) : Nat := memRead (s.tile t).smem (8 * (s.tile t).sw.spc) 8

/-- The instruction of a switch word, or the illegal-word event (R55). -/
def switchInstrOf (w : Nat) : Instr :=
  match decodeSwitch w with
  | .ok i => i
  | .error _ => .illegalSwitchWord (w64 w)

/-- The switch's word is an ssig, whose arrival comes before those of the window (R172). -/
def atSsig (s : State) (t : TileNo) : Bool :=
  match switchInstrOf (switchFetch s t) with
  | .ssig _ => true
  | _ => false

/-- The switch's cycle (R176). -/
def switchSlot (t : TileNo) (s : State) : Out State :=
  let w := (s.tile t).sw
  if !tileRuns s t || w.run == .stopped || w.run == .halted then .next s
  else exec (switchInstrOf (switchFetch s t)) { s with swTile := t }

/-- A decoding word asks for the bank of its read before the strands do (R185, R265). -/
def decodeSlot (t : TileNo) (s : State) : Out State :=
  let w := (s.tile t).sw
  .next <| if !tileRuns s t || w.run == .stopped || w.run == .halted then s
  else match switchInstrOf (switchFetch s t) with
    | .sdec _ n a r => claimDecode n.val a r t s
    | _ => s

/-- The switch's cycle when its word is an ssig (R172): it has no other turn then. -/
def signalSlot (t : TileNo) (s : State) : Out State :=
  if atSsig s t then switchSlot t { s with todo := s.todo.filter (· != .switch t) } else .next s

/-- STATE of the engine as the hart's held access leaves it (R293). -/
def engineShows (t : TileNo) (s : State) : State :=
  s.modEng t fun e =>
    if e.job.isNone then e else if e.r.held.isSome then { e with state := .waiting } else { e with state := .running }

/-- The engine's cycle: the end of its job, the start of the next, a handle to be taken again after a restore (R284), a read
ahead (R303), or an instruction (R285, R289, R292). -/
def engineSlot (t : TileNo) (s : State) : Out State :=
  let e := (s.tile t).eng
  if !tileRuns s t then .next s
  else if e.ending.isSome then exec (.engineJobEnd t) s
  else if e.job.isNone then (if mayStart (s.tile t) then exec (.engineJobStart t) s else .next s)
  else match e.retake with
    | i :: _ => .next (if e.r.held.isSome then s else engSettle t ((retakeHandle t i s).bind fun _ s => .ok s s))
    | [] =>
      let i := instrOf (memRead (microcodeOf s (tileDie t)) e.r.pc.toNat 4)
      match readAhead i t (engineShows t s) with
      | (true, s) => .next s
      | (false, s) => exec i { s with hart := .engine t }

/-- The management hart's cycle (R424). -/
def mgmtSlot (d : DieNo) (s : State) : Out State :=
  let m := (s.die d).mgmt
  if !m.running then .next s
  else mapNext (fun s => s.modDie d tickDie)
    (exec (instrOf (memRead (programOf s d) m.r.pc.toNat 4)) { s with hart := .mgmt d })

/-! ### Memory side -/

/-- The walk of a hart's held access is made when its time has come, and not while its page is being moved or a failed link lies
on its way (R235, R241, R275, R417). -/
def walkSlot (h : HartId) (s : State) : Out State :=
  match (s.regsOf h).held with
  | some x =>
    if x.phase = .walk && decide (x.due ≤ s.now) && !walkCut s (hartSite h) (s.ctxOf h) x.va && (s.moveOf (s.ctxOf h) (bits x.va.toNat 0 57)).isNone then
      exec (.translationWalk h) s
    else .next s
  | none => .next s

/-- The HBM stack of an address (R225). -/
def stackOf (pa : Nat) : Nat := pa / 0xC00000000

/-- Bandwidth class of a hart's accesses: its launch's; firmware's is class 0 (R229). -/
def classOf (s : State) (h : HartId) : Nat :=
  match h with
  | .mgmt _ => 0
  | _ => ((s.launch? (lnumOf s (hartTile h))).map (·.r.bwclass)).getD 0

/-- A failed link on its way to its target holds an access of a hart that has not been performed (R389, R417). -/
def accessCut (s : State) (h : HartId) (a : Access) : Bool := a.post.isNone && !s.requestOpen (hartSite h) a.pa a.n

/-- The controllers give a class no transfer slot: no minimum, and no weight (R229). -/
def noShare (s : State) (c : Nat) : Bool :=
  s.hub.bwMin[c % 16]'(by omega) == 0 && s.hub.bwWeight[c % 16]'(by omega) == 0

/-- The class is given no slot, and a class that is given some keeps those of the stack busy: it has an access there that is
to be served now (R229, R275). -/
def starved (s : State) (h : HartId) (a : Access) : Bool :=
  isHbm a.pa && noShare s (classOf s h) &&
    (tileHarts s).any fun g => !noShare s (classOf s g) && (eligible (s.regsOf g).accesses).any fun b =>
      isHbm b.pa && b.post.isNone && stackOf b.pa == stackOf a.pa && decide (b.due ≤ s.now) && !accessCut s g b

/-- An outstanding access of a hart goes on once it has reached its target and no earlier one must be performed before it
(R243, R259, R262, R275, R417). -/
def accessSlot (h : HartId) (id : Nat) (s : State) : Out State :=
  let l := eligible (s.regsOf h).accesses
  match l.findIdx? (·.id == id) with
  | none => .next s
  | some i =>
    match l[i]? with
    | some a => if s.now < a.due || starved s h a || accessCut s h a then .next s else exec (.accessComplete h i) s
    | none => .next s

/-- The barrier word that an event stores to (R172). -/
def eventWord : Instr → Option Bool
  | .barrierWindowArrive _ _ => some false
  | .barrierWindowDeliver _ _ _ => some true
  | .hostWrite _ pa _ => if (windowTile pa).isSome then barrierWord (windowOff pa) else none
  | _ => none

/-- The events whose stores to barrier words have their place in the cycle now, in the order of their arrival (R172). -/
def windowStores (high : Bool) (s : State) : State :=
  { s with deferred := s.deferred.filter fun i => eventWord i != some high
           inputs := (s.deferred.filter fun i => eventWord i == some high) ++ s.inputs }

/-- Collectives whose result is formed now (R308). -/
def dueCollectives (s : State) : List Instr :=
  (s.hub.colls.filter fun c => collFull c && !c.failed && c.result.isNone && decide (c.due ≤ s.now)).map fun c =>
    .collectiveComplete c.lnum c.coll

/-- The Sorus sampler takes its next request, or ends the one it serves (R309). -/
def sorusSlot (d : DieNo) (s : State) : Out State :=
  let x := s.die d
  if x.halted then .next s
  else if x.sorusRun.isSome then perhaps s fun _ s => exec (.sorusRequestEnd d) s
  else if x.sorusQ.isEmpty then .next s
  else exec (.sorusRequestStart d) s

/-- The pending firings of a cache die (R322). -/
def watchSlot (c : DieNo) (s : State) : State :=
  s.pushAll (((List.finRange 16).filter fun n => (s.cache c).watches[n].pending).map (.watchPendingPush c))

/-- The credits due at a cache die, and the flits that have crossed its lanes (R397). -/
def seamSlot (c : DieNo) (s : State) : State :=
  (List.finRange 48).foldl (fun s i =>
    let s := if (s.cache c).sels[i].returns.isEmpty then s else creditReturn c i s
    if (s.cache c).sels[i].path.isEmpty then s else laneArrive c i s) s

/-- A cluster's running command ends after a free delay, or a wake request is served (R430-R432). -/
def clusterSlot (d : DieNo) (k : Fin 4) (s : State) : Out State :=
  match (s.die d).clusters[k].busy with
  | some c => perhaps s fun n s => if c = 4 && !Config.railOk n then execRailTimeout d k s else execClusterCommandEnd d k s
  | none => .next (serveWake s d k)

/-- Retransmission timers of a port (R415), and received records and host writes whose posts are done (R412, R413). -/
def linksSlot (p : Fin 32) (s : State) : State :=
  releaseWrites ((List.finRange 16).foldl (fun s k => retransmit (closeFrame s p.val k) p.val k) s)

/-! ### Dispatcher -/

/-- Placed groups of every launch. -/
def allPlaced (s : State) : List (Launch × Placed) := s.hub.launches.flatMap fun l => l.placed.map fun p => (l, p)

/-- Launch numbers with a rank, for the placed groups a test names. -/
def placedWhere (s : State) (p : Launch → Placed → Bool) : List (Nat × Nat) :=
  ((allPlaced s).filter fun q => p q.1 q.2).map fun q => (q.1.lnum, q.2.rank)

/-- Groups that have finished, and launches that are ending (R30, R343). -/
def finishEvents (s : State) : List Instr :=
  ((placedWhere s fun l p => l.ending.isNone && groupDone s l p).map fun q => .groupFinish q.1 q.2) ++
    (s.hub.launches.filter fun l => l.ending.isSome).map fun l => .groupFinish l.lnum 0

/-- The cycle is the last of its dispatcher cycle (R3). -/
def lastOfDispatcher (s : State) : Bool := 2 * (s.now + 1) / 5 != s.dcycle

/-- Overruns, deadlines and quanta of the running groups (R345, R363, R364). A quantum expires at the end of a dispatcher
cycle, when the groups that finish in it have finished. -/
def timeEvents (s : State) : List Instr :=
  ((placedWhere s (overrunDue s)).flatMap fun q => [.overrun q.1 q.2, .overrunDeadline q.1 q.2]) ++
    (if !lastOfDispatcher s then [] else
      (placedWhere s fun l p => p.started && l.ending.isNone).map fun q => .quantumExpiry q.1 q.2)

/-- The pools in which the dispatcher looks for a group to place (R332). -/
def pools : List (Option (Fin 32)) := none :: (List.finRange 32).map some

/-- Slots that are loading. -/
def loadingSlots (s : State) : List (Fin 32) := (List.finRange 32).filter fun i => s.hub.slots[i].st == 1

/-- A phase of the dispatcher's work: what it would do now. A record is read last, at the end of a dispatcher cycle, when
the writes of that cycle to the counters its waits name are in (R340, R341). `n` indexes the free values. -/
def dispatcherEvents (n : Nat) (s : State) (phase : Fin 8) : List Instr :=
  match phase with
  | 0 => if (nextActive s).isSome then [.launchActivate] else []
  | 1 => if Config.delay n = 0 then (loadingSlots s).map .slotLoadEnd else []
  | 2 => finishEvents s
  | 3 => timeEvents s
  | 4 => (placedWhere s fun _ p => p.freezeAsked).map fun q => .freeze q.1 q.2
  | 5 => if s.hub.launches.isEmpty then [] else
      (pools.filter fun p => (firstOfPool s p).isSome).map fun p => .groupPlace p (Config.origin n)
  | 6 => if Config.delay n ≠ 0 then [] else
      (placedWhere s fun _ p => !p.started && p.restoring).map (fun q => .restore q.1 q.2) ++
        (placedWhere s fun _ p => !p.started && !p.restoring).map fun q => .groupStart q.1 q.2
  | 7 => if lastOfDispatcher s && mayRead s then [.launchRecordRead] else []

/-- A phase of the dispatcher: first it judges what the dispatcher cycles before this one have brought (R341, R344). -/
def dispatcherSlot (phase : Fin 8) (s : State) : State :=
  let (n, s) := (closeCycle s).draw
  s.pushAll (dispatcherEvents n s phase)

/-- Count the corrections of single-bit errors of a cycle; a counter saturates at 32 bits (R366, R440). -/
def eccSlot (s : State) : State :=
  let up (n : Nat) : Nat := min (2 ^ 32 - 1) (n + 1)
  let (n, s) := s.draw
  (Config.corrections n).foldl (fun s c =>
    if c.1 < 200 then s.modDie (dieOf c.1) fun x => if c.2 then { x with errAcc := up x.errAcc } else { x with errLocal := up x.errLocal }
    else s.modCache (dieOf c.1) fun x => if c.2 then { x with errHbm := up x.errHbm } else { x with errSlice := up x.errSlice }) s

/-! ### Placing an instruction -/

/-- The tile a placed instruction runs on: that of the focused hart. -/
def placeTile (s : State) : TileNo := hartTile s.hart

/-- A core word at the PC of strand 0 (R12). -/
def placeStrand (t : TileNo) (w : Nat) (s : State) : State :=
  let s := s.modTile t fun x => { x with
    running := true, imem := memWrite x.imem x.strands[0].r.pc.toNat (leBytes 4 w)
    strands := x.strands.set 0 { x.strands[0] with run := .active } }
  { s with inputs := [], todo := [.attempt t 0, .clock t] }

/-- An engine-only word at the PC of the engine's job (R285). -/
def placeEngine (t : TileNo) (w : Nat) (s : State) : State :=
  let s := s.modTile t fun x => { x with running := true, eng := { x.eng with job := some (x.eng.job.getD 0), ending := none } }
  let m := memWrite (microcodeOf s (tileDie t)) (s.tile t).eng.r.pc.toNat (leBytes 4 w)
  { s.modDie (tileDie t) fun d => { d with microcode := some m } with inputs := [], todo := [.engine t, .clock t] }

/-- A switch word at the SPC (R52). -/
def placeSwitch (t : TileNo) (w : Nat) (s : State) : State :=
  let s := s.modTile t fun x => { x with
    running := true, smem := memWrite x.smem (8 * x.sw.spc) (leBytes 8 w), sw := { x.sw with run := .running } }
  { s with inputs := [], todo := [.switch t, .clock t] }

/-- Place an instruction of `nbits` bits where the next step fetches it. -/
def placeWord (s : State) (nbits w : Nat) : State :=
  let t := placeTile s
  if 32 < nbits then placeSwitch t w s
  else if engineOnlyWord (instrOf (w % 2 ^ 32)) then placeEngine t w s
  else placeStrand t w s

/-! ### All slots -/

/-- Run a slot. -/
def runSlot (k : SlotKind) (s : State) : Out State :=
  match k with
  | .matrixEnd t => if tileRuns s t then exec (.matrixInstructionEnd t) s else .next s
  | .matrixEarly t => if tileRuns s t then exec (.matrixInstructionBegin t) s else .next s
  | .issue t => .next (issueSlot t s)
  | .attempt t k => earlyAttempt t k s
  | .waitLate _ => .next s
  | .lateAttempt t k => attempt t k s
  | .decodeClaim t => decodeSlot t s
  | .gathers t => .next (if (s.die (tileDie t)).halted then s else amoSlot t (gatherSlot t s))
  | .signal t => signalSlot t s
  | .switch t => switchSlot t s
  | .sinj t => .next (if tileRuns s t then sinjSlot t s else s)
  | .matrixLate t => .next (if tileRuns s t then matrixLate t s else s)
  | .engine t => engineSlot t s
  | .clock t => .next (s.modTile t tickTile)
  | .mgmt d => mgmtSlot d s
  | .walk h => walkSlot h s
  | .access h id => accessSlot h id s
  | .revocations => .next (revocationSlot s)
  | .windowStores high => .next (windowStores high s)
  | .windowEnd _ => .next s
  | .collectives => .next (s.pushAll (dueCollectives s))
  | .ecc => .next (eccSlot s)
  | .firmware d => .next (firmwareSlot d s)
  | .sorus d => sorusSlot d s
  | .faultq d => exec (.faultRecordWrite d) s
  | .watch c => .next (watchSlot c s)
  | .seam c => .next (seamSlot c s)
  | .cluster d k => clusterSlot d k s
  | .links p => .next (linksSlot p s)
  | .power => .next (if recomputeDue s then s.push .allowanceRecompute else s)
  | .dispatcher p => .next (dispatcherSlot p s)

/-- The tiles whose clocks run. -/
def liveTiles (s : State) : List TileNo := (s.tiles.map fun p => tileOf p.1).filter (tileRuns s)

/-- Every hart that can have an access outstanding. -/
def allHarts (s : State) : List HartId := tileHarts s ++ s.dies.map fun p => HartId.mgmt (dieOf p.1)

/-- When in a cycle an access takes its turn at its target: an engine's at its own local memory with the engine; at another
tile's local memory after the engines, those of engines first; a delivery that counts elsewhere with the engines' deliveries; a
delivery to a barrier word last; every other one before the engines, an arrival at a barrier word among them (R172, R265). -/
def accessTurn (h : HartId) (a : Access) : Nat :=
  let word := if (windowTile a.pa).isSome && a.post.isNone then barrierWord (windowOff a.pa) else none
  if a.loc then 1
  else match word with
    | some high => if high then 4 else 0
    | none =>
      if (deliveryTile a.pa).isSome then (if hartIsStrand h then 3 else 2)
      else if a.units ≠ 0 then 2 else 0

/-- The slots of the outstanding accesses that take a turn. -/
def accessSlots (s : State) (turn : Nat) : List SlotKind :=
  (allHarts s).flatMap fun h =>
    ((s.regsOf h).accesses.filter fun a => accessTurn h a == turn).map fun a => .access h a.id

/-- The slots of the walks to be made. -/
def walkSlots (s : State) : List SlotKind :=
  ((allHarts s).filter fun h => (s.regsOf h).held.any fun x => x.phase == .walk).map .walk

/-- The slots of a compute die's controller. -/
def dieSlots (d : DieNo) : List SlotKind :=
  [.mgmt d, .faultq d, .firmware d] ++ (List.finRange 4).map (.cluster d)

/-- A gather, scatter or local amo is under way on a tile. -/
def tileBusy (x : Tile) : Bool :=
  x.strands.toList.any (fun z => z.gather.isSome || z.r.amo.isSome) || x.eng.r.amo.isSome

/-- The slots of a cycle, in order (R172, R182, R265): seam credits; results of the matrix unit and the begin of its
instructions; the switch's claim of a bank; issue, and the begin of matrix instructions that issued; gathers and sinj; the
switch's arrival at a barrier; accesses, the engines, the Sorus samplers and their deliveries; the switch's other words;
mlfree; the strands at an sbwait; the end of the tiles' cycles; then what lies beyond the tiles. -/
def slots (s : State) : List SlotKind :=
  let live := liveTiles s
  let each (f : TileNo → SlotKind) : List SlotKind := live.map f
  let caches := s.caches.map fun p => dieOf p.1
  let gather := (s.tiles.filter fun p => tileBusy p.2).map fun p => SlotKind.gathers (tileOf p.1)
  caches.map .seam ++ each .matrixEnd ++ each .matrixEarly ++ each .decodeClaim ++ each .issue ++ each .matrixEarly ++
    gather ++ each .sinj ++ each .signal ++ accessSlots s 0 ++ [.windowStores false, .windowEnd false] ++ accessSlots s 1 ++
    each .engine ++ (s.dies.map fun p => .sorus (dieOf p.1)) ++ accessSlots s 2 ++ accessSlots s 3 ++ accessSlots s 4 ++
    [.windowStores true, .windowEnd true] ++ each .switch ++ each .matrixLate ++ each .waitLate ++ each .clock ++
    walkSlots s ++ (s.dies.flatMap fun p => dieSlots (dieOf p.1)) ++ caches.map .watch ++
    (s.ports.map fun p => .links ⟨p.1 % 32, Nat.mod_lt _ (by decide)⟩) ++ [.ecc, .power, .revocations, .collectives] ++
    (List.finRange 8).map .dispatcher

/-- The next cycle begins: what was put off is asked again, and its slots are lined up (R6). -/
def tick (s : State) : State :=
  let s := { s with
    now := s.now + 1, inputs := s.deferred, deferred := [] }
  { s with todo := slots s }

end Sys2Proof.Machine
end

