-- ==== Sys2Proof/Machine/Step.lean ====
section
/-! DEFINITION. The step of the machine: what waits to be taken, else the next slot of the cycle, else the turn of the
clock; and the placing of one instruction where the next step fetches it. -/
namespace Sys2Proof.Machine

/-- One step. -/
def step (s : State) : Host.Outcome State Fault Refusal :=
  match s.inputs with
  | i :: r => exec i { s with inputs := r }
  | [] =>
    match s.todo with
    | k :: r => runSlot k { s with todo := r }
    | [] => .next (tick s)

/-- `s` with an instruction where the next step fetches it. It stands for a load from outside (log 13): a switch word at
the SPC of the focused tile's running switch, an engine-only word at the PC of its engine's running job, and any other
core word at the PC of its strand 0, active on a running tile. -/
def State.withFetchWord (s : State) (nbits w : Nat) : State :=
  placeWord s nbits w

end Sys2Proof.Machine
end

