-- ==== Sys2Proof/Safety.lean ====
section
/-! DEFINITION. What counts as a safe run: a step that answers a next state. No step of this machine answers anything
else (R9). -/
namespace Sys2Proof.Machine

/-- The machine goes on from a state. -/
def goesOn (s : State) : Bool :=
  match step s with
  | .next _ => true
  | _ => false

end Sys2Proof.Machine
end

