-- ==== Sys2Proof/Certificates/Slice0/Obligations.lean ====
section
/-! DEFINITION. The statements about the model, each with the rules of the manual that it formalises, and the tables
and predicates they are written in. -/
namespace Sys2Proof.Claims
open Sys2Proof.Machine

/-! ### What an instruction needs and changes -/

/-- The hart may issue, admits the word, and every register and queue the word names is ready (R50, R98, R158, R165); none
of the registers it consumes is one whose residue does not match (R122, R153). -/
def Ready (s : State) (i : Instr) (n : Need) : Prop :=
  hartFree s = true ∧ admits s i = true ∧ operandsReady s n = true ∧ unsound s n = none

/-- The next word lies inside instruction memory (R13). -/
def NotLast (s : State) : Prop := (s.regs.pc + 4).toNat ≤ pcLimit s.hart

/-- No hardware loop ends at the running instruction (R111). -/
def NoLoopEnd (s : State) : Prop := ∀ k : Fin 2, s.regs.lc[k] = 0 ∨ s.regs.pc + 4 ≠ s.regs.le[k]

/-- A register is not bound to a stream queue of the running strand (R164). -/
def Unbound (s : State) (n : Need) : Prop :=
  (∀ r, r ∈ n.gs ++ n.gd.toList → boundTo s false r = none) ∧ (∀ r, r ∈ n.vs ++ n.vd.toList → boundTo s true r = none)

/-- Every byte of every memory reads as before. -/
def KeepsMemory (s t : State) : Prop :=
  (∀ a, memGet t.mem a = memGet s.mem a) ∧ (∀ a, memGet t.hostMem a = memGet s.hostMem a) ∧
  ∀ u a, memGet (t.tile u).lm a = memGet (s.tile u).lm a ∧ memGet (t.tile u).acc a = memGet (s.tile u).acc a ∧
    memGet (t.tile u).imem a = memGet (s.tile u).imem a ∧ memGet (t.tile u).smem a = memGet (s.tile u).smem a

/-- Every byte of every memory reads as before, but for the local memory of tile `o` at the addresses `p` names. -/
def KeepsMemoryBut (o : TileNo) (p : Nat → Prop) (s t : State) : Prop :=
  (∀ a, memGet t.mem a = memGet s.mem a) ∧ (∀ a, memGet t.hostMem a = memGet s.hostMem a) ∧
  ∀ u a, (¬(u = o ∧ p a) → memGet (t.tile u).lm a = memGet (s.tile u).lm a) ∧
    memGet (t.tile u).acc a = memGet (s.tile u).acc a ∧
    memGet (t.tile u).imem a = memGet (s.tile u).imem a ∧ memGet (t.tile u).smem a = memGet (s.tile u).smem a

/-- Every hart but the running one, and everything beyond the tiles, is as before. -/
def KeepsOthers (s t : State) : Prop :=
  (∀ u k, HartId.strand u k ≠ s.hart → t.strandAt u k = s.strandAt u k) ∧
  (∀ u, HartId.engine u ≠ s.hart → (t.tile u).eng = (s.tile u).eng) ∧
  (∀ d, HartId.mgmt d ≠ s.hart → t.die d = s.die d) ∧
  t.caches = s.caches ∧ t.ports = s.ports ∧ t.hub = s.hub ∧ t.power = s.power ∧ t.rot = s.rot

/-- What the running hart keeps when an instruction writes at most the named destinations: every other general, vector and
mask register, no register losing its residue, the handles, the loop bounds, the trap registers, RMODE and FMT8; the loop
counts where no loop ends here; FFLAGS but for bits that become set. -/
def KeepsOwn (dg dv : Option Reg) (dm : Option Reg8) (s t : State) : Prop :=
  t.hart = s.hart ∧
  (∀ r : Reg, dg ≠ some r → t.regs.g[r] = s.regs.g[r]) ∧ (∀ r : Reg, dv ≠ some r → t.me.v[r] = s.me.v[r]) ∧
  (∀ r : Reg8, dm ≠ some r → t.me.m[r] = s.me.m[r]) ∧
  (∀ r, r ∈ t.regs.residue → r ∈ s.regs.residue) ∧
  t.regs.h = s.regs.h ∧ t.regs.lb = s.regs.lb ∧ t.regs.le = s.regs.le ∧ (NoLoopEnd s → t.regs.lc = s.regs.lc) ∧
  t.me.rmode = s.me.rmode ∧ t.me.fmt8 = s.me.fmt8 ∧ t.me.epc = s.me.epc ∧ t.me.ecause = s.me.ecause ∧
  t.me.eval = s.me.eval ∧ t.me.etvec = s.me.etvec ∧ t.me.inh = s.me.inh ∧ t.me.swpend = s.me.swpend ∧
  t.me.ovrpend = s.me.ovrpend ∧ t.me.fflags &&& s.me.fflags = s.me.fflags

/-- The stream queues, their bindings, and SSTAT are as before. -/
def KeepsQueues (s t : State) : Prop :=
  t.me.sstat = s.me.sstat ∧ ∀ u, (t.tile u).inQ = (s.tile u).inQ ∧ (t.tile u).outQ = (s.tile u).outQ ∧
    (t.tile u).binds = (s.tile u).binds

/-- The frame of an instruction that computes: at most its destinations change; the queues too where none of its
registers is bound. -/
def ComputeFrame (n : Need) (s t : State) : Prop :=
  KeepsMemory s t ∧ KeepsOthers s t ∧ KeepsOwn n.gd n.vd n.md s t ∧ (Unbound s n → KeepsQueues s t)

/-- The bank of an address serves the running hart (R117, R265): it is free, and nobody has waited there for longer. -/
def Served (s : State) (a : Nat) : Prop :=
  bankFree s.myTile a = true ∧ outwaited (partyOf s.hart) a s.myTile = false

/-- The running hart has the bank of an address for `n` cycles, and waits there no more (R265). -/
def withBank (a n : Nat) (s : State) : State :=
  s.modMyTile fun x => { x with
    bankUntil := x.bankUntil.set (bankOf a) (x.cycle + n)
    bankWait := x.bankWait.filter fun w => !(w.party == partyOf s.hart && w.bank == bankOf a) }

/-- The running hart waits for the bank of an address, since the cycle it first asked in (R265). -/
def waitsAt (a : Nat) (s : State) : State :=
  s.modMyTile fun x => { x with
    bankWait := (x.bankWait.filter fun w => !(w.party == partyOf s.hart && w.bank == bankOf a)) ++
      [⟨partyOf s.hart, bankOf a, wantsSince (partyOf s.hart) a x, x.cycle⟩] }

/-- The running hart's access is held for a walk, which is made at a free, finite time (R235, R275). -/
def HeldFor (s t : State) (va : W64) (wr : Bool) : Prop :=
  ∃ c, t = ({ s with fresh := s.fresh + 1 }).modRegs fun r => { r with
    held := some { va := va, wr := wr, phase := .walk, due := c } }

/-- A strand gives up its places in the waiting lists of its tile's banks, unless a gather, scatter, atomic or injection of it
is under way, which keeps its place (R142, R265). -/
def leavesBanks (t : TileNo) (k : Fin 8) (s : State) : State :=
  s.modTile t fun x =>
    if x.strands[k].gather = none ∧ x.strands[k].r.amo = none ∧ x.strands[k].sinj = none then
      { x with bankWait := x.bankWait.filter fun w => w.party != .strand k }
    else x

/-- A result of the running hart, wherever it goes, is written by cycle `c` (R118). -/
def resultBy (c : Nat) (s : State) : State := s.modRegs fun x => { x with resultsFrom := max x.resultsFrom c }

/-! ### Scalar results -/

/-- The word with the given bits. -/
def ofBits (f : Nat → Bool) : W64 := w64 ((List.range 64).foldr (fun i acc => b2n (f i) + 2 * acc) 0)

/-- One or zero. -/
def truth (p : Prop) [Decidable p] : W64 := if p then 1 else 0

/-- bfx: the field of `w` bits at `p`, signed when bit 16 asks for it (R103). -/
def bfxOf (x y : W64) : W64 :=
  let w := y.toNat / 256 % 64 + 1
  let v := x.toNat / 2 ^ (y.toNat % 64) % 2 ^ w
  if y.getLsbD 16 = true ∧ w < 64 ∧ 2 ^ (w - 1) ≤ v then BitVec.ofInt 64 ((v : Int) - 2 ^ w) else w64 v

/-- bfi: the low bits of x over the field of z (R103). -/
def bfiOf (x y z : W64) : W64 :=
  let p := y.toNat % 64
  let w := y.toNat / 256 % 64 + 1
  ofBits fun i => if p ≤ i ∧ i < p + w then x.getLsbD (i - p) else z.getLsbD i

/-- The alu forms with two sources: destination, sources, latency and result, in exact arithmetic (R100, R102). -/
def alu2 : Instr → Option (Reg × Reg × Reg × Nat × (W64 → W64 → W64))
  | .add d a b => some (d, a, b, 1, fun x y => w64 (x.toNat + y.toNat))
  | .sub d a b => some (d, a, b, 1, fun x y => BitVec.ofInt 64 (x.toInt - y.toInt))
  | .and d a b => some (d, a, b, 1, fun x y => ofBits fun i => x.getLsbD i && y.getLsbD i)
  | .or d a b => some (d, a, b, 1, fun x y => ofBits fun i => x.getLsbD i || y.getLsbD i)
  | .xor d a b => some (d, a, b, 1, fun x y => ofBits fun i => x.getLsbD i != y.getLsbD i)
  | .andn d a b => some (d, a, b, 1, fun x y => ofBits fun i => x.getLsbD i && !y.getLsbD i)
  | .shl d a b => some (d, a, b, 1, fun x y => w64 (x.toNat * 2 ^ (y.toNat % 64)))
  | .shr d a b => some (d, a, b, 1, fun x y => w64 (x.toNat / 2 ^ (y.toNat % 64)))
  | .sra d a b => some (d, a, b, 1, fun x y => BitVec.ofInt 64 (x.toInt / 2 ^ (y.toNat % 64)))
  | .rot d a b => some (d, a, b, 1, fun x y => ofBits fun i => x.getLsbD ((i + y.toNat) % 64))
  | .min d a b => some (d, a, b, 1, fun x y => if x.toInt ≤ y.toInt then x else y)
  | .max d a b => some (d, a, b, 1, fun x y => if x.toInt ≤ y.toInt then y else x)
  | .minN d a b => some (d, a, b, 1, fun x y => if x.toNat ≤ y.toNat then x else y)
  | .maxN d a b => some (d, a, b, 1, fun x y => if x.toNat ≤ y.toNat then y else x)
  | .addw d a b => some (d, a, b, 1, fun x y => BitVec.ofInt 64 ((x.toInt + y.toInt).bmod (2 ^ 32)))
  | .subw d a b => some (d, a, b, 1, fun x y => BitVec.ofInt 64 ((x.toInt - y.toInt).bmod (2 ^ 32)))
  | .mul d a b => some (d, a, b, 4, fun x y => w64 (x.toNat * y.toNat))
  | .mulh d a b => some (d, a, b, 4, fun x y => BitVec.ofInt 64 (x.toInt * y.toInt / 2 ^ 64))
  | .mulhN d a b => some (d, a, b, 4, fun x y => w64 (x.toNat * y.toNat / 2 ^ 64))
  | .seq d a b => some (d, a, b, 1, fun x y => truth (x.toNat = y.toNat))
  | .sne d a b => some (d, a, b, 1, fun x y => truth (x.toNat ≠ y.toNat))
  | .slt d a b => some (d, a, b, 1, fun x y => truth (x.toInt < y.toInt))
  | .sltN d a b => some (d, a, b, 1, fun x y => truth (x.toNat < y.toNat))
  | .sle d a b => some (d, a, b, 1, fun x y => truth (x.toInt ≤ y.toInt))
  | .sleN d a b => some (d, a, b, 1, fun x y => truth (x.toNat ≤ y.toNat))
  | _ => none

/-- A shift or rotation by a fixed amount (R102, R105). -/
def shiftOf : ShiftKind → Nat → W64 → W64
  | .shl, n, x => w64 (x.toNat * 2 ^ n)
  | .shr, n, x => w64 (x.toNat / 2 ^ n)
  | .sra, n, x => BitVec.ofInt 64 (x.toInt / 2 ^ n)
  | .rot, n, x => ofBits fun i => x.getLsbD ((i + n) % 64)

/-- The forms with one general source: destination, source and result (R102, R105); each has latency 1 (R100). -/
def alu1 : Instr → Option (Reg × Reg × (W64 → W64))
  | .clz d a => some (d, a, fun x => w64 (((List.range 64).find? fun i => x.getLsbD (63 - i)).getD 64))
  | .ctz d a => some (d, a, fun x => w64 (((List.range 64).find? fun i => x.getLsbD i).getD 64))
  | .popc d a => some (d, a, fun x => w64 ((List.range 64).filter fun i => x.getLsbD i).length)
  | .sextB d a => some (d, a, fun x => BitVec.ofInt 64 (x.toInt.bmod (2 ^ 8)))
  | .sextH d a => some (d, a, fun x => BitVec.ofInt 64 (x.toInt.bmod (2 ^ 16)))
  | .sextW d a => some (d, a, fun x => BitVec.ofInt 64 (x.toInt.bmod (2 ^ 32)))
  | .zextB d a => some (d, a, fun x => w64 (x.toNat % 2 ^ 8))
  | .zextH d a => some (d, a, fun x => w64 (x.toNat % 2 ^ 16))
  | .zextW d a => some (d, a, fun x => w64 (x.toNat % 2 ^ 32))
  | .addi d a imm => some (d, a, fun x => BitVec.ofInt 64 (x.toInt + imm.toInt))
  | .andi d a imm => some (d, a, fun x => ofBits fun i => x.getLsbD i && imm.getLsbD i)
  | .ori d a imm => some (d, a, fun x => ofBits fun i => x.getLsbD i || imm.getLsbD i)
  | .xori d a imm => some (d, a, fun x => ofBits fun i => x.getLsbD i != imm.getLsbD i)
  | .shi k d a n => some (d, a, shiftOf k n.val)
  | .ldih d a imm => some (d, a, fun x => BitVec.ofInt 64 (x.toInt + imm.toInt * 2 ^ 16))
  | .slti d a imm => some (d, a, fun x => truth (x.toInt < imm.toInt))
  | .sltiN d a imm => some (d, a, fun x => truth (x.toNat < (BitVec.ofInt 64 imm.toInt).toNat))
  | _ => none

/-- The forms that read gd as a third source (R37, R103). -/
def alu3 : Instr → Option (Reg × Reg × Reg × (W64 → W64 → W64 → W64))
  | .bfx d a b => some (d, a, b, fun x y _ => bfxOf x y)
  | .bfi d a b => some (d, a, b, bfiOf)
  | .sel d a b => some (d, a, b, fun x y z => if z = 0 then y else x)
  | _ => none

/-- The divisions, truncating toward zero; by 0 the quotient is all ones and the remainder the dividend (R104). -/
def divide : Instr → Option (Reg × Reg × Reg × (W64 → W64 → W64))
  | .div d a b => some (d, a, b, fun x y => if y = 0 then w64 (2 ^ 64 - 1) else BitVec.ofInt 64 (x.toInt.tdiv y.toInt))
  | .divN d a b => some (d, a, b, fun x y => if y = 0 then w64 (2 ^ 64 - 1) else w64 (x.toNat / y.toNat))
  | .rem d a b => some (d, a, b, fun x y => if y = 0 then x else BitVec.ofInt 64 (x.toInt.tmod y.toInt))
  | .remN d a b => some (d, a, b, fun x y => if y = 0 then x else w64 (x.toNat % y.toNat))
  | _ => none

/-! ### Vector forms -/

/-- Integer lanes modulo 2^w, from the signed or natural values of the operands (R131). -/
abbrev IntLane := Nat → Bool → Nat → Nat → Nat

/-- A lane operation given on values, as the meanings take it; it raises no flag. -/
def onInts (g : IntLane) (e : Elem) (_ : RMode) (x y : Nat) : Nat × FFlags :=
  match e with
  | .int w sgn => (g w sgn x y % 2 ^ w, 0)
  | .flt _ => (0, 0)

/-- An exact value modulo 2^w. -/
def wrapTo (w : Nat) (v : Int) : Nat := (v % (2 ^ w : Nat)).toNat

/-- The element-wise forms with two sources: type, admitted class, latency, operands, mask and lane (R127-R131). -/
def lane2 : Instr → Option (VType × (Elem → Bool) × Nat × Reg × Reg × Reg × Reg8 ×
    (Elem → RMode → Nat → Nat → Nat × FFlags))
  | .vaddFp t d a b x => some (t, isFlt, 8, d, a, b, x, faddLane)
  | .vsubFp t d a b x => some (t, isFlt, 8, d, a, b, x, fsubLane)
  | .vmulFp t d a b x => some (t, isFlt, 8, d, a, b, x, fmulLane)
  | .vminFp t d a b x => some (t, isFlt, 2, d, a, b, x, fpickLane false)
  | .vmaxFp t d a b x => some (t, isFlt, 2, d, a, b, x, fpickLane true)
  | .vcpysgn t d a b x => some (t, isFlt, 2, d, a, b, x, fsgnLane)
  | .vaddInt t d a b x => some (t, isInt, 2, d, a, b, x, onInts fun _ _ p q => p + q)
  | .vsubInt t d a b x => some (t, isInt, 2, d, a, b, x, onInts fun w _ p q => wrapTo w ((p : Int) - q))
  | .vmulInt t d a b x => some (t, isInt, 4, d, a, b, x, onInts fun _ _ p q => p * q)
  | .vmulh t d a b x => some (t, isInt, 4, d, a, b, x,
      onInts fun w g p q => wrapTo w (intValue w g p * intValue w g q / 2 ^ w))
  | .vminInt t d a b x => some (t, isInt, 2, d, a, b, x, onInts fun w g p q =>
      if intValue w g p ≤ intValue w g q then p else q)
  | .vmaxInt t d a b x => some (t, isInt, 2, d, a, b, x, onInts fun w g p q =>
      if intValue w g p ≤ intValue w g q then q else p)
  | .vand t d a b x => some (t, isInt, 2, d, a, b, x, onInts fun _ _ p q => p &&& q)
  | .vor t d a b x => some (t, isInt, 2, d, a, b, x, onInts fun _ _ p q => p ||| q)
  | .vxor t d a b x => some (t, isInt, 2, d, a, b, x, onInts fun _ _ p q => p ^^^ q)
  | .vshl t d a b x => some (t, isInt, 2, d, a, b, x, onInts fun w _ p q => p * 2 ^ (q % w))
  | .vshr t d a b x => some (t, isInt, 2, d, a, b, x, onInts fun w _ p q => p / 2 ^ (q % w))
  | .vsra t d a b x => some (t, isInt, 2, d, a, b, x, onInts fun w _ p q => wrapTo w (signedOf w p / 2 ^ (q % w)))
  | _ => none

/-- The element-wise forms with one source (R128, R131, R143-R151). -/
def lane1 : Instr → Option (VType × (Elem → Bool) × Nat × Reg × Reg × Reg8 × (Elem → RMode → Nat → Nat × FFlags))
  | .vabsFp t d a x => some (t, isFlt, 2, d, a, x, fabsLane)
  | .vneg t d a x => some (t, isFlt, 2, d, a, x, fnegLane)
  | .vabsInt t d a x => some (t, isInt, 2, d, a, x, fun e m p => onInts (fun w g p _ => (intValue w g p).natAbs) e m p 0)
  | .vrsq d a x => some (.f32, isFlt, 8, d, a, x, fun _ _ p => rsqLane p)
  | .vrcp d a x => some (.f32, isFlt, 8, d, a, x, fun _ _ p => rcpLane p)
  | .vredh d a x => some (.f32, isFlt, 8, d, a, x, fun _ m p => redhLane m p)
  | .vquad d a x => some (.f32, isFlt, 8, d, a, x, fun _ _ p => (quadLane p, 0))
  | .vexp2 d a x => some (.f32, isFlt, 16, d, a, x, fun _ _ p => exp2Lane p)
  | .vlog2 d a x => some (.f32, isFlt, 16, d, a, x, fun _ _ p => log2Lane p)
  | .vsqrt d a x => some (.f32, isFlt, 16, d, a, x, fun _ m p => sqrtLane m p)
  | _ => none

/-- The fused forms, which read vd as well (R130). -/
def lane3 : Instr → Option (VType × Reg × Reg × Reg × Reg8 × (Elem → RMode → Nat → Nat → Nat → Nat × FFlags))
  | .vfma t d a b x => some (t, d, a, b, x, fmaLane false false)
  | .vfms t d a b x => some (t, d, a, b, x, fmaLane false true)
  | .vfnma t d a b x => some (t, d, a, b, x, fmaLane true true)
  | .vfnms t d a b x => some (t, d, a, b, x, fmaLane true false)
  | _ => none

/-- The compares (R132). -/
def compare : Instr → Option (VCmp × VType × (Elem → Bool) × Reg8 × Reg × Reg × Reg8)
  | .veq t m a b x => some (.eq, t, anyElem, m, a, b, x)
  | .vne t m a b x => some (.ne, t, anyElem, m, a, b, x)
  | .vlt t m a b x => some (.lt, t, anyElem, m, a, b, x)
  | .vle t m a b x => some (.le, t, anyElem, m, a, b, x)
  | .vunord t m a b x => some (.unord, t, isFlt, m, a, b, x)
  | _ => none

/-- Lane `i` of the permutes of two vectors, from the lane count and the lanes of both sources (R134). -/
def perm2 : Instr → Option (VType × Reg × Reg × Reg × Reg8 × (Nat → (Nat → Nat) → (Nat → Nat) → Nat → Nat))
  | .vperm t d a b x => some (t, d, a, b, x, fun n p q i => p (q i % n))
  | .vzipl t d a b x => some (t, d, a, b, x, fun _ p q i => if i % 2 = 0 then p (i / 2) else q (i / 2))
  | .vziph t d a b x => some (t, d, a, b, x, fun n p q i => if i % 2 = 0 then p ((n + i) / 2) else q ((n + i - 1) / 2))
  | .vuzpe t d a b x => some (t, d, a, b, x, fun n p q i => if 2 * i < n then p (2 * i) else q (2 * i - n))
  | .vuzpo t d a b x => some (t, d, a, b, x, fun n p q i => if 2 * i < n then p (2 * i + 1) else q (2 * i + 1 - n))
  | _ => none

/-- Lane `i` of the permutes by a count from a general register (R134). -/
def slide : Instr → Option (VType × Reg × Reg × Reg × Reg8 × (Nat → Nat → (Nat → Nat) → Nat → Nat))
  | .vslup t d a b x => some (t, d, a, b, x, fun _ k p i => if i < k then 0 else p (i - k))
  | .vsldn t d a b x => some (t, d, a, b, x, fun n k p i => if n ≤ i + k then 0 else p (i + k))
  | .vbcast t d a b x => some (t, d, a, b, x, fun n k p _ => p (k % n))
  | _ => none

/-- The reductions (R90-R92, R136). -/
def reduction : Instr → Option (VType × (Elem → Bool) × Reg × Reg × Reg8 × (Elem → RMode → W64 → V512 → W64 × FFlags))
  | .vrsum t d a x => some (t, isFlt, d, a, x, fun e m k v => match e with
      | .flt f => (w64 (sumLanes f m k v).1, (sumLanes f m k v).2)
      | .int .. => (0, 0))
  | .vrmax t d a x => some (t, anyElem, d, a, x, fun e _ k v => (pickLanes true e k v, 0))
  | .vrmin t d a x => some (t, anyElem, d, a, x, fun e _ k v => (pickLanes false e k v, 0))
  | .vrsumi t d a x => some (t, isInt, d, a, x, fun e _ k v => (sumInts e k v, 0))
  | _ => none

/-- The conversions: destination and source types, saturating, mode forced toward zero (R137, R138). -/
def conversion : Instr → Option (VType × VType × Bool × Bool × Reg × Reg × Reg8)
  | .vcvt dt st d a x => some (dt, st, false, false, d, a, x)
  | .vcvtSat dt st d a x => some (dt, st, true, false, d, a, x)
  | .vcvtRtz dt st d a x => some (dt, st, false, true, d, a, x)
  | _ => none

/-! ### The words of a hart -/

/-- The vector type of a word and the class of elements it admits (R69, R126). -/
def typeOf : Instr → Option (VType × (Elem → Bool))
  | .vsel t _ _ _ _ | .vswp t _ _ _ | .vmovg t _ _ _ | .vext t _ _ _ | .vins t _ _ _ => some (t, anyElem)
  | .vldi t _ _ _ => some (t, isInt)
  | i =>
    match lane2 i, lane1 i, lane3 i, compare i, perm2 i, slide i, reduction i with
    | some (t, c, _), _, _, _, _, _, _ => some (t, c)
    | _, some (t, c, _), _, _, _, _, _ => some (t, c)
    | _, _, some (t, _), _, _, _, _ => some (t, isFlt)
    | _, _, _, some (_, t, c, _), _, _, _ => some (t, c)
    | _, _, _, _, some (t, _), _, _ => some (t, anyElem)
    | _, _, _, _, _, some (t, _), _ => some (t, anyElem)
    | _, _, _, _, _, _, some (t, c, _) => some (t, c)
    | _, _, _, _, _, _, _ => none

/-- What makes a word illegal beside its bits and its hart: an element that FMT8 does not give (R17, R69, R126), and a
CSR the hart does not have or may not write (R17, R118, R283, R424). -/
def legalNow (s : State) (i : Instr) : Bool :=
  match i with
  | .mma _ _ fa fb .. | .mms _ _ fa fb .. => selOk s.me.fmt8.toNat fa && selOk s.me.fmt8.toNat fb
  | .csrr _ c => csrLegal s c.val false
  | .csrw _ _ c | .csrs _ _ c | .csrc _ _ c => csrLegal s c.val true
  | .vcvt dt st .. | .vcvtSat dt st .. | .vcvtRtz dt st .. =>
    (elemOf st s.me.fmt8.toNat).isSome && (elemOf dt s.me.fmt8.toNat).isSome
  | i =>
    match typeOf i with
    | some (t, c) => (elemOf t s.me.fmt8.toNat).any c
    | none => true

/-- The registers a core word reads and writes. -/
def needOf (i : Instr) : Need :=
  match alu2 i, alu1 i, alu3 i, divide i with
  | some (d, a, b, _), _, _, _ => { gs := [a, b], gd := some d }
  | _, some (d, a, _), _, _ => { gs := [a], gd := some d }
  | _, _, some (d, a, b, _), _ => { gs := [a, b, d], gd := some d }
  | _, _, _, some (d, a, b, _) => { gs := [a, b], gd := some d }
  | _, _, _, _ =>
  match lane2 i, lane1 i, lane3 i, compare i, perm2 i, slide i, reduction i, conversion i with
  | some (_, _, _, d, a, b, x, _), _, _, _, _, _, _, _ => { vs := [a, b], vd := some d, ms := [x] }
  | _, some (_, _, _, d, a, x, _), _, _, _, _, _, _ => { vs := [a], vd := some d, ms := [x] }
  | _, _, some (_, d, a, b, x, _), _, _, _, _, _ => { vs := [a, b, d], vd := some d, ms := [x] }
  | _, _, _, some (_, _, _, m, a, b, x), _, _, _, _ => { vs := [a, b], ms := [x], md := some m }
  | _, _, _, _, some (_, d, a, b, x, _), _, _, _ => { vs := [a, b], vd := some d, ms := [x] }
  | _, _, _, _, _, some (_, d, a, b, x, _), _, _ => { vs := [a], gs := [b], vd := some d, ms := [x] }
  | _, _, _, _, _, _, some (_, _, d, a, x, _), _ => { vs := [a], ms := [x], gd := some d }
  | _, _, _, _, _, _, _, some (_, _, _, _, d, a, x) => { vs := [a], vd := some d, ms := [x] }
  | _, _, _, _, _, _, _, _ =>
  match i with
  | .ldi d _ | .scnt d _ | .speek d _ | .sstat d | .embox d | .csrr d _ | .mhdr d _ => { gd := some d }
  | .jal _ => { gd := some 23 }
  | .b _ a b _ | .xlat _ a b | .sinj a b | .side a b => { gs := [a, b] }
  | .jalr d a _ | .ldl _ _ d a _ | .ld _ _ _ d a _ | .ldh _ _ _ d _ a _ => { gs := [a], gd := some d }
  | .csrw d a _ | .csrs d a _ | .csrc d a _ => { gs := [a], gd := some d }
  | .emove d a | .estrd d a | .egath d a | .escat d a | .estream d a | .edrain d a | .ered d a | .esamp d a
  | .esort d a => { gs := [a], gd := some d }
  | .loop _ a _ | .sclr a | .sbinit a _ | .sbexp a _ | .sbwait a _ | .ekick a | .mtag _ a | .mlb a _ | .mst _ a _
  | .mma _ a .. | .mms _ a .. => { gs := [a] }
  | .stl _ d a _ | .st _ _ _ d a _ | .sth _ _ _ d _ a _ => { gs := [a, d] }
  | .amo op _ _ _ d a b => { gs := if op = .cas then [a, b, d] else [a, b], gd := some d }
  | .vldL d a _ | .vldG _ _ d a _ => { gs := [a], vd := some d }
  | .vstL d a _ | .vstG _ _ d a _ => { gs := [a], vs := [d] }
  | .vgathW d a b x | .vgathH d a b x | .vgathB d a b x => { gs := [a], vs := [b], vd := some d, ms := [x] }
  | .vscatW d a b x | .vscatH d a b x | .vscatB d a b x => { gs := [a], vs := [b, d], ms := [x] }
  | .vsin d a x | .vcos d a x => { vs := [a, d], vd := some d, ms := [x] }
  | .vsel _ d a b x => { vs := [a, b], vd := some d, ms := [x] }
  | .vswp _ d a x => { vs := [a], vd := some d, ms := [x] }
  | .mand d a b | .mor d a b | .mxor d a b => { ms := [a, b], md := some d }
  | .mnot d a => { ms := [a, a], md := some d }
  | .mpopc d a | .mfirst d a | .mget d a => { ms := [a], gd := some d }
  | .mset d a => { gs := [a], md := some d }
  | .vldi _ d _ x => { vd := some d, ms := [x] }
  | .vmovg _ d a x => { gs := [a], vd := some d, ms := [x] }
  | .vext _ d a b => { vs := [a], gs := [b], gd := some d }
  | .vins _ d a b => { gs := [a, b], vd := some d }
  | .mrow _ v _ _ => { vd := some v }
  | .mwrow _ v _ _ => { vs := [v] }
  | _ => {}

/-- The instructions that only compute: registers in, registers out. -/
def computes (i : Instr) : Bool :=
  (alu2 i).isSome || (alu1 i).isSome || (alu3 i).isSome || (divide i).isSome || (lane2 i).isSome || (lane1 i).isSome ||
    (lane3 i).isSome || (compare i).isSome || (perm2 i).isSome || (slide i).isSome || (reduction i).isSome ||
    (conversion i).isSome ||
    match i with
    | .ldi .. | .nop | .scnt .. | .sstat .. | .vsin .. | .vcos .. | .vsel .. | .vswp .. | .mand .. | .mor .. | .mxor ..
    | .mnot .. | .mpopc .. | .mfirst .. | .mget .. | .mset .. | .vldi .. | .vmovg .. | .vext .. | .vins .. => true
    | _ => false

end Sys2Proof.Claims

section
open Sys2Proof Sys2Proof.Machine Sys2Proof.Claims

/-! ### Encoding -/

/-- Every core word (R31-R51) and every switch word (R52-R54) survives encoding and decoding, as the bytes it stands as
in memory. -/
def Obligations.WordsRoundTrip : Prop :=
  (∀ i : Instr, i.isCore = true → i.wf = true → decodeBytes (leBytes 4 (encode i)) = .ok (i, [])) ∧
  ∀ i : Instr, i.isSwitch = true → i.wf = true → decodeSwitchBytes (leBytes 8 (encode i)) = .ok (i, [])

/-- Each of the 2^32 core words that is accepted at all stands for one well-formed core instruction and is its encoding,
and so does each switch word: none with a reserved field set, or with a value beyond its limit, is taken for a neighbour
(R49, R55). -/
def Obligations.WordsUnique : Prop :=
  (∀ w i, w < 2 ^ 32 → decodeCore w = .ok i → i.isCore = true ∧ i.wf = true ∧ encode i = w) ∧
  ∀ w i, w < 2 ^ 64 → decodeSwitch w = .ok i → i.isSwitch = true ∧ i.wf = true ∧ encode i = w

/-- Words written out from the encoding tables decode to the instructions they stand for: `add g3, g4, g5`;
`addi g3, g4, -1`; `ldl.w.s g3, 8(g4)`; `vadd.f32 v1, v2, v3, m0`; nop, yield and brk as R121 gives them; the return
`jalr g0, 0(g23)` of R108; all zeros and all ones are illegal (R49). -/
def Obligations.SpecWordsDecode : Prop :=
  decodeCore (0x01 * 2 ^ 26 + 3 * 2 ^ 21 + 4 * 2 ^ 16 + 5 * 2 ^ 11) = .ok (.add 3 4 5) ∧
  decodeCore (0x02 * 2 ^ 26 + 3 * 2 ^ 21 + 4 * 2 ^ 16 + 0xFFFF) = .ok (.addi 3 4 0xFFFF) ∧
  decodeCore (0x18 * 2 ^ 26 + 3 * 2 ^ 21 + 4 * 2 ^ 16 + 2 * 2 ^ 14 + 2 ^ 13 + 2) = .ok (.ldl .w true 3 4 2) ∧
  decodeCore (0x20 * 2 ^ 26 + 1 * 2 ^ 21 + 2 * 2 ^ 16 + 3 * 2 ^ 11) = .ok (.vaddFp .f32 1 2 3 0) ∧
  decodeCore 0x5C000000 = .ok .nop ∧ decodeCore 0x5C000002 = .ok .yield ∧ decodeCore 0x5C000003 = .ok .brk ∧
  decodeCore 0x50170000 = .ok (.jalr 0 23 0) ∧
  (∃ e, decodeCore 0 = .error e) ∧ (∃ e, decodeCore 0xFFFFFFFF = .error e) ∧ (∃ e, decodeSwitch 0 = .error e)

/-! ### The step -/

/-- The order of a step: an event that waits is taken first; then the next slot of the cycle; then the clock turns, the
events put off are asked again and the slots of the new cycle are lined up. What rests on the model's own choice or
reading is log entries 1 and 14. -/
def Obligations.StepOrder : Prop :=
  ∀ s : State,
    (∀ i r, s.inputs = i :: r → step s = exec i { s with inputs := r }) ∧
    (∀ k r, s.inputs = [] → s.todo = k :: r → step s = runSlot k { s with todo := r }) ∧
    (s.inputs = [] → s.todo = [] → step s = .next { s with
      now := s.now + 1, inputs := s.deferred, deferred := [], todo := slots { s with
        now := s.now + 1, inputs := s.deferred, deferred := [] } })

/-- A step runs the decoded instruction. In a strand's turn on a running tile the four bytes at its PC, if they decode to a
core instruction, are executed for that strand; a turn that changed the strand moves the rotation, counts the issue and ends
the tile's turns of the cycle. Bytes that do not decode are the illegal-instruction event of their word (R49). A running
engine's and a management hart's instructions are read from its microcode and program memory, the engine's unless it reads
ahead in that cycle (R303), the management hart's CYCLE advancing with it (R424); a switch word is read at SPC (R52). A
strand at an sbwait has its instruction executed in its late turn, at the end of the cycle, and an ssig takes the switch's
cycle before the other words (R172); a turn that only tries leaves the state but for the slots of the cycle. What rests on
the model's own choice or reading is log entries 14, 27, 61 and 87. -/
def Obligations.StepRunsDecoded : Prop :=
  ∀ (s : State) (rest : List SlotKind), s.inputs = [] →
    (∀ t k, (s.todo = .attempt t k :: rest ∧ rest.contains (.lateAttempt t k) = false) ∨ s.todo = .lateAttempt t k :: rest →
      tileRuns s t = true →
      (∀ i, decodeBytes (memBytes (s.tile t).imem (s.strandAt t k).r.pc.toNat 4) = .ok (i, []) →
        step s = mapNext (afterAttempt t k (s.strandAt t k)) (exec i { s with todo := rest, hart := .strand t k })) ∧
      (∀ e, decodeBytes (memBytes (s.tile t).imem (s.strandAt t k).r.pc.toNat 4) = .error e →
        step s = mapNext (afterAttempt t k (s.strandAt t k))
          (exec (.illegalInstruction (BitVec.ofNat 32 (memRead (s.tile t).imem (s.strandAt t k).r.pc.toNat 4)))
            { s with todo := rest, hart := .strand t k }))) ∧
    (∀ t i, s.todo = .engine t :: rest → tileRuns s t = true → (s.tile t).eng.ending = none →
      (s.tile t).eng.job.isSome = true → (s.tile t).eng.retake = [] →
      decodeBytes (memBytes (microcodeOf s (tileDie t)) (s.tile t).eng.r.pc.toNat 4) = .ok (i, []) →
      let u := readAhead i t (engineShows t { s with todo := rest })
      step s = if u.1 then .next u.2 else exec i { u.2 with hart := .engine t }) ∧
    (∀ d i, s.todo = .mgmt d :: rest → (s.die d).mgmt.running = true →
      decodeBytes (memBytes (programOf s d) (s.die d).mgmt.r.pc.toNat 4) = .ok (i, []) →
      step s = mapNext (fun u => u.modDie d tickDie) (exec i { s with todo := rest, hart := .mgmt d })) ∧
    (∀ t i, s.todo = .switch t :: rest → tileRuns s t = true → (s.tile t).sw.run ≠ .stopped →
      (s.tile t).sw.run ≠ .halted →
      decodeSwitchBytes (memBytes (s.tile t).smem (8 * (s.tile t).sw.spc) 8) = .ok (i, []) →
      step s = exec i { s with todo := rest, swTile := t }) ∧
    (∀ t b, s.todo = .signal t :: rest → tileRuns s t = true → (s.tile t).sw.run ≠ .stopped →
      (s.tile t).sw.run ≠ .halted →
      decodeSwitchBytes (memBytes (s.tile t).smem (8 * (s.tile t).sw.spc) 8) = .ok (.ssig b, []) →
      step s = exec (.ssig b) { s with todo := rest.filter (· != .switch t), swTile := t }) ∧
    ∀ t k a b, s.todo = .attempt t k :: rest → rest.contains (.lateAttempt t k) = true → tileRuns s t = true →
      decodeBytes (memBytes (s.tile t).imem (s.strandAt t k).r.pc.toNat 4) = .ok (.sbwait a b, []) →
      ∃ l, step s = .next { s with todo := l } ∧ (l = rest ∨ l = rest.filter fun c => !isAttempt t c || c == .lateAttempt t k)

/-- The machine never stops: every instruction word, operand value and coincidence of events has a defined outcome
(R9). -/
def Obligations.StepAlwaysGoesOn : Prop := ∀ s : State, ∃ t, step s = .next t

/-- Every step keeps the canonical form of HBM and host memory: addresses strictly rising, no byte listed that reads as
an unlisted one. What rests on the model's own choice or reading is log entry 4. -/
def Obligations.StepKeepsMemoryForm : Prop :=
  ∀ s t : State, Mem.wf s.mem = true → Mem.wf s.hostMem = true → step s = .next t →
    Mem.wf t.mem = true ∧ Mem.wf t.hostMem = true

/-- What reset leaves (R14, R16, R26, R357, R425, R436): no tile runs; memories are in canonical form; every strand's
general registers, vectors, masks but m0, handles, loop counts, FFLAGS, RMODE, FMT8 and trap state are zero or invalid,
m0 is all ones, and the PC of strand k is 4k; PBUDGET is 24,000,000 mW; the boot is still to run. That inputs is the
power-on event rests on log entry 2 (DEDUCED); the memories on log entry 4; the registers of a strand that holds no group,
of which R14, R16, R26 and R357 say only how a group's start leaves them, on log entry 6 (DESIGN CHOICE). -/
def Obligations.ResetState : Prop :=
  Mem.wf State.reset.mem = true ∧ Mem.wf State.reset.hostMem = true ∧ State.reset.inputs = [.powerOnBoot] ∧
  State.reset.power.pbudget = 24000000 ∧ State.reset.rot.stage = 0 ∧
  ∀ (t : TileNo) (k : Fin 8),
    (State.reset.tile t).running = false ∧ (State.reset.tile t).group = none ∧
    (State.reset.strandAt t k).r.pc = w64 (4 * k.val) ∧ (State.reset.strandAt t k).run = .notStarted ∧
    (∀ r : Reg, (State.reset.strandAt t k).r.g[r] = 0 ∧ (State.reset.strandAt t k).v[r] = 0) ∧
    (∀ m : Reg8, (State.reset.strandAt t k).m[m] = if m = 0 then BitVec.allOnes 64 else 0) ∧
    (∀ h : Reg8, ((State.reset.strandAt t k).r.h[h]).valid = false) ∧
    (∀ l : Fin 2, (State.reset.strandAt t k).r.lc[l] = 0) ∧ (State.reset.strandAt t k).inh = false ∧
    (State.reset.strandAt t k).fflags = 0 ∧ (State.reset.strandAt t k).rmode = 0 ∧ (State.reset.strandAt t k).fmt8 = 0

/-! ### Issue -/

/-- A hart that may not issue leaves the state exactly as it is, whatever core word it stands at: it is not running,
waits for a matrix instruction, a held or blocking access, or is inside a yield (R121, R158, R161, R222, R235). -/
def Obligations.HartThatWaitsDoesNothing : Prop :=
  ∀ i s, i.isCore = true → hartFree s = false → exec i s = .next s

/-- The illegal-instruction exception is decided before any operand is read: a free hart that does not admit the word,
or for which it is illegal now, takes the exception with the word in EVAL, whatever the operands; so does a word that
does not decode (R49-R51, R69, R126). -/
def Obligations.IllegalWordsTrap : Prop :=
  (∀ i s, i.isCore = true → hartFree s = true → (admits s i = false ∨ legalNow s i = false) →
    exec i s = .next (raiseAt .illegal (w64 (encode i)) s.regs.pc s)) ∧
  ∀ (w : W32) s, hartFree s = true →
    exec (.illegalInstruction w) s = .next (raiseAt .illegal (w.setWidth 64) s.regs.pc s)

/-- An instruction one of whose registers is still to be written, or whose queue lacks the words or the room, is held back:
the state stays exactly as it is (R98, R125, R165). One that is not held back and consumes a register whose residue does not
match raises the machine check at its own address, EVAL naming a register it consumes (R122, R153, R365); that it is the
first in operand order rests on log entry 90. -/
def Obligations.OperandsHoldBack : Prop :=
  ∀ i s, i.isCore = true → hartFree s = true → admits s i = true → legalNow s i = true →
    (operandsReady s (needOf i) = false → exec i s = .next s) ∧
    (operandsReady s (needOf i) = true → ∀ r, unsound s (needOf i) = some r →
      exec i s = .next (raiseAt .machineCheck (w64 (2 ^ 63 + r)) s.regs.pc s) ∧ r ∈ s.regs.residue ∧
      ((∃ g ∈ (needOf i).gs, g ≠ 0 ∧ boundTo s false g = none ∧ r = g.val) ∨
        ∃ v ∈ (needOf i).vs, boundTo s true v = none ∧ r = 32 + v.val))

/-! ### Exceptions -/

/-- A strand takes a trap that its handler can serve: EPC, ECAUSE and EVAL are written, INH is set, the PC goes to the
handler, it waits for no bank any more unless an access of it is under way, and nothing else of the machine changes (R358).
ECAUSE holds the code alone: a synchronous trap that is not nested. The codes are those of R356. -/
def Obligations.TrapVectors : Prop :=
  ([.illegal, .alignment, .bounds, .notPresent, .protection, .handleRevoked, .streamMisuse, .matrixMisuse, .decodeFault,
    .switchFault, .overrun, .nondeterminism, .machineCheck, .trap] : List Cause).map causeCode =
    [0x01, 0x02, 0x03, 0x04, 0x05, 0x06, 0x07, 0x08, 0x09, 0x0A, 0x0B, 0x0C, 0x0D, 0x0E] ∧
  ∀ (s : State) t k c v a, s.hart = .strand t k → c ≠ .machineCheck → (s.strandAt t k).inh = false →
    (s.strandAt t k).etvec.toNat % 4 = 0 → (s.strandAt t k).etvec.toNat ≤ 0xFFFC →
    raiseAt c v a s = (leavesBanks t k s).modStrand t k fun x => { x with
      epc := a &&& 0x1FFFC, ecause := w64 (causeCode c), eval := v, inh := true, r := { x.r with pc := x.etvec } }

/-- A trap that cannot be vectored ends the group: one taken while INH is set, which ECAUSE marks as nested, or one
whose ETVEC is misaligned or beyond instruction memory fails the launch with UNHANDLED_TRAP and the trap's ECAUSE, EPC
and EVAL; a machine check fails it with MACHINE_CHECK (R358, R359, R365). The trap registers hold the trap. A condition
on an engine hart ends its job with the ERR and EFAULT of R286, unless an error is already noted; on a management hart it
stops the program, writes MHVAL and MHSTAT with the address of the instruction that met the condition, and raises interrupt
cause POWER; one that an access of a hart so stopped meets afterwards changes neither (R424). The code of a store through a
read-only handle on an engine is the model's own choice, log entry 105. -/
def Obligations.UnservedExceptions : Prop :=
  (∀ (s : State) t k c v a, s.hart = .strand t k →
    let x := s.strandAt t k
    let e : W64 := w64 (causeCode c + if x.inh then 0x200 else 0)
    let s' := (leavesBanks t k s).modStrand t k fun x => { x with epc := a &&& 0x1FFFC, ecause := e, eval := v }
    (c ≠ .machineCheck → (x.inh = true ∨ x.etvec.toNat % 4 ≠ 0 ∨ 0xFFFC < x.etvec.toNat) →
      raiseAt c v a s = s'.failGroup t 0x10 e (a &&& 0x1FFFC) v k.val) ∧
    (c = .machineCheck → raiseAt c v a s = s'.failGroup t 0x13 0x0D (a &&& 0x1FFFC) v k.val)) ∧
  (∀ (s : State) t c v a, s.hart = .engine t →
    raiseAt c v a s = s.modTile t fun x => { x with eng := { x.eng with
      ending := some (if x.eng.ending = none ∨ x.eng.ending.any (fun e => e.1 == 0) = true then (match c with
        | .illegal => (1, a) | .alignment => (3, v) | .bounds => (4, v) | .notPresent => (5, v)
        | .protection => (5, v) | .nondeterminism => (6, w64 (bits (x.eng.job.getD 0).toNat 0 19))
        | .machineCheck => (8, v) | .trap => (9, v) | .handleRevoked => (10, v) | _ => (1, v))
        else x.eng.ending.getD (0, 0)) } }) ∧
  ∀ (s : State) d c v a, s.hart = .mgmt d →
    (c = .illegal ∨ c = .alignment ∨ c = .bounds ∨ c = .protection ∨ c = .machineCheck ∨ c = .trap) →
    let u := raiseAt c v a s
    if (s.die d).mgmt.running = false ∧ bit (s.die d).mgmt.mhstat.toNat 8 = true then u = s else (u.die d).mgmt.running = false ∧ (u.die d).mgmt.mhval = (if c = .illegal then a else v) ∧
    (u.die d).mgmt.mhstat = w64 ((match c with
        | .illegal => 1 | .alignment => 3 | .bounds => 4 | .protection => 5 | .machineCheck => 8 | _ => 9) + 2 ^ 8 +
      a.toNat % 2 ^ 16 * 2 ^ 16) ∧
    bit u.hub.irqcause 6 = true ∧ u.tiles = s.tiles

/-- trap takes the trap exception with its code in EVAL and its own address, and does not complete (R361). eret clears
INH, takes the PC from EPC and counts in ISSUED; an EPC beyond instruction memory raises bounds instead (R362, R120).
Nothing else changes. -/
def Obligations.TrapAndEret : Prop :=
  (∀ (s : State) (code : Fin 4096), Ready s (.trap code) {} →
    exec (.trap code) s = .next (raiseAt .trap (w64 code.val) s.regs.pc s)) ∧
  ∀ (s : State) t k, s.hart = .strand t k → Ready s .eret {} →
    ((s.strandAt t k).epc.toNat ≤ 0xFFFC → exec .eret s = .next (s.modStrand t k fun x => { x with
      inh := false, r := { x.r with pc := x.epc, issued := x.r.issued + 1 } })) ∧
    (0xFFFC < (s.strandAt t k).epc.toNat →
      exec .eret s = .next (raiseAt .bounds (s.strandAt t k).epc (s.strandAt t k).r.pc s))

/-- An asynchronous cause is delivered to a running, active strand with INH clear that waits for no matrix instruction,
access or walk: OVERRUN first, with EVAL the declared duration, then the switch fault, with EVAL = SWFAULT; its pending
bit clears and ECAUSE carries ASYNC (R187, R358-R360, R363). While INH is set nothing is delivered. -/
def Obligations.AsyncDelivery : Prop :=
  ∀ (s : State) t k,
    let x := s.strandAt t k
    ((s.tile t).running = true → x.run = .active → x.matrixWait = false → blocked x.r = false → x.r.held = none →
      x.inh = false → x.etvec.toNat % 4 = 0 → x.etvec.toNat ≤ 0xFFFC →
      (x.ovrpend = true → exec (.asyncTrapDelivery t k) s = .next ((leavesBanks t k s).modStrand t k fun x => { x with
        ovrpend := false, overran := true, epc := x.r.pc &&& 0x1FFFC, ecause := 0x10B
        eval := w64 (((s.tile t).group.map Group.dur).getD 0), inh := true, r := { x.r with pc := x.etvec } })) ∧
      (x.ovrpend = false → x.swpend = true →
        exec (.asyncTrapDelivery t k) s = .next ((leavesBanks t k s).modStrand t k fun x => { x with
          swpend := false, epc := x.r.pc &&& 0x1FFFC
          ecause := (if bits (s.tile t).sw.fault.toNat 11 4 = 4 ∨ bits (s.tile t).sw.fault.toNat 11 4 = 5 then 0x109
            else 0x10A)
          eval := (s.tile t).sw.fault, inh := true, r := { x.r with pc := x.etvec } }))) ∧
    (x.inh = true ∨ (x.ovrpend = false ∧ x.swpend = false) → exec (.asyncTrapDelivery t k) s = .next s)

/-! ### Completion and operands -/

/-- The end of an instruction that transfers no control (R13, R111, R120). It counts in ISSUED. At the end of an
open loop level, level 1 looked at first, a count above 1 is lowered and the PC goes back to the loop's first word;
otherwise the level becomes inactive. Then the PC advances to the next word, or, beyond the last word of instruction
memory, the bounds exception is raised there. -/
def Obligations.CompletionAndLoops : Prop :=
  ∀ s : State,
    let r := s.regs
    let ends (k : Fin 2) : Prop := r.lc[k] ≠ 0 ∧ r.pc + 4 = r.le[k]
    let back (k : Fin 2) : Prop := ends k ∧ 1 < r.lc[k].toNat
    (back 1 → complete s = s.modRegs fun r => { r with
      issued := r.issued + 1, pc := r.lb[1], lc := r.lc.set 1 (r.lc[1] - 1) }) ∧
    (¬back 1 → back 0 → complete s = s.modRegs fun r => { r with
      issued := r.issued + 1, pc := r.lb[0]
      lc := (if ends 1 then r.lc.set 1 0 else r.lc).set 0 (r.lc[0] - 1) }) ∧
    (¬back 1 → ¬back 0 →
      let s' := s.modRegs fun r => { r with
        issued := r.issued + 1
        lc := if ends 0 then (if ends 1 then r.lc.set 1 0 else r.lc).set 0 0 else if ends 1 then r.lc.set 1 0 else r.lc }
      (NotLast s → complete s = s'.modRegs fun r => { r with pc := r.pc + 4 }) ∧
      (¬NotLast s → complete s = raiseAt .bounds (r.pc + 4) (r.pc + 4) s'))

/-- Reading and writing general registers (R14, R99, R164, R165). g0 reads 0 and a write of it is discarded. Another
register that is not bound reads what it holds, and after a write it holds the value, ready after the latency and with a
residue that matches (log entry 90), all others as before. A read of g24-g31 bound to queue q takes the word at the queue's
head; a write appends a word to the output queue, which the drain may take after the latency and no earlier than the words
before it. SSTAT after a read of a bound general register, the first of its instruction: H, E and the position of the word,
the queue, POP set, VEC, H2 and E2 clear (R166). Wherever a result goes, the hart notes the cycle by which it is written
(R118). -/
def Obligations.GeneralRegisterOperands : Prop :=
  (∀ (s : State) (r : Reg) (seen : Bool) (v : W64) (lat : Nat),
    (popG seen 0 s).1 = 0 ∧ writeG 0 v lat s = resultBy (s.cyc + lat) s ∧
    (boundTo s false r = none → r ≠ 0 →
      popG seen r s = (s.regs.g[r], seen, s) ∧
      writeG r v lat s = resultBy (s.cyc + lat) (s.modRegs fun x => { x with
        g := x.g.set r v, gReady := x.gReady.set r (s.cyc + lat), residue := x.residue.filter (· != r.val) })) ∧
    ∀ q, boundTo s false r = some q →
      (∀ e rest, s.myTile.inQ[q] = e :: rest →
        (popG seen r s).1 = e.word ∧ (popG seen r s).2.2.myTile.inQ[q] = rest ∧
        ∀ p, p ≠ q → (popG seen r s).2.2.myTile.inQ[p] = s.myTile.inQ[p]) ∧
      ∃ e : QEntry, (writeG r v lat s).myTile.outQ[q] = s.myTile.outQ[q] ++ [e] ∧ e.word = v ∧ e.pending = none ∧
        s.cyc + lat ≤ e.from_ ∧ (∀ l, s.myTile.outQ[q].getLast? = some l → l.from_ ≤ e.from_) ∧
        (writeG r v lat s).regs.g = s.regs.g ∧
        ∀ p, p ≠ q → (writeG r v lat s).myTile.outQ[p] = s.myTile.outQ[p]) ∧
  ∀ (s : State) (r : Reg) (q : Fin 8) (e : QEntry) rest, boundTo s false r = some q → s.myTile.inQ[q] = e :: rest →
    e.pos < 4 →
    let v := (popG false r s).2.2.me.sstat
    v.getLsbD 0 = e.h ∧ v.getLsbD 1 = e.e ∧ bits v.toNat 2 3 = 0 ∧ bits v.toNat 5 2 = e.pos ∧
      bits v.toNat 8 3 = q.val ∧ v.getLsbD 15 = true

/-- Vector and mask registers (R14, R165): an unbound vector register reads what it holds and holds what was written; a
bound one takes eight words, word j at bits [64j + 63 : 64j], and pushes eight in the same order. m0 reads all ones and
is fixed; another mask holds what was written. -/
def Obligations.VectorAndMaskOperands : Prop :=
  ∀ (s : State) (r : Reg) (m : Reg8) (seen : Bool) (v : V512) (w : W64) (lat : Nat),
    readM s 0 = BitVec.allOnes 64 ∧ writeM 0 w lat s = resultBy (s.cyc + lat) s ∧
    (m ≠ 0 → readM s m = s.me.m[m] ∧ (hartIsStrand s.hart = true → readM (writeM m w lat s) m = w)) ∧
    (boundTo s true r = none →
      popV seen r s = (s.me.v[r], seen, s) ∧ (hartIsStrand s.hart = true → (writeV r v lat s).me.v[r] = v)) ∧
    ∀ q, boundTo s true r = some q →
      (∀ (ws : Vector QEntry 8) rest, s.myTile.inQ[q] = ws.toList ++ rest →
        (∀ j : Fin 8, (popV seen r s).1.extractLsb' (64 * j.val) 64 = ws[j].word) ∧
        (popV seen r s).2.2.myTile.inQ[q] = rest) ∧
      ∃ es : Vector QEntry 8, (writeV r v lat s).myTile.outQ[q] = s.myTile.outQ[q] ++ es.toList ∧
        ∀ j : Fin 8, es[j].word = v.extractLsb' (64 * j.val) 64 ∧ s.cyc + lat ≤ es[j].from_ ∧ es[j].pending = none

/-! ### Scalar arithmetic -/

/-- Every alu form with two sources takes them in operand order and writes the exact result of R102 with the
latency of R100, then completes: in every form, bound registers, g0 and loop ends among them. -/
def Obligations.AluTwoSources : Prop :=
  ∀ i d a b lat f, alu2 i = some (d, a, b, lat, f) → ∀ s, Ready s i { gs := [a, b], gd := some d } →
    exec i s = .next (complete (writeG d (f (src2 a b s).1 (src2 a b s).2.1) lat (src2 a b s).2.2))

/-- The unary alu forms and the immediate forms write the exact result of R102 or R105 with latency 1, ldi its
sign-extended immediate; bfx, bfi and sel read gd as their third source, on which bfx's
result does not depend (R37, R103). -/
def Obligations.AluOtherForms : Prop :=
  (∀ i d a f, alu1 i = some (d, a, f) → ∀ s, Ready s i { gs := [a], gd := some d } →
    exec i s = .next (complete (writeG d (f (src1 a s).1) 1 (src1 a s).2))) ∧
  (∀ d (imm : BitVec 16) s, Ready s (.ldi d imm) { gd := some d } →
    exec (.ldi d imm) s = .next (complete (writeG d (BitVec.ofInt 64 imm.toInt) 1 s))) ∧
  ∀ i d a b f, alu3 i = some (d, a, b, f) → ∀ s, Ready s i { gs := [a, b, d], gd := some d } →
    exec i s = .next (complete (writeG d (f (src3 a b d s).1 (src3 a b d s).2.1 (src3 a b d s).2.2.1) 1
      (src3 a b d s).2.2.2))

/-- The divisions truncate toward zero and never trap: by zero the quotient is all ones and the remainder the dividend,
and the most negative number by -1 gives itself and 0 (R104). A strand's division holds its tile's divider for 24 cycles
and waits while it is held (R100, R101). That a division of an engine or management hart neither waits for a tile's divider nor
holds it is the model's own inference, log entry 97. The division results of R104 as numbers. -/
def Obligations.Divisions : Prop :=
  (∀ i d a b f, divide i = some (d, a, b, f) → ∀ s, Ready s i { gs := [a, b], gd := some d } →
    ((hartIsStrand s.hart = true → s.myTile.dividerUntil ≤ s.cyc) →
      let s' := if hartIsStrand s.hart then s.modMyTile fun x => { x with dividerUntil := s.cyc + 24 } else s
      exec i s = .next (complete (writeG d (f (src2 a b s').1 (src2 a b s').2.1) 24 (src2 a b s').2.2))) ∧
    (hartIsStrand s.hart = true → s.cyc < s.myTile.dividerUntil → exec i s = .next s)) ∧
  ∀ x y : W64,
    (y = 0 → divWord x y = BitVec.allOnes 64 ∧ divNWord x y = BitVec.allOnes 64 ∧ remWord x y = x ∧ remNWord x y = x) ∧
    (x = 0x8000000000000000 → y = BitVec.allOnes 64 → divWord x y = 0x8000000000000000 ∧ remWord x y = 0) ∧
    (y ≠ 0 → ¬(x = 0x8000000000000000 ∧ y = BitVec.allOnes 64) →
      (divWord x y).toInt = x.toInt.tdiv y.toInt ∧ (remWord x y).toInt = x.toInt - (divWord x y).toInt * y.toInt) ∧
    (y ≠ 0 → (divNWord x y).toNat = x.toNat / y.toNat ∧ (remNWord x y).toNat = x.toNat - (divNWord x y).toNat * y.toNat)

/-- What an instruction that computes leaves unchanged when it issues and the next word lies inside instruction memory:
every byte of every memory, every other hart, and of its own every register but the destination (R102, R124, R158). -/
def Obligations.ComputeFrames : Prop :=
  ∀ i s t, computes i = true → Ready s i (needOf i) → legalNow s i = true → NotLast s → exec i s = .next t →
    ComputeFrame (needOf i) s t

end

namespace Sys2Proof.Claims
open Sys2Proof.Machine

/-! ### Control and memory -/

/-- A branch or jump target: `n` words from the instruction (R35). -/
def targetOf (pc : W64) (off : Int) : W64 := BitVec.ofInt 64 (pc.toNat + 4 * off)

/-- A base plus a signed offset, modulo 2^64 (R114, R139, R242). -/
def plusOffset (x : W64) (off : Int) : W64 := BitVec.ofInt 64 (x.toNat + off)

/-- The condition of a branch on two values (R106). -/
def branchTaken (c : Cond) (x y : W64) : Prop :=
  match c with
  | .eq => x = y
  | .ne => x ≠ y
  | .lt => x.toInt < y.toInt
  | .ge => y.toInt ≤ x.toInt
  | .ltN => x.toNat < y.toNat
  | .geN => y.toNat ≤ x.toNat

/-- A transfer of control to an address in instruction memory, counted in ISSUED (R106-R108, R120). -/
def goTo (a : W64) (s : State) : State := s.modRegs fun r => { r with pc := a, issued := r.issued + 1 }

/-- A loop level opened at the instruction that ends at `pc + 4` (R110). -/
def opened (k : Fin 2) (count e : W64) (r : Regs) : Regs :=
  { r with lb := r.lb.set k (r.pc + 4), le := r.le.set k e, lc := r.lc.set k count }

/-- A value of `8n` bits, sign-extended or zero-extended (R114). -/
def extended (sx : Bool) (n m : Nat) : W64 := if sx then BitVec.ofInt 64 ((m : Int).bmod (2 ^ (8 * n))) else w64 m

/-- The new value of an atomic operation on `w`-bit values, or none for a compare-and-swap that fails (R250). -/
def amoResult (op : AmoOp) (w m v c : Nat) (mode : RMode) : Option Nat :=
  let i (x : Nat) : Int := (BitVec.ofNat w x).toInt
  match op with
  | .add => some ((m + v) % 2 ^ w)
  | .min => some (if i m ≤ i v then m else v)
  | .max => some (if i m ≤ i v then v else m)
  | .minN => some (if m ≤ v then m else v)
  | .maxN => some (if m ≤ v then v else m)
  | .and => some (m &&& v)
  | .or => some (m ||| v)
  | .xor => some (m ^^^ v)
  | .swap => some v
  | .cas => if m = c then some v else none
  | .fadd => some (addF32 mode m v)

/-- Address of lane `i` of a gather or scatter of `n`-byte elements (R141). -/
def laneEa (n : Nat) (base : W64) (idx : V512) (i : Nat) : W64 :=
  BitVec.ofNat 64 (base.toNat + (idx.extractLsb' (8 * n * i) (8 * n)).toNat * n)

/-- The exception a lane's address raises: alignment before bounds (R141). -/
def eaFault (n : Nat) (ea : W64) : Option Cause :=
  if ea.toNat % n ≠ 0 then some .alignment else if 0x7FFFF < ea.toNat then some .bounds else none

/-- The gathers and scatters with their element size: true for a gather (R141). -/
def gathers : Instr → Option (Bool × Nat × Reg × Reg × Reg × Reg8)
  | .vgathW d a b x => some (true, 4, d, a, b, x)
  | .vgathH d a b x => some (true, 2, d, a, b, x)
  | .vgathB d a b x => some (true, 1, d, a, b, x)
  | .vscatW d a b x => some (false, 4, d, a, b, x)
  | .vscatH d a b x => some (false, 2, d, a, b, x)
  | .vscatB d a b x => some (false, 1, d, a, b, x)
  | _ => none

/-- A global access of a translated form: its virtual address, size, what it does at its target, its destination, and
its ordering bits rx, acq, rel (R140, R242). -/
structure GlobalForm where
  va : W64
  n : Nat
  kind : AccKind
  dst : Option (Bool × Reg)
  rx : Bool
  acq : Bool
  rel : Bool

/-- The accesses of ld, st, vld.g and vst.g as the state gives them (R140, R242). -/
def globalForm (s : State) : Instr → Option GlobalForm
  | .ld z rx acq d a imm =>
    some ⟨plusOffset (src1 a s).1 (imm.toInt * sizeBytes z), sizeBytes z, .load, some (false, d), rx, acq, false⟩
  | .st z rx rel d a imm =>
    some ⟨plusOffset (src2 a d s).1 (imm.toInt * sizeBytes z), sizeBytes z,
      .store (leBytes (sizeBytes z) (src2 a d s).2.1.toNat), none, rx, false, rel⟩
  | .vldG rx acq d a imm => some ⟨plusOffset (src1 a s).1 (imm.toInt * 64), 64, .load, some (true, d), rx, acq, false⟩
  | .vstG rx rel d a imm =>
    let p := popG false a s
    some ⟨plusOffset p.1 (imm.toInt * 64), 64, .store (leBytes 64 (popV p.2.1 d p.2.2).1.toNat), none, rx, false, rel⟩
  | _ => none

/-- The accesses of ldh and sth: the handle, and the offset in place of the address (R248). -/
def handleForm (s : State) : Instr → Option (Reg8 × GlobalForm)
  | .ldh z rx acq d h i imm =>
    some (h, ⟨plusOffset (src1 i s).1 (imm.toInt * sizeBytes z), sizeBytes z, .load, some (false, d), rx, acq, false⟩)
  | .sth z rx rel d h i imm =>
    some (h, ⟨plusOffset (src2 i d s).1 (imm.toInt * sizeBytes z), sizeBytes z,
      .store (leBytes (sizeBytes z) (src2 i d s).2.1.toNat), none, rx, false, rel⟩)
  | _ => none

/-- Whether a form writes. -/
def GlobalForm.writes (f : GlobalForm) : Bool := f.dst.isNone

/-- An access issues (R222, R242, R243): it is appended to the hart's outstanding ones with its address, size, order and
context. A strand's access to a target other than HBM stands alone and holds its instruction; any other instruction
completes. -/
def Issues (s t : State) (f : GlobalForm) (va : W64) (pa : Nat) (hd : Option (Fin 8)) : Prop :=
  let block := hartIsStrand s.hart && !inHbm pa f.n
  ∃ a : Access, t.regs.accesses = s.regs.accesses ++ [a] ∧ a.pc = s.regs.pc ∧ a.va = va ∧ a.pa = pa ∧ a.n = f.n ∧
    a.kind = f.kind ∧ a.relaxed = (f.rx && !block) ∧ a.acquire = f.acq ∧ a.blocking = block ∧ a.handle = hd ∧
    a.ctx = s.ctxOf s.hart ∧ a.post = none ∧
    (∀ r, f.dst = some (false, r) → boundTo s false r = none → a.dest = if r = 0 then .none else .g r) ∧
    (∀ r, f.dst = some (true, r) → boundTo s true r = none → a.dest = .v r) ∧
    (f.dst = none → a.dest = .none) ∧
    t.regs.g = s.regs.g ∧ t.me.v = s.me.v ∧ KeepsMemory s t ∧ KeepsOthers s t ∧
    (block = true → t.regs.pc = s.regs.pc ∧ t.regs.issued = s.regs.issued) ∧
    (block = false → NoLoopEnd s → t.regs.pc = s.regs.pc + 4 ∧ t.regs.issued = s.regs.issued + 1)

end Sys2Proof.Claims

section
open Sys2Proof Sys2Proof.Machine Sys2Proof.Claims

/-! ### Control -/

/-- j, jal and jalr (R107, R108, R99). The target is taken modulo 2^64; one beyond instruction memory raises bounds, and
for jalr a misaligned one raises alignment first; then nothing else happens. Otherwise the link, PC + 4, goes to g23 or
gd, and the PC to the target; jalr forms its target from the register as it stood. Their words are those of majors 0x10,
0x11 and 0x14. -/
def Obligations.Jumps : Prop :=
  (∀ off s, Ready s (.j off) {} →
    let t := targetOf s.regs.pc off.toInt
    exec (.j off) s = .next (if t.toNat ≤ pcLimit s.hart then goTo t s else raiseAt .bounds t s.regs.pc s)) ∧
  (∀ off s, Ready s (.jal off) { gd := some 23 } →
    let t := targetOf s.regs.pc off.toInt
    exec (.jal off) s = .next (if t.toNat ≤ pcLimit s.hart then goTo t (writeG 23 (s.regs.pc + 4) 1 s)
      else raiseAt .bounds t s.regs.pc s)) ∧
  (∀ off : BitVec 26, decodeCore (0x10 * 2 ^ 26 + off.toNat) = .ok (.j off) ∧
    decodeCore (0x11 * 2 ^ 26 + off.toNat) = .ok (.jal off)) ∧
  (∀ (d a : Reg) (imm : BitVec 16), decodeCore (0x14 * 2 ^ 26 + d.val * 2 ^ 21 + a.val * 2 ^ 16 + imm.toNat) =
    .ok (.jalr d a imm)) ∧
  ∀ d a (imm : BitVec 16) s, Ready s (.jalr d a imm) { gs := [a], gd := some d } →
    let t := plusOffset (src1 a s).1 imm.toInt
    exec (.jalr d a imm) s = .next (if t.toNat % 4 ≠ 0 then raiseAt .alignment t s.regs.pc s
      else if t.toNat ≤ pcLimit s.hart then goTo t (writeG d (s.regs.pc + 4) 1 (src1 a s).2)
      else raiseAt .bounds t s.regs.pc s)

/-- b compares by its condition; taken, it goes to its target, or raises bounds with nothing popped; not taken, it
completes, its target unchecked (R106). loop and loopi open a level with the count copied at entry; a count of 0 skips
the body, or raises bounds when its end lies beyond instruction memory, with the loop state unchanged (R110). A loop with
another count at the last word of instruction memory opens its level, counts, and raises bounds at the word after it, with
EPC and EVAL that address (R13). -/
def Obligations.BranchesAndLoops : Prop :=
  (∀ c a b (off : BitVec 13) s, Ready s (.b c a b off) { gs := [a, b] } →
    let t := targetOf s.regs.pc off.toInt
    let s' := (src2 a b s).2.2
    (branchTaken c (src2 a b s).1 (src2 a b s).2.1 →
      exec (.b c a b off) s = .next (if t.toNat ≤ pcLimit s.hart then goTo t s' else raiseAt .bounds t s.regs.pc s)) ∧
    (¬branchTaken c (src2 a b s).1 (src2 a b s).2.1 → exec (.b c a b off) s = .next (complete s'))) ∧
  ∀ (k : Fin 2) (body : Fin 8192) (s : State) (i : Instr) (n : Need) (count : W64) (s' : State),
    ((∃ a, i = .loop k a body ∧ n = { gs := [a] } ∧ count = w64 ((src1 a s).1.toNat % 2 ^ 32) ∧ s' = (src1 a s).2) ∨
      ∃ c : Fin 4096, i = .loopi k c body ∧ n = {} ∧ count = w64 c.val ∧ s' = s) → Ready s i n →
    let e := w64 (s.regs.pc.toNat + 4 + 4 * body.val)
    (count ≠ 0 → NotLast s → exec i s = .next (goTo (s.regs.pc + 4) (s'.modRegs (opened k count e)))) ∧
    (count ≠ 0 → ¬NotLast s → exec i s = .next (raiseAt .bounds (s.regs.pc + 4) (s.regs.pc + 4)
      (s'.modRegs fun r => { opened k count e r with issued := r.issued + 1 }))) ∧
    (count = 0 → e.toNat ≤ pcLimit s.hart → exec i s = .next (goTo e (s'.modRegs (opened k 0 e)))) ∧
    (count = 0 → pcLimit s.hart < e.toNat → exec i s = .next (raiseAt .bounds e s.regs.pc s))

/-- nop, yield and brk complete (R121): yield is not ready for the eight cycles after its issue; brk with debug enabled
halts a strand where it stands and queues a BRK record (KIND 16) with its address, and DBGRESUME completes it (R439).
retire traps while the strand holds a stream register, waits for its accesses, then retires the strand, which keeps its
PC (R29); it ends an engine's job without an error (R285) and stops a management hart (R424). -/
def Obligations.HintsAndRetire : Prop :=
  (∀ s, Ready s .nop {} → exec .nop s = .next (complete s)) ∧
  (∀ s, Ready s .yield {} → exec .yield s = .next (complete (s.modRegs fun r => { r with yieldUntil := s.cyc + 9 }))) ∧
  (∀ s, Ready s .brk {} →
    ((∀ t k, s.hart = .strand t k → (s.die (tileDie t)).dbgen = false) → exec .brk s = .next (complete s)) ∧
    (∀ t k, s.hart = .strand t k → (s.die (tileDie t)).dbgen = true →
      ∃ (u : State) (p : PendingRecord), exec .brk s = .next u ∧
        u.strandAt t k = { s.strandAt t k with run := .halted } ∧
        (u.die (tileDie t)).faultWait = (s.die (tileDie t)).faultWait ++ [p] ∧ p.hart = s.hart ∧
        bits p.record 32 8 = 16 ∧ bits p.record 64 64 = (s.strandAt t k).r.pc.toNat ∧ KeepsMemory s u)) ∧
  (∀ (s : State) t k, s.hart = .strand t k → Ready s .retire {} →
    ((∃ q : Fin 8, (s.tile t).binds[q] = some ⟨k, false⟩ ∨ (s.tile t).binds[q] = some ⟨k, true⟩) →
      exec .retire s = .next (raiseAt .streamMisuse 0 s.regs.pc s)) ∧
    ((∀ q : Fin 8, (s.tile t).binds[q] ≠ some ⟨k, false⟩ ∧ (s.tile t).binds[q] ≠ some ⟨k, true⟩) →
      exec .retire s = .next (if drained s then s.modStrand t k fun x => { x with
        run := .retired, r := { x.r with issued := x.r.issued + 1 } } else s))) ∧
  (∀ (s : State) t, s.hart = .engine t → Ready s .retire {} → ∃ u, exec .retire s = .next u ∧
    (u.tile t).eng.ending = some (0, 0) ∧ (u.tile t).eng.r.pc = (s.tile t).eng.r.pc) ∧
  ∀ (s : State) d, s.hart = .mgmt d → Ready s .retire {} →
    exec .retire s = .next (s.modDie d fun x => { x with mgmt := { x.mgmt with running := false } })

/-! ### Local memory -/

/-- ldl and vld.l (R114, R117, R139). The address is the base plus the scaled offset modulo 2^64; a misaligned one
raises alignment, one beyond local memory bounds, with EVAL the address and nothing else done; until its bank serves it,
the instruction has not issued and waits there. A word with an uncorrectable error raises the machine check with the
word's address (R122, R153, R366). Otherwise the little-endian bytes from the address, extended as asked, go to the
destination after 4 cycles. What changes is a computing instruction's frame. What rests on the model's own choice or
reading is log entries 17 and 90. -/
def Obligations.LocalLoads : Prop :=
  (∀ z sx d a imm s, (Instr.ldl z sx d a imm).wf = true → Ready s (.ldl z sx d a imm) { gs := [a], gd := some d } →
    drained s = true →
    let n := sizeBytes z
    let ea := plusOffset (src1 a s).1 (imm.toInt * n)
    let t := complete (writeG d (extended sx n (memRead s.myTile.lm ea.toNat n)) 4
      (src1 a (busyFor 1 (withBank ea.toNat 1 s))).2)
    (ea.toNat % n ≠ 0 → exec (.ldl z sx d a imm) s = .next (raiseAt .alignment ea s.regs.pc s)) ∧
    (ea.toNat % n = 0 → 0x7FFFF < ea.toNat → exec (.ldl z sx d a imm) s = .next (raiseAt .bounds ea s.regs.pc s)) ∧
    (ea.toNat % n = 0 → ea.toNat ≤ 0x7FFFF →
      (¬Served s ea.toNat → exec (.ldl z sx d a imm) s = .next (waitsAt ea.toNat s)) ∧
      (Served s ea.toNat →
        (∀ w, badIn s.myTile.badLm ea.toNat n = some w →
          exec (.ldl z sx d a imm) s = .next (raiseAt .machineCheck (w64 (4 * w)) s.regs.pc s)) ∧
        (badIn s.myTile.badLm ea.toNat n = none → exec (.ldl z sx d a imm) s = .next t))) ∧
    (NotLast s → ComputeFrame { gs := [a], gd := some d } s t)) ∧
  ∀ d a imm s, Ready s (.vldL d a imm) { gs := [a], vd := some d } → drained s = true →
    let ea := plusOffset (src1 a s).1 (imm.toInt * 64)
    let t := complete (writeV d (BitVec.ofNat 512 (memRead s.myTile.lm ea.toNat 64)) 4
      (src1 a (busyFor 1 (withBank ea.toNat 1 s))).2)
    (ea.toNat % 64 ≠ 0 → exec (.vldL d a imm) s = .next (raiseAt .alignment ea s.regs.pc s)) ∧
    (ea.toNat % 64 = 0 → 0x7FFC0 < ea.toNat → exec (.vldL d a imm) s = .next (raiseAt .bounds ea s.regs.pc s)) ∧
    (ea.toNat % 64 = 0 → ea.toNat ≤ 0x7FFC0 →
      (¬Served s ea.toNat → exec (.vldL d a imm) s = .next (waitsAt ea.toNat s)) ∧
      (Served s ea.toNat →
        (∀ w, badIn s.myTile.badLm ea.toNat 64 = some w →
          exec (.vldL d a imm) s = .next (raiseAt .machineCheck (w64 (4 * w)) s.regs.pc s)) ∧
        (badIn s.myTile.badLm ea.toNat 64 = none → exec (.vldL d a imm) s = .next t))) ∧
    (NotLast s → ComputeFrame { gs := [a], vd := some d } s t)

/-- stl and vst.l (R114, R116, R139, R182): the same checks and the same wait for the bank; then the low bytes of the
register stand at the address, every other byte of every memory reads as before, a valid side-information entry whose range
the bytes touch is cleared and every other entry kept, and no register changes. What rests on the model's own choice or
reading is log entry 17. -/
def Obligations.LocalStores : Prop :=
  ∀ (s : State) (i : Instr) (nd : Need) (n : Nat) (ea : W64) (v : Nat) (s' : State),
    ((∃ z d a imm, i = .stl z d a imm ∧ nd = { gs := [a, d] } ∧ n = sizeBytes z ∧
        ea = plusOffset (src2 a d s).1 (imm.toInt * n) ∧ v = (src2 a d s).2.1.toNat ∧
        s' = (src2 a d (busyFor 1 (withBank ea.toNat 1 s))).2.2) ∨
      ∃ d a imm, i = .vstL d a imm ∧ nd = { gs := [a], vs := [d] } ∧ n = 64 ∧
        ea = plusOffset (popG false a s).1 (imm.toInt * 64) ∧
        v = (popV (popG false a s).2.1 d (popG false a s).2.2).1.toNat ∧
        s' = (popV (popG false a s).2.1 d (popG false a (busyFor 1 (withBank ea.toNat 1 s))).2.2).2.2) →
    Ready s i nd → drained s = true →
    let t := complete (s'.modMyTile (tileStore ea.toNat (leBytes n v)))
    (ea.toNat % n ≠ 0 → exec i s = .next (raiseAt .alignment ea s.regs.pc s)) ∧
    (ea.toNat % n = 0 → 0x80000 < ea.toNat + n → exec i s = .next (raiseAt .bounds ea s.regs.pc s)) ∧
    (ea.toNat % n = 0 → ea.toNat + n ≤ 0x80000 →
      (¬Served s ea.toNat → exec i s = .next (waitsAt ea.toNat s)) ∧
      (Served s ea.toNat → exec i s = .next t)) ∧
    (NotLast s → ea.toNat % n = 0 → ea.toNat + n ≤ 0x80000 →
      (∀ j, j < n → memGet t.myTile.lm (ea.toNat + j) = BitVec.ofNat 8 (v / 2 ^ (8 * j))) ∧
      KeepsMemoryBut (hartTile s.hart) (fun a => ea.toNat ≤ a ∧ a < ea.toNat + n) s t ∧
      (∀ e : Fin 64, t.myTile.side[e] = { s.myTile.side[e] with
        valid := s.myTile.side[e].valid && !sideTouched ea.toNat n s.myTile.side[e] }) ∧
      KeepsOthers s t ∧ KeepsOwn none none none s t ∧ (Unbound s nd → KeepsQueues s t))

/-- The gathers and scatters (R141, R142). If an enabled lane's address is misaligned or out of range, the lowest such
lane's exception is raised with its address and nothing else is done. Otherwise a gather's enabled lanes receive their
elements and the others keep what the merge of R124 gives; a scatter stores the enabled lanes in increasing order. They
issue and go on granule by granule: in a cycle each bank, when it serves the strand, serves the lowest granule due there;
the last ends the access, and a gather's result follows after 4 cycles. Where no bank has two granules to serve and each
serves at once, all is done in the issue cycle. A word with an uncorrectable error that a gather reads, at its issue or in a
later cycle, raises the machine check, and the gather writes nothing (R153). One cycle of an access under way (R142, R265):
a bank serves the lowest granule due there when it is free and nobody has waited for longer than since the issue, its lanes
in increasing order, and is held for the cycle; otherwise nothing of memory or of the harts changes. What rests on the
model's own choice or reading is log entries 17 and 90. -/
def Obligations.GathersAndScatters : Prop :=
  (∀ i g n d a b x, gathers i = some (g, n, d, a, b, x) → ∀ s, Ready s i (needOf i) → drained s = true →
    let p := popG false a s
    let q := popV p.2.1 b p.2.2
    let m := readM s x
    let ea (j : Nat) : W64 := laneEa n p.1 q.1 j
    (∀ j c, j < 64 / n → m.getLsbD j = true → eaFault n (ea j) = some c →
      (∀ k, k < j → m.getLsbD k = true → eaFault n (ea k) = none) →
      exec i s = .next (raiseAt c (ea j) s.regs.pc s)) ∧
    ((∀ j, j < 64 / n → m.getLsbD j = true → eaFault n (ea j) = none) →
      let lanes : List (Nat × Nat) := ((List.range (64 / n)).filter fun j => m.getLsbD j).map fun j => (j, (ea j).toNat)
      let bad := lanes.findSome? fun e => badIn s.myTile.badLm e.2 n
      let r := popV q.2.1 d q.2.2
      let kept := (masked (8 * n) m (keepOf s d) fun _ => (0, 0)).1
      let held := reserve true d s.fresh ({ q.2.2 with fresh := s.fresh + 1 })
      (∀ w, g = true → bad = some w → exec i s = .next (raiseAt .machineCheck (w64 (4 * w)) s.regs.pc s)) ∧
      (g = true → bad = none →
        exec i s = .next (complete (startGather ⟨false, n, lanes, kept, held.1, s.cyc, s.regs.pc, none⟩ held.2))) ∧
      (g = false → exec i s = .next (complete (startGather ⟨true, n, lanes, r.1, .none, s.cyc, s.regs.pc, none⟩ r.2.2))) ∧
      ((g = true → bad = none) → (∀ e ∈ lanes, bankFree s.myTile e.2 = true) →
        (∀ w ∈ s.myTile.bankWait, w.party = partyOf s.hart) →
        (∀ e ∈ lanes, ∀ f ∈ lanes, bankOf e.2 = bankOf f.2 → e.2 / 64 = f.2 / 64) → NotLast s →
        ∃ t, exec i s = .next t ∧ t.me.gather = none ∧
          (g = true →
            let v := (masked (8 * n) m (keepOf s d) fun j => (memRead s.myTile.lm (ea j).toNat n, 0)).1
            (boundTo s true d = none → t.me.v[d] = v ∧ t.me.vReady[d] = s.cyc + 4) ∧
            (∀ o, boundTo s true d = some o → (∀ e ∈ s.myTile.outQ[o], e.pending = none) →
              ∃ es : Vector QEntry 8, t.myTile.outQ[o] = s.myTile.outQ[o] ++ es.toList ∧
                ∀ j : Fin 8, es[j].word = v.extractLsb' (64 * j.val) 64 ∧ es[j].pending = none ∧ es[j].from_ = s.cyc + 4) ∧
            ComputeFrame { gs := [a], vs := [b], vd := some d, ms := [x] } s t) ∧
          (g = false →
            KeepsMemoryBut (hartTile s.hart)
              (fun k => ∃ j, j < 64 / n ∧ m.getLsbD j = true ∧ (ea j).toNat ≤ k ∧ k < (ea j).toNat + n) s t ∧
            KeepsOthers s t ∧ KeepsOwn none none none s t ∧
            ∀ j, j < 64 / n → m.getLsbD j = true → (∀ k, j < k → k < 64 / n → m.getLsbD k = true → ea k ≠ ea j) →
              memRead t.myTile.lm (ea j).toNat n = laneAt (8 * n) r.1 j)))) ∧
  ∀ (x : Tile) (k : Fin 8) (j : Gather), x.strands[k].gather = some j →
    (∀ b : Fin 16,
      let due := (j.lanes.filter fun p => bankOf p.2 == b).map (·.2 / 64)
      (due = [] → serveBank k x b = x) ∧
      ∀ g, g ∈ due → (∀ h ∈ due, g ≤ h) →
        let ok : Prop := bankFree x (64 * g) = true ∧ (x.running = true → ∀ w ∈ x.bankWait, w.bank = b →
          w.party ≠ .strand k → w.since < j.since → stillWaits x w = false)
        let mine := j.lanes.filter fun p => p.2 / 64 == g
        let u := serveBank k x b
        (¬ok → u.strands = x.strands ∧ u.lm = x.lm ∧ u.bankUntil = x.bankUntil) ∧
        (ok → u.bankUntil = x.bankUntil.set b (x.cycle + 1) ∧
          ∃ j', u.strands = x.strands.set k { x.strands[k] with gather := some j' } ∧
            j'.lanes = j.lanes.filter (fun p => p.2 / 64 != g) ∧ j'.dest = j.dest ∧ j'.store = j.store ∧ j'.since = j.since ∧
            j'.pc = j.pc ∧ (j.store = true → j'.bad = j.bad) ∧
            (j.store = false → (∀ v, j.bad = some v → j'.bad = some v) ∧
              (j.bad = none → j'.bad = (mine.findSome? fun p => badIn x.badLm p.2 j.size).map fun w => w64 (4 * w))) ∧
            (j.store = false → u.lm = x.lm ∧ j'.data = mine.foldl (fun v p =>
              v ||| (BitVec.ofNat 512 (memRead x.lm p.2 j.size) <<< (8 * j.size * p.1))) j.data) ∧
            (j.store = true → j'.data = j.data ∧ u.lm = mine.foldl (fun m p =>
              memWrite m p.2 (leBytes j.size (laneAt (8 * j.size) j.data p.1))) x.lm))) ∧
    (j.lanes ≠ [] ∨ j.bad ≠ none → gatherEnds k x = x) ∧
    (∀ (s : State) t v, s.tile t = x → j.bad = some v → (∀ q id, j.dest ≠ .queue q id) →
      gatherFault t s k = onHart (.strand t k) (raiseAt .machineCheck v j.pc)
        (s.modStrand t k fun z => { z with gather := none })) ∧
    (j.lanes = [] → j.bad = none → (gatherEnds k x).strands[k].gather = none ∧ (gatherEnds k x).strands[k].r.accessFrom = x.cycle + 1 ∧
      (gatherEnds k x).lm = x.lm ∧
      ∀ r, j.dest = .v r → (gatherEnds k x).strands[k].v[r] = j.data ∧ (gatherEnds k x).strands[k].vReady[r] = x.cycle + 4)

/-- The atomic operations (R250). fadd under a deterministic queue raises NONDETERMINISM; then a misaligned address
raises alignment. The local form raises bounds beyond local memory and waits for its bank, which it holds for two cycles and
takes only when the matrix unit claims it in neither (R265); a claim that shows only in the second undoes the start, and it
asks again. At the end of the second it applies the operation in one step at the operands' width, and the old value is
there 6 cycles after the first; a failing compare-and-swap writes nothing; a word with an uncorrectable error raises the
machine check (R153).
The global form raises bounds for an address that is not canonical or a target that is neither HBM nor local memory;
without a cached translation it is held for a walk; else it issues as an unmarked access. What rests on the model's
own choice or reading is log entries 17, 18 and 90. -/
def Obligations.Atomics : Prop :=
  ∀ op dbl loc ord d a b s, Ready s (.amo op dbl loc ord d a b) (needOf (.amo op dbl loc ord d a b)) →
    drained s = true →
    let i : Instr := .amo op dbl loc ord d a b
    let n := if dbl then 8 else 4
    let o := amoOperands op d a b s
    let ea := o.1
    let v := o.2.1.toNat % 2 ^ (8 * n)
    let c := o.2.2.1.toNat % 2 ^ (8 * n)
    let frozen : Prop := op = .fadd ∧ deterministic s = true
    let served : Prop := Served s ea.toNat ∧ (nextClaim s.myTile).map bankOf ≠ some (bankOf ea.toNat)
    (frozen → exec i s = .next (raiseAt .nondeterminism 0 s.regs.pc s)) ∧
    (¬frozen → ea.toNat % n ≠ 0 → exec i s = .next (raiseAt .alignment ea s.regs.pc s)) ∧
    (¬frozen → ea.toNat % n = 0 → loc = true →
      (0x7FFFF < ea.toNat → exec i s = .next (raiseAt .bounds ea s.regs.pc s)) ∧
      (ea.toNat ≤ 0x7FFFF → ¬served → exec i s = .next (waitsAt ea.toNat s)) ∧
      (ea.toNat ≤ 0x7FFFF → served →
        (∀ w, badIn s.myTile.badLm ea.toNat n = some w →
          exec i s = .next (raiseAt .machineCheck (w64 (4 * w)) s.regs.pc s)) ∧
        (badIn s.myTile.badLm ea.toNat n = none →
          let u := (amoOperands op d a b (withBank ea.toNat 2 s)).2.2.2
          let held := reserve false d s.fresh { u with fresh := s.fresh + 1 }
          exec i s = .next (complete (held.2.modRegs fun r => { r with
            amo := some ⟨op, n, ea.toNat, v, c, s.me.rmode.toNat, held.1, s.regs.pc, s.cyc, s.cyc⟩ }))))) ∧
    (∀ h (j : LocalAmo), (s.regsOf h).amo = some j →
      let x := s.tile (hartTile h)
      let m := memRead x.lm j.addr j.n
      let u := s.modRegsOf h fun r => { r with amo := none, accessFrom := x.cycle + 1 }
      x.running = true →
      (j.start = x.cycle → amoCycle h s = s) ∧
      (j.start + 1 = x.cycle → matrixTook x j.addr = false →
        (∀ w, badIn x.badLm j.addr j.n = some w → (∀ q id, j.dest ≠ .queue q id) →
          amoCycle h s = onHart h (raiseAt .machineCheck (w64 (4 * w)) j.pc) u) ∧
        (badIn x.badLm j.addr j.n = none →
          amoCycle h s = putResult h j.dest (w64 m) (j.start + 6)
            (match amoResult j.op (8 * j.n) m j.v j.c (modeOf j.rm) with
              | some w => u.modTile (hartTile h) (tileStore j.addr (leBytes j.n w))
              | none => u))) ∧
      (j.start ≠ x.cycle → (j.start + 1 = x.cycle → matrixTook x j.addr = true) →
        ∃ c, (c = j.start ∨ c = x.cycle) ∧ ((amoCycle h s).regsOf h).amo = some { j with start := c } ∧
          KeepsMemory s (amoCycle h s))) ∧
    (¬frozen → ea.toNat % n = 0 → loc = false →
      (canonical ea = false → exec i s = .next (raiseAt .bounds ea s.regs.pc s)) ∧
      (canonical ea = true → (∀ k, s.hart ≠ .mgmt k) →
        (tlbFind s.myTile (s.ctxOf s.hart) ea true = none →
          ∃ t, exec i s = .next t ∧ HeldFor s t ea true) ∧
        ∀ e, tlbFind s.myTile (s.ctxOf s.hart) ea true = some e →
          let u := s.modMyTile fun x => tlbTouch x e
          let pa := tlbPa e ea
          (inHbm pa n = false → (windowTile pa = none ∨ lmSize ≤ windowOff pa) →
            exec i s = .next (raiseAt .bounds ea u.regs.pc u)) ∧
          ((inHbm pa n = true ∨ (windowTile pa ≠ none ∧ windowOff pa < lmSize)) → NotLast s → ∃ t, exec i s = .next t ∧
            Issues s t ⟨ea, n, .amo op v c s.me.rmode.toNat, some (false, d), false, ord == .acq || ord == .ar,
              ord == .rel || ord == .ar⟩ ea pa none)))

/-! ### Global memory -/

/-- ld, st, vld.g and vst.g (R140, R222, R230, R234, R235, R242, R243). A misaligned address raises alignment, then one
that is not canonical bounds. A strand or engine whose tile's translation cache lacks the page is held for a walk;
with the page, the access issues at its physical address; no write uses a cached page that is not writable and dirty (R234,
R240). A management hart's access to a frame of another key index raises bounds. What rests on the model's own choice or
reading is log entries 15, 16 and 34. -/
def Obligations.GlobalAccesses : Prop :=
  ∀ i (s : State) f, globalForm s i = some f → Ready s i (needOf i) → globalReady s f.rx f.rel = true →
    (f.va.toNat % f.n ≠ 0 → exec i s = .next (raiseAt .alignment f.va s.regs.pc s)) ∧
    (f.va.toNat % f.n = 0 → canonical f.va = false → exec i s = .next (raiseAt .bounds f.va s.regs.pc s)) ∧
    (f.va.toNat % f.n = 0 → canonical f.va = true → (∀ k, s.hart ≠ .mgmt k) →
      (tlbFind s.myTile (s.ctxOf s.hart) f.va f.writes = none →
        ∃ t, exec i s = .next t ∧ HeldFor s t f.va f.writes) ∧
      ∀ e, tlbFind s.myTile (s.ctxOf s.hart) f.va f.writes = some e → (f.writes = true → e.w = true ∧ e.dirty = true) ∧
        (NotLast s → (inHbm (tlbPa e f.va) f.n = true ∨ hartIsStrand s.hart = false ∨ drained s = true) →
          ∃ t, exec i s = .next t ∧ Issues s t f f.va (tlbPa e f.va) none)) ∧
    (f.va.toNat % f.n = 0 → canonical f.va = true → foreignFrame s f.va.toNat = true →
      exec i s = .next (raiseAt .bounds f.va s.regs.pc s)) ∧
    (f.va.toNat % f.n = 0 → canonical f.va = true → foreignFrame s f.va.toNat = false → NotLast s →
      ∀ k, s.hart = .mgmt k → ∃ t, exec i s = .next t ∧ Issues s t f f.va f.va.toNat none)

/-- ldh and sth (R248): an invalid handle raises HANDLE_REVOKED with its number, then an offset out of range bounds, a
misaligned physical address alignment, and a write through a read-only handle PROTECTION, each with EVAL the offset;
otherwise the access issues at PB plus the offset, with no walk, and reports the virtual base plus the offset as its address,
which is the model's reading (log entry 21). -/
def Obligations.HandleAccesses : Prop :=
  ∀ i (s : State) k f, handleForm s i = some (k, f) → Ready s i (needOf i) → globalReady s f.rx f.rel = true →
    let h := s.regs.h[k]
    let pa := h.pb + f.va.toNat
    (h.valid = false → exec i s = .next (raiseAt .handleRevoked (w64 k.val) s.regs.pc s)) ∧
    (h.valid = true → (h.len < f.n ∨ h.len - f.n < f.va.toNat) →
      exec i s = .next (raiseAt .bounds f.va s.regs.pc s)) ∧
    (h.valid = true → f.n ≤ h.len → f.va.toNat ≤ h.len - f.n →
      (pa % f.n ≠ 0 → exec i s = .next (raiseAt .alignment f.va s.regs.pc s)) ∧
      (pa % f.n = 0 → f.writes = true → h.w = false → exec i s = .next (raiseAt .protection f.va s.regs.pc s)) ∧
      (pa % f.n = 0 → (f.writes = true → h.w = true) → NotLast s →
        (inHbm pa f.n = true ∨ hartIsStrand s.hart = false ∨ drained s = true) →
        ∃ t, exec i s = .next t ∧ Issues s t f (h.vbase + f.va) pa (some k)))

/-- xlat, xrel and the fences (R246, R247, R252). xlat raises bounds for a base that is not canonical, waits for the
strand's accesses, is held for a walk without a cached page, raises bounds for a length of 0 or one that leaves the
page, and otherwise fills the handle. xrel waits for the accesses issued through the handle and makes it invalid. A
fence waits for the accesses of its scope, local ones among them, and then does nothing but complete. -/
def Obligations.HandlesAndFences : Prop :=
  (∀ k a b s, Ready s (.xlat k a b) { gs := [a, b] } →
    let base := (src2 a b s).1
    let y := (src2 a b s).2.1
    let len := y.toNat % 2 ^ 32
    let wr := y.getLsbD 32
    (canonical base = false → exec (.xlat k a b) s = .next (raiseAt .bounds base s.regs.pc s)) ∧
    (canonical base = true → drained s = false → exec (.xlat k a b) s = .next s) ∧
    (canonical base = true → drained s = true →
      (tlbFind s.myTile (s.ctxOf s.hart) base wr = none →
        ∃ t, exec (.xlat k a b) s = .next t ∧ HeldFor s t base wr) ∧
      ∀ e, tlbFind s.myTile (s.ctxOf s.hart) base wr = some e →
        ((len = 0 ∨ e.page + e.size < base.toNat % 2 ^ 57 + len) →
          exec (.xlat k a b) s = .next (raiseAt .bounds base s.regs.pc s)) ∧
        (len ≠ 0 → base.toNat % 2 ^ 57 + len ≤ e.page + e.size →
          exec (.xlat k a b) s = .next (complete (((src2 a b s).2.2.modMyTile fun x => tlbTouch x e).modRegs fun r => { r with
            h := r.h.set k { valid := true, w := wr, pb := tlbPa e base, len := len, vbase := base, page := e.page
                             pageSize := e.size, ctx := s.ctxOf s.hart } }))))) ∧
  (∀ k s, Ready s (.xrel k) {} →
    exec (.xrel k) s = .next (if s.regs.accesses.any (fun a => a.handle == some k) then s
      else complete (s.modRegs fun r => { r with h := r.h.set k { r.h[k] with valid := false } }))) ∧
  ∀ s i x, ((i, x) : Instr × Scope) ∈
      [(.fenceT, .t), (.fenceD, .d), (.fenceM, .m), (.fenceP, .p), (.fenceS, .s)] → Ready s i {} →
    exec i s = .next (if s.regs.accessFrom ≤ s.cyc ∧ s.me.sinj = none ∧ s.me.gather = none ∧ s.regs.amo = none ∧
      (∀ a ∈ s.regs.accesses, inScope s x a.pa = false) then complete s else s)

/-- What an outstanding access does when its turn comes (R221, R243, R259). A load from HBM returns the bytes that stand
there, zero-extended, to its register, and is outstanding no more; a store leaves its bytes there, every other byte of
HBM reading as before. An address that names no target raises bounds at the access's own instruction, with EVAL its
virtual address. A failed line raises MACHINE_CHECK (R366). A load whose response a failed link holds is performed and stays
outstanding with its bytes (R417). What rests on the model's own choice or reading is log
entry 15. -/
def Obligations.AccessesComplete : Prop :=
  ∀ (s : State) h a c, (s.regsOf h).accesses = [a] → a.post = none →
    (a.kind = .load → inHbm a.pa a.n = true → s.failedIn a.pa a.n = false → s.replyOpen (hartSite h) a.pa a.n = false →
      exec (.accessComplete h c) s = .next (s.modRegsOf h fun r => { r with
        accesses := [{ a with post := some [], answer := s.hbmBytes a.pa a.n }] })) ∧
    (a.kind = .load → inHbm a.pa a.n = true → s.failedIn a.pa a.n = false → s.replyOpen (hartSite h) a.pa a.n = true →
      exec (.accessComplete h c) s = .next (finishAccess h a (s.hbmBytes a.pa a.n) s) ∧
      ∀ t k, h = .strand t k → a.blocking = false →
        let u := finishAccess h a (s.hbmBytes a.pa a.n) s
        (u.strandAt t k).r.accesses = [] ∧
        (∀ r : Reg, a.dest = .g r → r ≠ 0 → (u.strandAt t k).r.g[r] = w64 (s.hbmRead a.pa a.n)) ∧
        (∀ r : Reg, a.dest = .v r → (u.strandAt t k).v[r] = BitVec.ofNat 512 (s.hbmRead a.pa a.n)) ∧ KeepsMemory s u) ∧
    (∀ bs, a.kind = .store bs → 0 < a.n → a.n ≤ 64 → bs.length = a.n → a.pa % a.n = 0 → inHbm a.pa a.n = true →
      s.failedIn a.pa a.n = false → s.hub.cuts = [] → s.postsOf a.pa a.n = [] → a.blocking = false → a.dest = .none →
      ∃ u, exec (.accessComplete h c) s = .next u ∧ (u.regsOf h).accesses = [] ∧ u.hbmBytes a.pa a.n = bs ∧
        ∀ p, (p < a.pa ∨ a.pa + a.n ≤ p) → u.hbmByte p = s.hbmByte p) ∧
    (inHbm a.pa a.n = false → paRange a.pa ≠ 0xF → windowTile a.pa = none → reachesBlock h a.pa = false →
      (∀ bs, a.kind = .store bs → bs.length = a.n) →
      exec (.accessComplete h c) s = .next (failAccess h a .bounds s)) ∧
    (a.kind = .load → inHbm a.pa a.n = true → s.failedIn a.pa a.n = true →
      exec (.accessComplete h c) s = .next (failAccess h a .machineCheck s))

end

namespace Sys2Proof.Claims
open Sys2Proof.Machine

/-! ### Lanes and matrix words -/

/-- A finite value in units of 2^q, for q at most its exponent. -/
def unitsOf (q : Int) (n : Bool) (m : Nat) (e : Int) : Int :=
  if n then -((m * 2 ^ (e - q).toNat : Nat) : Int) else (m * 2 ^ (e - q).toNat : Nat)

/-- Magnitude code `M` of a format in units of 2^q, codes beyond the largest finite one included (R71, R75, R76). -/
def magUnits (f : Fmt) (q : Int) (M : Nat) : Nat :=
  match magValue f false M with
  | .fin _ m e => m * 2 ^ (e - q).toNat
  | _ => 0

/-- `M` is the magnitude code of ± m × 2^e rounded once under a mode, the exponent unbounded above (R77): the nearest one
with ties to the even code, or the neighbour on the side the mode names. -/
def RoundsTo (f : Fmt) (mode : RMode) (neg : Bool) (m : Nat) (e : Int) (M : Nat) : Prop :=
  let q := min e (-1 - f.bias - f.tb)
  let v := m * 2 ^ (e - q).toNat
  let u := magUnits f q
  let down : Prop := u M ≤ v ∧ v < u (M + 1)
  let up : Prop := v ≤ u M ∧ (M ≠ 0 → u (M - 1) < v)
  match mode with
  | .rne => (M ≠ 0 → u (M - 1) + u M ≤ 2 * v ∧ (u (M - 1) + u M = 2 * v → M % 2 = 0)) ∧
      2 * v ≤ u M + u (M + 1) ∧ (2 * v = u M + u (M + 1) → M % 2 = 0)
  | .rna => (M ≠ 0 → u (M - 1) + u M ≤ 2 * v) ∧ 2 * v < u M + u (M + 1)
  | .rtz => down
  | .rup => if neg then down else up
  | .rdn => if neg then up else down

/-- Code `M` is not the exact value (R78). -/
def Differs (f : Fmt) (m : Nat) (e : Int) (M : Nat) : Prop :=
  let q := min e (-1 - f.bias - f.tb)
  magUnits f q M ≠ m * 2 ^ (e - q).toNat

/-- The value, rounded with the format's precision and an unbounded exponent, lies below the least normal magnitude
(R78). -/
def IsTiny (f : Fmt) (mode : RMode) (neg : Bool) (m : Nat) (e : Int) : Prop :=
  let q := min e (-1 - f.bias - f.tb)
  let v := m * 2 ^ (e - q).toNat
  let least := 2 ^ (1 - f.bias - q).toNat
  let half := 2 ^ (-1 - f.bias - f.tb - q).toNat
  match mode with
  | .rne | .rna => v + half < least
  | .rtz => v < least
  | .rup => if neg then v < least else v + 2 * half ≤ least
  | .rdn => if neg then v + 2 * half ≤ least else v < least

/-- The exact sum of two values, rounded once: NaN, infinities, and the sign of an exact zero (R73, R78, R128). -/
def sumOf (f : Fmt) (mode : RMode) (a b : Machine.Num) : Nat × FFlags :=
  match a, b with
  | .nan, _ | _, .nan => (f.nanBits, 0)
  | .inf n, .inf n' => if n = n' then encodeF f false mode (.inf n) else (f.nanBits, 16)
  | .inf n, .fin .. | .fin .., .inf n => encodeF f false mode (.inf n)
  | .fin n m e, .fin n' m' e' =>
    let q := min e e'
    let z := unitsOf q n m e + unitsOf q n' m' e'
    encodeF f false mode (if z ≠ 0 then .fin (decide (z < 0)) z.natAbs q
      else .fin (if m = 0 ∧ m' = 0 ∧ n = n' then n else decide (mode = .rdn)) 0 0)

/-- The exact product of two values: 0 × ∞ is invalid (R78, R128). -/
def productOf (a b : Machine.Num) : Machine.Num × FFlags :=
  match a, b with
  | .nan, _ | _, .nan => (.nan, 0)
  | .inf n, .inf n' => (.inf (n != n'), 0)
  | .inf n, .fin n' m _ | .fin n' m _, .inf n => if m = 0 then (.nan, 16) else (.inf (n != n'), 0)
  | .fin n m e, .fin n' m' e' => (.fin (n != n') (m * m') (e + e'), 0)

/-- A value with its sign inverted where `on`. -/
def flipped (on : Bool) : Machine.Num → Machine.Num
  | .nan => .nan
  | .inf n => .inf (n != on)
  | .fin n m e => .fin (n != on) m e

/-- The constant P of R147, the exact sum of its three parts. -/
def pConst : Nat × Int := (0xC90FDA * 2 ^ 48 + 0xA22168 * 2 ^ 24 + 0xC23500, -71)

/-- The code of an f32 value ± m × 2^e rounded to nearest (R143). -/
def near32 (neg : Bool) (m : Nat) (e : Int) : Nat := (encodeF fmtF32 false .rne (.fin neg m e)).1

/-- `M` is the code of the root of m × 2^e, for e at least -300, rounded once to f32 under a mode (R151): a root lies between
two codes where the value lies between their squares. -/
def RootRounds (mode : RMode) (m : Nat) (e : Int) (M : Nat) : Prop :=
  let v := m * 2 ^ (e + 300).toNat
  let u := magUnits fmtF32 (-150)
  match mode with
  | .rne | .rna => (M ≠ 0 → (u (M - 1) + u M) ^ 2 ≤ 4 * v) ∧ 4 * v ≤ (u M + u (M + 1)) ^ 2
  | .rtz | .rdn => u M ^ 2 ≤ v ∧ v < u (M + 1) ^ 2
  | .rup => v ≤ u M ^ 2 ∧ (M ≠ 0 → u (M - 1) ^ 2 < v)

/-- The special values of a function of one lane (R144): a NaN, the infinities, the zeros, and the negative finite codes where
those are special. -/
def SpecialAre (f : Nat → Nat × FFlags) (top bottom zero negZero : Nat × FFlags) (below : Option (Nat × FFlags)) : Prop :=
  (∀ x, x < 2 ^ 32 → 0x7F800000 < x % 2 ^ 31 → f x = (0x7FC00000, 0)) ∧ f 0x7F800000 = top ∧ f 0xFF800000 = bottom ∧
  f 0 = zero ∧ f 0x80000000 = negZero ∧ ∀ r, below = some r → ∀ x, 0x80000000 < x → x < 0xFF800000 → f x = r

/-- One addition of the sum tree: under RDN every zero of the tree is -0 (R90, R91, R136). -/
def treeSum (f : Fmt) (mode : RMode) (a b : Nat × FFlags) : Nat × FFlags :=
  let r := sumOf f mode (decodeF f a.1) (decodeF f b.1)
  ((match mode, f.kind, decodeF f r.1 with
    | .rdn, .ieee, .fin _ 0 _ => 2 ^ (f.width - 1)
    | _, _, _ => r.1), a.2 ||| b.2 ||| r.2)

/-- Node `i` at height `k` of the sum tree over the lanes `x`: pairs (0, 1), (2, 3), ... (R90). -/
def treeNode (f : Fmt) (mode : RMode) (x : Nat → Nat) : Nat → Nat → Nat × FFlags
  | 0, i => (x i, 0)
  | k + 1, i => treeSum f mode (treeNode f mode x k (2 * i)) (treeNode f mode x k (2 * i + 1))

/-- `r` is ± m × 2^e rounded to an integer under a mode (R84). -/
def IntRounded (mode : RMode) (neg : Bool) (m : Nat) (e r : Int) : Prop :=
  let q := min e 0
  let z := unitsOf q neg m e
  let d : Int := 2 ^ (0 - q).toNat
  match mode with
  | .rne | .rna => 2 * (r * d - z) ≤ d ∧ 2 * (z - r * d) ≤ d ∧ ((2 * (r * d - z) = d ∨ 2 * (z - r * d) = d) → r % 2 = 0)
  | .rtz => if neg then r * d < z + d ∧ z ≤ r * d else r * d ≤ z ∧ z < r * d + d
  | .rup => z ≤ r * d ∧ r * d < z + d
  | .rdn => r * d ≤ z ∧ z < r * d + d

/-- A comparison as R132 gives it: only ne and unord hold of a NaN; integers compare as values. -/
def related (c : VCmp) (e : Elem) (x y : Nat) : Bool :=
  match e with
  | .flt f =>
    let o := cmpNum (decodeF f x) (decodeF f y)
    if decodeF f x = .nan ∨ decodeF f y = .nan then c == .ne || c == .unord
    else (c == .eq && o == .eq) || (c == .ne && o != .eq) || (c == .lt && o == .lt) || (c == .le && o != .gt)
  | .int w g =>
    let p := intValue w g x
    let q := intValue w g y
    (c == .eq && p == q) || (c == .ne && p != q) || (c == .lt && decide (p < q)) || (c == .le && decide (p ≤ q))

/-- The 64-bit value of a lane moved to a general register: sign-extended for a signed integer element (R92, R135). -/
def widened (e : Elem) (x : Nat) : W64 :=
  match e with
  | .int w true => BitVec.ofInt 64 (signedOf w x)
  | _ => w64 x

/-- A matrix word, with its general and its vector source (R45). -/
def matrixWord : Instr → Option (Option Reg × Option Reg)
  | .mma _ a .. | .mms _ a .. | .mlb a _ | .mst _ a _ | .mtag _ a => some (some a, none)
  | .mwrow _ v _ _ => some (none, some v)
  | .mlarm .. | .mlfree _ | .mrow .. | .mzero _ | .mwait | .mhdr .. => some (none, none)
  | _ => none

/-- Word `c` of row `r` of an accumulator block, as memory holds it (R193). -/
def accWord (x : Tile) (blk r c : Nat) : Nat := memRead x.acc (0x1000 * blk + 128 * r + 4 * c) 4

/-- The format codes of the operands of an mma or mms: the selectors of R45, or in header mode the header's (R70, R205). -/
def macCodes (fa fb : MatSel) (hd : Bool) (fmt8 hdr : Nat) : Nat × Nat :=
  let sel : MatSel → Nat
    | .bf16 => 1
    | .f16 => 2
    | .b8 => fmt8
    | .i8 => 0x30
    | .n8 => 0x31
  if hd then (hdr % 256, hdr % 256) else (sel fa, sel fb)

/-- A code that a matrix operand may have (R70, R206). -/
def macCode (c : Nat) : Prop := c ∈ [1, 2, 0x30, 0x31] ∨ (fmt8Of c).isSome = true

/-- Width of an element of a format code (R70). -/
def codeWidth (c : Nat) : Nat := if c ≤ 2 then 16 else 8

/-- The exact value of an element of a format code (R70-R76). -/
def codeValue (c x : Nat) : Machine.Num :=
  if c = 1 then decodeF fmtBf16 x
  else if c = 2 then decodeF fmtF16 x
  else if c = 0x30 then .fin (decide (128 ≤ x)) (signedOf 8 x).natAbs 0
  else if c = 0x31 then .fin false x 0
  else match fmt8Of c with
    | some f => decodeF f x
    | none => .nan

/-- The value of an E8M0 scale (R86). -/
def scaleValue (e : Nat) : Machine.Num := if e = 255 then .nan else .fin false 1 ((e : Int) - 127)

/-- Bits `[o + w - 1 : o]` of the data of a list of flits, counted from flit `n`; w divides 256. -/
def flitBits (l : List Flit) (n o w : Nat) : Nat :=
  (((l[n + o / 256]?).map Flit.data).getD 0).toNat / 2 ^ (o % 256) % 2 ^ w

/-- Natural value of `n` bytes of a list from an offset, little-endian. -/
def bytesAt (l : List Byte) (o n : Nat) : Nat :=
  ((List.range n).map fun i => (((l[o + i]?).getD 0) : Byte).toNat * 2 ^ (8 * i)).foldr (· + ·) 0

/-- The scaled element (i, k) of the A block as it was read (R195, R197). -/
def elemA (code : Nat) (sc : Bool) (a : List Byte) (i k : Nat) : Machine.Num :=
  let n := codeWidth code / 8
  let v := codeValue code (bytesAt a (64 * i + n * k) n)
  if sc then (productOf v (scaleValue (bytesAt a (2048 + 512 / codeWidth code / 32 * i + k / 32) 1))).1 else v

/-- The scaled element (k, c) of the B block in a latch: column c fills two data flits (R196, R197). -/
def elemB (code : Nat) (sc : Bool) (y : Latch) (k c : Nat) : Machine.Num :=
  let v := codeValue code (flitBits y.flits (1 + (y.size - 65)) (512 * c + codeWidth code * k) (codeWidth code))
  if sc then (productOf v (scaleValue (flitBits y.flits (1 + k / 32) (8 * c) 8))).1 else v

/-- The terms of an output element: the accumulator value and the products, each with the mark of a 0 × ∞ (R93, R205). -/
def macTerms (neg : Bool) (old : Machine.Num) (n : Nat) (a b : Nat → Machine.Num) : List (Machine.Num × Bool) :=
  (old, false) :: (List.range n).map fun k =>
    (flipped neg (productOf (a k) (b k)).1, decide ((productOf (a k) (b k)).2 = 16))

/-- The magnitude of a term lies below 2^k. -/
def below (k : Int) : Machine.Num → Prop
  | .fin _ m e => m * 2 ^ (e - k).toNat < 2 ^ (k - e).toNat
  | _ => False

/-- The magnitude of a term in units of 2^q, truncated, with its sign; and whether something was cut (R93). -/
def cutTo (q : Int) : Machine.Num → Int × Bool
  | .fin n m e =>
    let u := m * 2 ^ (e - q).toNat / 2 ^ (q - e).toNat
    ((if n then -(u : Int) else u), decide (m % 2 ^ (q - e).toNat ≠ 0))
  | _ => (0, false)

/-- `x` with the flags `fl` is the accumulation of R93 over the terms under a mode. -/
def MacIs (mode : RMode) (ts : List (Machine.Num × Bool)) (x : Nat) (fl : FFlags) : Prop :=
  let vs := ts.map (·.1)
  if Machine.Num.nan ∈ vs then x = 0x7FC00000 ∧ fl = if (Machine.Num.nan, false) ∈ ts then 0 else 16
  else if Machine.Num.inf false ∈ vs ∧ Machine.Num.inf true ∈ vs then x = 0x7FC00000 ∧ fl = 16
  else if Machine.Num.inf false ∈ vs then x = 0x7F800000 ∧ fl = 0
  else if Machine.Num.inf true ∈ vs then x = 0xFF800000 ∧ fl = 0
  else
    ((∀ v ∈ vs, ∃ n e, v = .fin n 0 e) → fl = 0 ∧ x =
      if (∀ v ∈ vs, numNeg v = true) ∨ (mode = .rdn ∧ ∃ v ∈ vs, numNeg v = true) then 0x80000000 else 0) ∧
    ∀ top : Int, (∀ v ∈ vs, below (top + 1) v) → (∃ v ∈ vs, ¬below top v) →
      let q := top - 50
      let s : Int := ((vs.map (cutTo q)).map (·.1)).foldr (fun x y => x + y) 0
      let sticky := vs.any fun v => (cutTo q v).2
      let mode' := if mode = .rne ∧ sticky = true then .rna else mode
      (s = 0 → x = (if mode = .rdn then 0x80000000 else 0) ∧ fl = if sticky then 1 else 0) ∧
      (s ≠ 0 → ∃ M, RoundsTo fmtF32 mode' (decide (s < 0)) s.natAbs q M ∧
        (M ≤ fmtF32.maxMag → x = signMag fmtF32 (decide (s < 0)) M ∧ fl.toNat < 4 ∧
          (fl.getLsbD 0 = true ↔ Differs fmtF32 s.natAbs q M ∨ sticky = true) ∧
          (fl.getLsbD 1 = true ↔ M ≠ 0 ∧ IsTiny fmtF32 mode (decide (s < 0)) s.natAbs q ∧
            (Differs fmtF32 s.natAbs q M ∨ sticky = true))) ∧
        (fmtF32.maxMag < M → fl = 5 ∧ x = signMag fmtF32 (decide (s < 0)) (match mode with
          | .rne | .rna => 0x7F800000
          | .rtz => fmtF32.maxMag
          | .rup => if s < 0 then fmtF32.maxMag else 0x7F800000
          | .rdn => if s < 0 then 0x7F800000 else fmtF32.maxMag)))

/-- All the flags of a list. -/
def flagsOf (l : List FFlags) : FFlags := l.foldr (· ||| ·) 0

/-- A matrix instruction reads word `w` of the accumulators (R205, R207, R208). -/
def readsAcc (i : Instr) (w : Nat) : Prop :=
  match i with
  | .mma c _ _ _ _ _ _ z | .mms c _ _ _ _ _ _ z => z = false ∧ w / 1024 = c.val
  | .mst c _ _ => w / 1024 = c.val
  | .mrow c _ row half => w / 16 = 64 * c.val + 2 * row.val + if half then 1 else 0
  | _ => False

/-- A matrix instruction ends in an exception (R213): the unit is free from the next cycle, the strand's trap registers
are written for the instruction's own word, the words it had popped stand at the heads of their queues again with SSTAT as
before, what it had reserved is released, the accumulators stay, and the latches are `y` and the local memory `m` (R165).
`vector`: the strand goes to its handler. -/
def MatLeaves (vector : Bool) (t : TileNo) (op : MatOp) (c : Cause) (v : W64) (y : Vector Latch 2) (m : Mem)
    (s u : State) : Prop :=
  let old := s.strandAt t op.strand
  (u.tile t).mx.run = none ∧ (u.tile t).mx.beginFrom = (s.tile t).cycle + 1 ∧ (u.tile t).mx.latch = y ∧
  (u.tile t).lm = m ∧ (u.tile t).acc = (s.tile t).acc ∧
  u.strandAt t op.strand = { old with
    matrixWait := false, epc := op.pc &&& 0x1FFFC, ecause := w64 (causeCode c), eval := v, inh := vector
    sstat := if op.popped = [] then old.sstat else op.sstat
    r := { old.r with pc := if vector then old.etvec else old.r.pc } } ∧
  (∀ q : Fin 8, (u.tile t).inQ[q] = (op.popped.filter (·.1 == q)).flatMap (·.2) ++ (s.tile t).inQ[q]) ∧
  ∀ q id, op.dest = .queue q id → (u.tile t).outQ[q] = (s.tile t).outQ[q].filter (·.pending != some id)

/-- A matrix instruction traps before it begins: no memory and no latch changes (R213, R358). -/
def MatTraps (t : TileNo) (op : MatOp) (c : Cause) (v : W64) (s u : State) : Prop :=
  MatLeaves true t op c v (s.tile t).mx.latch (s.tile t).lm s u

/-- The latches after the machine check of an executing instruction: an mlb's is free again, one that forwarded is full
(R213). -/
def latchesBack (r : MatRun) (y : Vector Latch 2) : Vector Latch 2 :=
  match r.op.instr with
  | .mlb _ l => y.set l { since := y[l].since }
  | .mma _ _ _ _ l .. | .mms _ _ _ _ l .. =>
    if r.fwd then y.set l { y[l] with st := .full, fwd := 0, inUse := false } else y
  | _ => y

/-- The local memory with the bytes that an executing instruction has replaced put back (R213). -/
def memoryBack (r : MatRun) (m : Mem) : Mem := r.undo.foldl (fun m p => memWrite m p.1 p.2) m

/-- A matrix instruction raises the machine check, with `q` left in the matrix queue (R213, R365): the trap registers are
written, and the group's launch fails. -/
def MatChecked (t : TileNo) (op : MatOp) (v : W64) (q : List MatOp) (y : Vector Latch 2) (m : Mem) (s u : State) : Prop :=
  ∃ w, MatLeaves false t op .machineCheck v y m s w ∧ (w.tile t).mx.queue = q ∧ w.hub = s.hub ∧ w.mem = s.mem ∧
    u = { (w.failGroup t 0x13 0x0D (op.pc &&& 0x1FFFC) v op.strand.val) with hart := s.hart }

/-- A strand's handler stands where a trap goes, and no trap is being handled (R356, R358). -/
def HandlerReady (s : State) (t : TileNo) (k : Fin 8) : Prop :=
  (s.strandAt t k).inh = false ∧ (s.strandAt t k).etvec.toNat % 4 = 0 ∧ (s.strandAt t k).etvec.toNat ≤ 0xFFFC

/-- Accesses reach a tile's window: its die is not halted, its cluster is ACTIVE, and it holds a group (R223, R378,
R432). -/
def TileOpen (s : State) (t : TileNo) : Prop :=
  (s.die (tileDie t)).halted = false ∧ (s.die (tileDie t)).clusters[clusterOf (tileIdx t)].st = 0 ∧
    (s.tile t).group.isSome = true

end Sys2Proof.Claims

section
open Sys2Proof Sys2Proof.Machine Sys2Proof.Claims

/-! ### Vectors -/

/-- The write mask (R68, R79, R123, R124): an enabled lane takes its result, modulo the element width, another keeps
what it held; a flag is raised exactly where an enabled lane raises it. -/
def Obligations.MaskedLanes : Prop :=
  ∀ w m keep f, w ∈ [8, 16, 32, 64] →
    (∀ j, j < 512 / w → laneAt w (masked w m keep f).1 j = if m.getLsbD j then (f j).1 % 2 ^ w else laneAt w keep j) ∧
    ∀ b, (masked w m keep f).2.getLsbD b = true ↔ ∃ j, j < 512 / w ∧ m.getLsbD j = true ∧ (f j).2.getLsbD b = true

/-- Every element-wise form applies its lane operation under its mask to sources taken in operand order, writes vd after
its latency, raises its flags and completes (R124, R127-R131, R143-R151): the forms of two, one and three sources, and
vsin and vcos, whose quadrant comes from vd. The floating lanes are the exact sum, difference, product or fused value,
rounded once, with the NaNs, infinities and zeros of R72, R73, R78 and R130; vmin and vmax are those of R74; vabs, vneg
and vcpysgn touch the sign alone, a zero of a signed binary8 format being 0x00, and in an unsigned format give what R129
lists. The special functions: the special values of R144; the interpolations of vrcp and vrsq over tables nearest to those of
R145 and R146; vredh and vquad by the integer nearest to x / P, and beyond 2^20 NaN and 0 (R147); vsin at infinities and at
zero (R148); vexp2 beyond its range, and its exact results at integers (R149); vlog2 at powers of two (R150); and vsqrt's root
correctly rounded (R151). What rests on the model's own choice or reading is log entries 24 and 25. -/
def Obligations.VectorLanewise : Prop :=
  (∀ i t cls lat d a b x f, lane2 i = some (t, cls, lat, d, a, b, x, f) → ∀ s e, elemOf t s.me.fmt8.toNat = some e →
    cls e = true → Ready s i { vs := [a, b], vd := some d, ms := [x] } →
    let p := popV false a s
    let q := popV p.2.1 b p.2.2
    let w := elemWidth e
    exec i s = .next (finishV d lat (masked w (readM s x) (keepOf s d) fun j =>
      f e (modeNow s) (laneAt w p.1 j) (laneAt w q.1 j)) q.2.2)) ∧
  (∀ i t cls lat d a x f, lane1 i = some (t, cls, lat, d, a, x, f) → ∀ s e, elemOf t s.me.fmt8.toNat = some e →
    cls e = true → Ready s i { vs := [a], vd := some d, ms := [x] } →
    let p := popV false a s
    let w := elemWidth e
    exec i s = .next (finishV d lat (masked w (readM s x) (keepOf s d) fun j =>
      f e (modeNow s) (laneAt w p.1 j)) p.2.2)) ∧
  (∀ i t d a b x f, lane3 i = some (t, d, a, b, x, f) → ∀ s e, elemOf t s.me.fmt8.toNat = some e → isFlt e = true →
    Ready s i { vs := [a, b, d], vd := some d, ms := [x] } →
    let p := popV false a s
    let q := popV p.2.1 b p.2.2
    let r := popV q.2.1 d q.2.2
    let w := elemWidth e
    exec i s = .next (finishV d 8 (masked w (readM s x) (keepOf s d) fun j =>
      f e (modeNow s) (laneAt w p.1 j) (laneAt w q.1 j) (laneAt w r.1 j)) r.2.2)) ∧
  (∀ i (turn : Nat) d a x, (i = .vsin d a x ∧ turn = 0 ∨ i = .vcos d a x ∧ turn = 1) → ∀ s,
    Ready s i { vs := [a, d], vd := some d, ms := [x] } →
    let p := popV false a s
    let q := popV p.2.1 d p.2.2
    exec i s = .next (finishV d 16 (masked 32 (readM s x) (keepOf s d) fun j =>
      sinLane (laneAt 32 p.1 j) ((laneAt 32 q.1 j + turn) % 4)) q.2.2)) ∧
  ∀ (f : Fmt) (mode : RMode) (x y z : Nat),
    let a := decodeF f x
    let b := decodeF f y
    let c := decodeF f z
    faddLane (.flt f) mode x y = sumOf f mode a b ∧ fsubLane (.flt f) mode x y = sumOf f mode a (flipped true b) ∧
    (let p := productOf a b
     let r := encodeF f false mode p.1
     fmulLane (.flt f) mode x y = (r.1, r.2 ||| p.2)) ∧
    (∀ negP negC, fmaLane negP negC (.flt f) mode x y z =
      if (productOf a b).2 = 16 then (f.nanBits, 16)
      else sumOf f mode (flipped negP (productOf a b).1) (flipped negC c)) ∧
    (∀ big : Bool, (fpickLane big (.flt f) mode x y).2 = 0 ∧
      (fpickLane big (.flt f) mode x y).1 =
        if a = .nan ∧ b = .nan then f.nanBits
        else if a = .nan then y
        else if b = .nan then x
        else if cmpNum a b = (if big then .lt else .gt) then y
        else if cmpNum a b = .eq ∧ numNeg a = big ∧ numNeg b = !big then y
        else x) ∧
    (a = .nan → (fabsLane (.flt f) mode x).1 = f.nanBits ∧ (fsgnLane (.flt f) mode x y).1 = f.nanBits ∧
      (fnegLane (.flt f) mode x).1 = f.nanBits) ∧
    (f ∈ [fmtF32, fmtBf16, fmtF16] → a ≠ .nan → x < 2 ^ f.width → y < 2 ^ f.width →
      let mag := x % 2 ^ (f.width - 1)
      fabsLane (.flt f) mode x = (mag, 0) ∧
      fnegLane (.flt f) mode x = (if mag = x then mag + 2 ^ (f.width - 1) else mag, 0) ∧
      fsgnLane (.flt f) mode x y = (if y < 2 ^ (f.width - 1) then mag else mag + 2 ^ (f.width - 1), 0)) ∧
    ((∃ p, f = fmtS8 p true ∨ f = fmtS8 p false) → a ≠ .nan → x < 256 → y < 256 →
      let mag := x % 128
      fabsLane (.flt f) mode x = (mag, 0) ∧
      fnegLane (.flt f) mode x = (if mag = 0 then 0 else if x = mag then mag + 128 else mag, 0) ∧
      fsgnLane (.flt f) mode x y = (if mag = 0 then 0 else if y < 128 then mag else mag + 128, 0)) ∧
    ((∃ p, f = fmtU8 p true ∨ f = fmtU8 p false) → x < 256 →
      fabsLane (.flt f) mode x = (x, 0) ∧ fsgnLane (.flt f) mode x y = (x, 0) ∧
      fnegLane (.flt f) mode x = if x = 0 then (0, 0) else if x = 0xFF then (0xFF, 0) else (0xFF, 16)) ∧
    (let nan : Nat × FFlags := (0x7FC00000, 16)
     SpecialAre rcpLane (0, 0) (0x80000000, 0) (0x7F800000, 8) (0xFF800000, 8) none ∧
     SpecialAre rsqLane (0, 0) nan (0x7F800000, 8) (0xFF800000, 8) (some nan) ∧
     SpecialAre (sqrtLane mode) (0x7F800000, 0) nan (0, 0) (0x80000000, 0) (some nan) ∧
     SpecialAre exp2Lane (0x7F800000, 0) (0, 0) (0x3F800000, 0) (0x3F800000, 0) none ∧
     SpecialAre log2Lane (0x7F800000, 0) nan (0xFF800000, 8) (0xFF800000, 8) (some nan)) ∧
    (∃ t r : Nat → Nat,
      (∀ j, j ≤ 64 → 2 * (t j * (64 + j)) ≤ 2 ^ 31 + (64 + j) ∧ 2 ^ 31 ≤ 2 * (t j * (64 + j)) + (64 + j)) ∧
      (∀ j, j ≤ 64 → let w := if j ≤ 32 then 32 + j else 2 * j
        (2 * r j - 1) ^ 2 * w ≤ 2 ^ 50 * 32 ∧ 2 ^ 50 * 32 ≤ (2 * r j + 1) ^ 2 * w) ∧
      ∀ n (g : Nat) (e : Int), g < 2 ^ 23 → -149 ≤ e → e ≤ 127 → x < 2 ^ 32 → decodeF fmtF32 x ≠ .nan →
        cmpNum (decodeF fmtF32 x) (.fin n (2 ^ 23 + g) (e - 23)) = .eq →
        (let j := g / 2 ^ 17
         (rcpLane x).1 = near32 n (t j - (t j - t (j + 1)) * (g % 2 ^ 17) / 2 ^ 17) (-24 - e)) ∧
        (n = false →
          let j := (if e % 2 = 0 then 0 else 32) + g / 2 ^ 18
          (rsqLane x).1 = near32 false (r j - (r j - r (j + 1)) * (g % 2 ^ 18) / 2 ^ 18) (-24 - e / 2))) ∧
    (x < 2 ^ 32 →
      (0x7F800000 < x % 2 ^ 31 → redhLane mode x = (0x7FC00000, 0) ∧ quadLane x = 0) ∧
      (0x49800000 < x % 2 ^ 31 → x % 2 ^ 31 ≤ 0x7F800000 → redhLane mode x = (0x7FC00000, 16) ∧ quadLane x = 0) ∧
      (x % 2 ^ 31 ≤ 0x49800000 → ∀ n m e, decodeF fmtF32 x = .fin n m e → mode ≠ .rna → ∃ q : Int,
        (let k := min e pConst.2
         let d := unitsOf k n m e - q * (pConst.1 * 2 ^ (pConst.2 - k).toNat : Nat)
         2 * d.natAbs ≤ pConst.1 * 2 ^ (pConst.2 - k).toNat) ∧
        quadLane x = (q % 4).toNat ∧
        redhLane mode x = if q = 0 then (x, 0)
          else sumOf fmtF32 mode (.fin n m e) (.fin (decide (0 < q)) (q.natAbs * pConst.1) pConst.2)) ∧
      (∀ q, 0x7F800000 < x % 2 ^ 31 → sinLane x q = (0x7FC00000, 0)) ∧
      (∀ q, x % 2 ^ 31 = 0x7F800000 → sinLane x q = (0x7FC00000, 16)) ∧
      (∀ q, x % 2 ^ 31 = 0 → sinLane x q = ((if q % 2 = 1 then (if q / 2 % 2 = 1 then 0xBF800000 else 0x3F800000)
        else if x = 0 ↔ q / 2 % 2 = 0 then 0 else 0x80000000), 0)) ∧
      (0x43000000 < x → x < 0x7F800000 → exp2Lane x = (0x7F800000, 5)) ∧
      (0xC3170000 < x → x < 0xFF800000 → exp2Lane x = (0, 3)) ∧
      (∀ n m e, mode ≠ .rna → 0 < m → decodeF fmtF32 x = .fin n m e → n = false →
        RootRounds mode m e (sqrtLane mode x).1 ∧
        (sqrtLane mode x).2 = if magUnits fmtF32 (-150) (sqrtLane mode x).1 ^ 2 = m * 2 ^ (e + 300).toNat then 0 else 1)) ∧
    (∀ k : Int, -149 ≤ k → k ≤ 127 →
      exp2Lane (near32 (decide (k < 0)) k.natAbs 0) = (near32 false 1 k, 0) ∧
      log2Lane (near32 false 1 k) = (near32 (decide (k < 0)) k.natAbs 0, 0))

/-- A format's codes survive decoding and encoding, in every rounding mode and exactly: the code of an exact value is
the code it was read from, and no flag is raised (R71-R77); a saturating encoding is asked for finite values only, since
it takes an infinity to the largest finite one (R82). Every finite value is rounded once to the nearest code, or to the
neighbour the mode names, and raises inexact, underflow and overflow by R78; overflow gives the infinity, the largest
finite value or a NaN by format, mode and .sat, and so do the infinities (R77, R82); a negative value entering an unsigned
format gives 0x00 where it rounds to zero, else 0xFF with invalid, or 0x00 under .sat (R83). Formats without a trailing
field, whose ties log entry 22 settles, are left out of the roundings. -/
def Obligations.FormatsRoundTrip : Prop :=
  ∀ (f : Fmt) (c x : Nat) (sat : Bool) (mode : RMode),
    (f ∈ [fmtF32, fmtBf16, fmtF16] ∨ fmt8Of c = some f) →
    (x < 2 ^ f.width → decodeF f x ≠ .nan → (sat = true → ∀ n, decodeF f x ≠ .inf n) →
      encodeF f sat mode (decodeF f x) = (x, 0)) ∧
    encodeF f sat mode .nan = (f.nanBits, 0) ∧
    (∀ neg, (f.kind = .unsigned8 → neg = false) → encodeF f sat mode (.inf neg) =
      if sat then ((signMag f neg f.maxMag, 1) : Nat × FFlags) else match f.infMag with
        | none => (f.nanBits, 16)
        | some i => (signMag f neg i, 0)) ∧
    (1 ≤ f.tb → mode ≠ .rna → ∀ neg m e, m ≠ 0 → ∃ M, RoundsTo f mode neg m e M ∧
      ((f.kind = .unsigned8 → neg = false) →
        let r := encodeF f sat mode (.fin neg m e)
        (M ≤ f.maxMag → r.1 = signMag f neg M ∧ (r.2.getLsbD 0 = true ↔ Differs f m e M) ∧
          (r.2.getLsbD 1 = true ↔ Differs f m e M ∧ IsTiny f mode neg m e) ∧ r.2.toNat < 4) ∧
        (f.maxMag < M → r = ((if sat then signMag f neg f.maxMag else match f.infMag with
          | none => f.nanBits
          | some i => signMag f neg (match mode with
            | .rne | .rna => i
            | .rtz => f.maxMag
            | .rup => if neg then f.maxMag else i
            | .rdn => if neg then i else f.maxMag)), (5 : FFlags)))) ∧
      (f.kind = .unsigned8 → neg = true → encodeF f sat mode (.fin neg m e) =
        if M = 0 then ((0, 3) : Nat × FFlags) else if sat then (0, 1) else (0xFF, 16)))

/-- The compares write a mask after 2 cycles: a bit below the lane count holds the comparison where the write mask
enables it, every other bit is zero (R132). The mask operations work on all 64 bits with latency 1: and, or, exclusive
or, complement, population count, the first set bit or 64, and moves (R133). -/
def Obligations.ComparesAndMasks : Prop :=
  (∀ i c t cls m a b x, compare i = some (c, t, cls, m, a, b, x) → ∀ s e, elemOf t s.me.fmt8.toNat = some e →
    cls e = true → Ready s i { vs := [a, b], ms := [x], md := some m } →
    let p := popV false a s
    let q := popV p.2.1 b p.2.2
    let w := elemWidth e
    exec i s = .next (complete (writeM m (ofBits fun j => decide (j < 512 / w) && (readM s x).getLsbD j &&
      related c e (laneAt w p.1 j) (laneAt w q.1 j)) 2 q.2.2))) ∧
  (∀ d a b s, Ready s (.mand d a b) { ms := [a, b], md := some d } → exec (.mand d a b) s = .next (complete
    (writeM d (ofBits fun j => (readM s a).getLsbD j && (readM s b).getLsbD j) 1 s))) ∧
  (∀ d a b s, Ready s (.mor d a b) { ms := [a, b], md := some d } → exec (.mor d a b) s = .next (complete
    (writeM d (ofBits fun j => (readM s a).getLsbD j || (readM s b).getLsbD j) 1 s))) ∧
  (∀ d a b s, Ready s (.mxor d a b) { ms := [a, b], md := some d } → exec (.mxor d a b) s = .next (complete
    (writeM d (ofBits fun j => (readM s a).getLsbD j != (readM s b).getLsbD j) 1 s))) ∧
  (∀ d a s, Ready s (.mnot d a) { ms := [a, a], md := some d } → exec (.mnot d a) s = .next (complete
    (writeM d (ofBits fun j => !(readM s a).getLsbD j) 1 s))) ∧
  (∀ d a s, Ready s (.mpopc d a) { ms := [a], gd := some d } → exec (.mpopc d a) s = .next (complete
    (writeG d (w64 ((List.range 64).filter fun j => (readM s a).getLsbD j).length) 1 s))) ∧
  (∀ d a s, Ready s (.mfirst d a) { ms := [a], gd := some d } → exec (.mfirst d a) s = .next (complete
    (writeG d (w64 (((List.range 64).find? fun j => (readM s a).getLsbD j).getD 64)) 1 s))) ∧
  (∀ d a s, Ready s (.mget d a) { ms := [a], gd := some d } →
    exec (.mget d a) s = .next (complete (writeG d (readM s a) 1 s))) ∧
  ∀ d a s, Ready s (.mset d a) { gs := [a], md := some d } →
    exec (.mset d a) s = .next (complete (writeM d (src1 a s).1 1 (src1 a s).2))

/-- The permutes and moves write each enabled lane as R134 and R135 say, the others keeping what they held, after 2
cycles, with no flag: two vectors; one vector and a count; vsel, whose mask selects between its sources; vswp; the
immediate and the register in every lane; vext, one lane to a register; vins, a register to one lane. -/
def Obligations.PermutesAndMoves : Prop :=
  (∀ i t d a b x f, perm2 i = some (t, d, a, b, x, f) → ∀ s e, elemOf t s.me.fmt8.toNat = some e →
    Ready s i { vs := [a, b], vd := some d, ms := [x] } →
    let p := popV false a s
    let q := popV p.2.1 b p.2.2
    let w := elemWidth e
    exec i s = .next (complete (writeV d (masked w (readM s x) (keepOf s d) fun j =>
      (f (512 / w) (laneAt w p.1) (laneAt w q.1) j, 0)).1 2 q.2.2))) ∧
  (∀ i t d a b x f, slide i = some (t, d, a, b, x, f) → ∀ s e, elemOf t s.me.fmt8.toNat = some e →
    Ready s i { vs := [a], gs := [b], vd := some d, ms := [x] } →
    let p := popV false a s
    let q := popG p.2.1 b p.2.2
    let w := elemWidth e
    exec i s = .next (complete (writeV d (masked w (readM s x) (keepOf s d) fun j =>
      (f (512 / w) q.1.toNat (laneAt w p.1) j, 0)).1 2 q.2.2))) ∧
  (∀ t d a b x s e, elemOf t s.me.fmt8.toNat = some e → Ready s (.vsel t d a b x) { vs := [a, b], vd := some d, ms := [x] } →
    let p := popV false a s
    let q := popV p.2.1 b p.2.2
    let w := elemWidth e
    exec (.vsel t d a b x) s = .next (complete (writeV d (ofLanes w ((List.range (512 / w)).map fun j =>
      if (readM s x).getLsbD j then laneAt w p.1 j else laneAt w q.1 j)) 2 q.2.2))) ∧
  (∀ t d a x s e, elemOf t s.me.fmt8.toNat = some e → Ready s (.vswp t d a x) { vs := [a], vd := some d, ms := [x] } →
    let p := popV false a s
    let w := elemWidth e
    exec (.vswp t d a x) s = .next (complete (writeV d (masked w (readM s x) (keepOf s d) fun j =>
      (laneAt w p.1 (if j % 2 = 0 then j + 1 else j - 1), 0)).1 2 p.2.2))) ∧
  (∀ t d (imm : BitVec 10) x s e, elemOf t s.me.fmt8.toNat = some e → isInt e = true →
    Ready s (.vldi t d imm x) { vd := some d, ms := [x] } →
    exec (.vldi t d imm x) s = .next (complete (writeV d (masked (elemWidth e) (readM s x) (keepOf s d) fun _ =>
      (wrapTo (elemWidth e) imm.toInt, 0)).1 2 s))) ∧
  (∀ t d a x s e, elemOf t s.me.fmt8.toNat = some e → Ready s (.vmovg t d a x) { gs := [a], vd := some d, ms := [x] } →
    exec (.vmovg t d a x) s = .next (complete (writeV d (masked (elemWidth e) (readM s x) (keepOf s d) fun _ =>
      ((src1 a s).1.toNat, 0)).1 2 (src1 a s).2))) ∧
  (∀ t d a b s e, elemOf t s.me.fmt8.toNat = some e → Ready s (.vext t d a b) { vs := [a], gs := [b], gd := some d } →
    let p := popV false a s
    let q := popG p.2.1 b p.2.2
    let w := elemWidth e
    exec (.vext t d a b) s = .next (complete (writeG d (widened e (laneAt w p.1 (q.1.toNat % (512 / w)))) 2 q.2.2))) ∧
  ∀ t d a b s e, elemOf t s.me.fmt8.toNat = some e → Ready s (.vins t d a b) { gs := [a, b], vd := some d } →
    let o := src2 a b s
    let w := elemWidth e
    exec (.vins t d a b) s = .next (complete (writeV d (ofLanes w ((List.range (512 / w)).map fun j =>
      if j = o.2.1.toNat % (512 / w) then o.1.toNat else laneAt w (keepOf s d) j)) 2 o.2.2))

/-- The reductions write gd after 12 cycles and raise their flags (R90-R92, R127, R136). An integer sum is the exact sum
of the active lanes modulo 2^64; an integer maximum is an active lane that none exceeds, a minimum one that exceeds
none, and over no active lane the type's least or greatest value, extended; a floating maximum or minimum is an active lane
that by R74 no other passes, NaNs set aside, the canonical NaN where all are NaNs, and over no active lane the infinity or the
format's end of R92 and R136, its code standing in the low bits, which for the wider formats is the model's reading (log entry
92); a floating sum over no active lane is +0, and over others the value and the flags of the tree of R90 over pairs of
neighbours, inactive lanes counting as -0. The conversions write each enabled lane below both lane counts, after 4
cycles, with the mode in force or toward zero (R137, R138); their values and flags are those of R80-R85. -/
def Obligations.ReductionsAndConversions : Prop :=
  (∀ i t cls d a x g, reduction i = some (t, cls, d, a, x, g) → ∀ s e, elemOf t s.me.fmt8.toNat = some e →
    cls e = true → Ready s i { vs := [a], ms := [x], gd := some d } →
    let p := popV false a s
    let r := g e (modeNow s) (readM s x) p.1
    exec i s = .next (complete (raiseFlags r.2 (writeG d r.1 12 p.2.2)))) ∧
  (∀ w g (m : W64) v, w ∈ [8, 16, 32, 64] →
    let val (j : Nat) : Int := intValue w g (laneAt w v j)
    let act := (List.range (512 / w)).filter fun j => m.getLsbD j
    sumInts (.int w g) m v = BitVec.ofInt 64 ((act.map val).foldr (· + ·) 0) ∧
    (act ≠ [] →
      (∃ j ∈ act, pickLanes true (.int w g) m v = BitVec.ofInt 64 (val j) ∧ ∀ k ∈ act, val k ≤ val j) ∧
      ∃ j ∈ act, pickLanes false (.int w g) m v = BitVec.ofInt 64 (val j) ∧ ∀ k ∈ act, val j ≤ val k) ∧
    (act = [] →
      pickLanes true (.int w g) m v = BitVec.ofInt 64 (if g then -(2 ^ (w - 1)) else 0) ∧
      pickLanes false (.int w g) m v = BitVec.ofInt 64 (if g then 2 ^ (w - 1) - 1 else 2 ^ w - 1))) ∧
  (∀ c f (big : Bool) (m : W64) v, (f ∈ [fmtF32, fmtBf16, fmtF16] ∨ fmt8Of c = some f) →
    let num (j : Nat) : Machine.Num := decodeF f (laneAt f.width v j)
    let act := (List.range (512 / f.width)).filter fun j => m.getLsbD j
    let passes (k j : Nat) : Prop := cmpNum (num k) (num j) = (if big then .gt else .lt) ∨
      (cmpNum (num k) (num j) = .eq ∧ numNeg (num k) = !big ∧ numNeg (num j) = big)
    (act = [] → pickLanes big (.flt f) m v = w64 (match f.kind with
      | .ieee => (f.infMag.getD 0) + if big then 2 ^ (f.width - 1) else 0
      | .signed8 => if big then 0xFF else 0x7F
      | .unsigned8 => if big then 0 else 0xFE)) ∧
    (act ≠ [] → (∀ j ∈ act, num j = .nan) → pickLanes big (.flt f) m v = w64 f.nanBits) ∧
    ((∃ j ∈ act, num j ≠ .nan) → ∃ j ∈ act, num j ≠ .nan ∧ pickLanes big (.flt f) m v = w64 (laneAt f.width v j) ∧
      ∀ k ∈ act, num k ≠ .nan → ¬passes k j)) ∧
  (∀ f mode v, sumLanes f mode 0 v = (0, 0)) ∧
  (∀ c f mode (m : W64) v, (f ∈ [fmtF32, fmtBf16, fmtF16] ∨ fmt8Of c = some f) →
    (∃ j, j < 512 / f.width ∧ m.getLsbD j = true) →
    sumLanes f mode m v = treeNode f mode (fun j => if m.getLsbD j then laneAt f.width v j else
      match f.kind with
        | .ieee => 2 ^ (f.width - 1)
        | _ => 0) (Nat.log2 (512 / f.width)) 0) ∧
  (∀ (f g : Fmt) (sat : Bool) (mode : RMode) (w : Nat) (sgn : Bool) (x : Nat),
    let lo : Int := if sgn then -(2 ^ (w - 1)) else 0
    let hi : Int := if sgn then 2 ^ (w - 1) - 1 else 2 ^ w - 1
    let inside (r : Int) : Int := if r < lo then lo else if hi < r then hi else r
    convert (.flt f) (.flt g) sat mode x = (if f = g then (if decodeF f x = .nan then f.nanBits else x, 0)
      else encodeF g sat mode (decodeF f x)) ∧
    (decodeF f x = .nan → convert (.flt f) (.int w sgn) sat mode x = (0, 16)) ∧
    (∀ n, decodeF f x = .inf n →
      convert (.flt f) (.int w sgn) sat mode x = (wrapTo w (if n then lo else hi), 16)) ∧
    (∀ n m e, mode ≠ .rna → 0 < w → decodeF f x = .fin n m e → ∃ r, IntRounded mode n m e r ∧
      convert (.flt f) (.int w sgn) sat mode x = (wrapTo w (inside r),
        if r < lo ∨ hi < r then 16
        else if r * 2 ^ (0 - min e 0).toNat ≠ unitsOf (min e 0) n m e then 1 else 0)) ∧
    (∀ w' sgn', let v := intValue w' sgn' x
      convert (.int w' sgn') (.flt g) sat mode x = encodeF g sat mode (.fin (decide (v < 0)) v.natAbs 0) ∧
      convert (.int w' sgn') (.int w sgn) sat mode x = (wrapTo w (if sat then inside v else v), 0))) ∧
  ∀ i dt st sat rtz d a x, conversion i = some (dt, st, sat, rtz, d, a, x) → ∀ s de se,
    elemOf dt s.me.fmt8.toNat = some de → elemOf st s.me.fmt8.toNat = some se →
    Ready s i { vs := [a], vd := some d, ms := [x] } →
    let p := popV false a s
    let wd := elemWidth de
    let ws := elemWidth se
    exec i s = .next (finishV d 4 (masked wd (readM s x) (keepOf s d) fun j =>
      if j < 512 / wd ∧ j < 512 / ws then convert se de sat (if rtz then .rtz else modeNow s) (laneAt ws p.1 j)
      else (laneAt wd (keepOf s d) j, 0)) p.2.2)

/-! ### The matrix unit -/

/-- A matrix word issues once every earlier access of its strand has completed (R161, R202): the unit's queue takes it
with the values of its sources, the words of bound ones popped now, and with the RMODE and FMT8 of the moment; it keeps
what it popped, to give it back if it traps (R165); the strand leaves the rotation at its word, its registers and every
memory as before. What rests on the model's own choice or reading is log entry 18. -/
def Obligations.MatrixIssue : Prop :=
  ∀ i a v, matrixWord i = some (a, v) → ∀ (s : State) t k, s.hart = .strand t k → Ready s i (needOf i) →
    legalNow s i = true →
    (drained s = false → exec i s = .next s) ∧
    (drained s = true → ∃ u op, exec i s = .next u ∧ (u.tile t).mx.queue = (s.tile t).mx.queue ++ [op] ∧
      op.strand = k ∧ op.instr = i ∧ op.pc = s.regs.pc ∧ op.rm = s.me.rmode.toNat ∧ op.fmt8 = s.me.fmt8.toNat ∧
      (∀ r, a = some r → op.a = (src1 r s).1) ∧ (∀ r, v = some r → op.v = (popV false r s).1) ∧
      (u.strandAt t k).matrixWait = true ∧ u.regs.pc = s.regs.pc ∧ u.regs.issued = s.regs.issued ∧
      (∀ r, a = some r → ∀ q : Fin 8, (u.tile t).inQ[q] = ((src1 r s).2.tile t).inQ[q]) ∧
      (∀ r, v = some r → ∀ q : Fin 8, (u.tile t).inQ[q] = ((popV false r s).2.2.tile t).inQ[q]) ∧
      (a = none → v = none → ∀ q : Fin 8, (u.tile t).inQ[q] = (s.tile t).inQ[q]) ∧
      (∀ q : Fin 8, (op.popped.filter (·.1 == q)).flatMap (·.2) ++ (u.tile t).inQ[q] = (s.tile t).inQ[q]) ∧
      op.sstat = s.me.sstat ∧
      KeepsMemory s u ∧ KeepsOthers s u ∧ KeepsOwn none none none s u)

/-- The unit takes the first queued instruction when none executes and its begin condition holds (R201, R213): it
occupies the unit for the cycles of R201; if a check fails it is not begun, and its strand takes the trap of R213 at the
instruction's own word, the unit free again in the next cycle. The checks: an operand latch that is FREE is misuse 1,
a latch to be loaded that is not FREE misuse 2, and addresses are checked for alignment, then range. A window access that
waits for the block goes first (R193). Each cycle of an mst stores one granule of the block, copied for f32 and converted
for bf16 and f16 (R203, R208), noting the bytes it replaces, each cycle of an mlb appends a flit to the latch, marked as header
and end (R211), and a granule or flit with a bad word, or a bad accumulator word or block residue that the instruction would
read, is a machine check, after which the instruction has written and forwarded nothing (R213, R365).
What rests on the model's own choice or reading is log entries 14, 18 and 90. -/
def Obligations.MatrixBegins : Prop :=
  (∀ (s : State) t op rest, (s.tile t).mx.run = none → (s.tile t).mx.queue = op :: rest →
    (s.tile t).mx.beginFrom ≤ (s.tile t).cycle → (∀ l, op.instr ≠ .mlfree l) →
    beginCond (s.tile t).mx (s.tile t).cycle op.instr = true →
    (∀ c, accNamed op.instr = some c → (∃ w ∈ (s.tile t).mx.accWait, w.2 = c.val) →
      exec (.matrixInstructionBegin t) s = .next (s.modTile t fun x => { x with
        mx := { x.mx with beginFrom := x.cycle + 1, accWait := x.mx.accWait.filter fun w => w.2 != c.val } })) ∧
    ((s.tile t).mx.accWait = [] →
      (beginCheck (s.tile t) op = none → (s.tile t).badAcc = [] → (s.tile t).accResidue = [] → (s.tile t).badLm = [] →
        ∃ u r, exec (.matrixInstructionBegin t) s = .next u ∧
        (u.tile t).mx.run = some r ∧ (u.tile t).mx.queue = rest ∧ r.op = op ∧ r.start = (s.tile t).cycle ∧
        r.dur = match op.instr with
          | .mma .. | .mms .. => 64
          | .mlb .. => 65 + latchScales (memRead (s.tile t).lm op.a.toNat 32)
          | .mrow .. => 4
          | .mwrow .. | .mzero .. | .mhdr .. => 2
          | .mst _ _ f => if f = .f32 then 64 else 32
          | _ => 1) ∧
      (∀ c v, beginCheck (s.tile t) op = some (c, v) → HandlerReady s t op.strand →
        ∃ u, exec (.matrixInstructionBegin t) s = .next u ∧ MatTraps t op c v s u ∧ (u.tile t).mx.queue = rest) ∧
      (∀ w, beginCheck (s.tile t) op = none → (s.tile t).badAcc = [w] → readsAcc op.instr w →
        HandlerReady s t op.strand → ∃ u, exec (.matrixInstructionBegin t) s = .next u ∧
          MatChecked t op (w64 (0x80000 + 4 * w)) rest (s.tile t).mx.latch (s.tile t).lm s u) ∧
      (∀ w c, beginCheck (s.tile t) op = none → (s.tile t).badAcc = [] → (s.tile t).accResidue = [c] →
        readsAcc op.instr w → w / 1024 = c →
        HandlerReady s t op.strand → ∃ u, exec (.matrixInstructionBegin t) s = .next u ∧
          MatChecked t op (w64 (2 ^ 63 + 64 + c)) rest (s.tile t).mx.latch (s.tile t).lm s u))) ∧
  (∀ (x : Tile) (op : MatOp) (l : Fin 2),
    let named : Prop := (∃ c a fa fb fw hd z, op.instr = .mma c a fa fb l fw hd z ∨ op.instr = .mms c a fa fb l fw hd z)
    (x.mx.latch[l].st = .free → (named ∨ ∃ d, op.instr = .mhdr d l) →
      beginCheck x op = some (.matrixMisuse, w64 (1 + l.val * 2 ^ 8))) ∧
    (x.mx.latch[l].st ≠ .free → ((∃ a, op.instr = .mlb a l) ∨ ∃ fw, op.instr = .mlarm l fw) →
      beginCheck x op = some (.matrixMisuse, w64 (2 + l.val * 2 ^ 8))) ∧
    ∀ c a f, op.instr = .mst c a f →
      (op.a.toNat % 64 ≠ 0 → beginCheck x op = some (.alignment, op.a)) ∧
      (op.a.toNat % 64 = 0 → 0x80000 < op.a.toNat + (if f = .f32 then 4096 else 2048) →
        beginCheck x op = some (.bounds, op.a)) ∧
      (op.a.toNat % 64 = 0 → op.a.toNat + (if f = .f32 then 4096 else 2048) ≤ 0x80000 → beginCheck x op = none)) ∧
  ∀ (s : State) t r, (s.tile t).mx.run = some r →
    let k := (s.tile t).cycle - r.start
    let b := r.op.a.toNat
    (∀ c a f, r.op.instr = .mst c a f → b % 64 = 0 → k < r.dur → k < (if f = .f32 then 64 else 32) → r.read.length = k →
      (s.tile t).badAcc = [] → (s.tile t).accResidue = [] →
      ∃ u, exec (.matrixInstructionBegin t) s = .next u ∧ (u.tile t).acc = (s.tile t).acc ∧
        (u.tile t).mx.run = some { r with
          read := r.read ++ [0], undo := (b + 64 * k, memBytes (s.tile t).lm (b + 64 * k) 64) :: r.undo } ∧
        (f = .f32 → ∀ j, j < 64 →
          memGet (u.tile t).lm (b + 64 * k + j) = memGet (s.tile t).acc (0x1000 * c.val + 64 * k + j)) ∧
        (∀ g, (f = .bf16 ∧ g = fmtBf16) ∨ (f = .f16 ∧ g = fmtF16) → ∀ j, j < 32 →
          memRead (u.tile t).lm (b + 64 * k + 2 * j) 2 =
            (encodeF g false (modeOf r.op.rm) (decodeF fmtF32 (accWord (s.tile t) c.val k j))).1) ∧
        ∀ p, (p < b + 64 * k ∨ b + 64 * k + 64 ≤ p) → memGet (u.tile t).lm p = memGet (s.tile t).lm p) ∧
    (∀ a l, r.op.instr = .mlb a l → (s.tile t).badLm = [] → (s.tile t).mx.latch[l].flits.length = k →
      k < (s.tile t).mx.latch[l].size →
      ∃ u, exec (.matrixInstructionBegin t) s = .next u ∧ (u.tile t).lm = (s.tile t).lm ∧
        (u.tile t).mx.latch[l].flits = (s.tile t).mx.latch[l].flits ++
          [{ data := BitVec.ofNat 256 (memRead (s.tile t).lm (b + 32 * k) 32), h := k == 0
             e := k + 1 == (s.tile t).mx.latch[l].size }]) ∧
    (∀ c a f w, r.op.instr = .mst c a f → b % 64 = 0 → (s.tile t).badAcc = [w] → HandlerReady s t r.op.strand →
      let n := if f = .f32 then 64 else 128
      0x1000 * c.val + n * k < 4 * w + 4 → 4 * w < 0x1000 * c.val + n * k + n →
      ∃ u, exec (.matrixInstructionBegin t) s = .next u ∧ MatChecked t r.op (w64 (0x80000 + 4 * w)) (s.tile t).mx.queue
        (s.tile t).mx.latch (memoryBack r (s.tile t).lm) s u) ∧
    ∀ w n, (s.tile t).badLm = [w] → HandlerReady s t r.op.strand →
      (((∃ c a fa fb l fw hd z, r.op.instr = .mma c a fa fb l fw hd z ∨ r.op.instr = .mms c a fa fb l fw hd z) ∧
          n = 64 ∧ k < 32) ∨
        ∃ a l, r.op.instr = .mlb a l ∧ n = 32 ∧ k < (s.tile t).mx.latch[l].size) →
      b + n * k < 4 * w + 4 → 4 * w < b + n * k + n →
      ∃ u, exec (.matrixInstructionBegin t) s = .next u ∧ MatChecked t r.op (w64 (4 * w)) (s.tile t).mx.queue
        (latchesBack r (s.tile t).mx.latch) (memoryBack r (s.tile t).lm) s u

/-- A matrix instruction ends when its cycles have passed (R161, R193, R195-R198, R201, R205-R211): the unit is free, its
strand rejoins the rotation and steps on. For mma and mms each of the 32 x 32 words takes its new value from its old word,
or zero, and the products of its row and column, each element times its scale in header mode: with two integer formats the
exact sum modulo 2^32, else the accumulation of R93, with the flags of all words; the tag advances by its step, and the
latch keeps its flits. mzero clears its block; mwrow writes its half-row, mrow and mhdr deliver theirs; mtag sets the tag;
mst raises the flags of its conversions; mlb makes its latch full, mlarm arms its latch behind those armed, mlfree frees its
own. A bad accumulator word read at the end, by all but mst, is a machine check. Before its end nothing happens but the note
of MSTAT. A window access to the accumulators waits while the unit executes on the block, or once the block has served one
in this cycle, and else reads or writes its bytes. What rests on the model's own choice or reading is log entries 14, 90 and
91. -/
def Obligations.MatrixEnds : Prop :=
  (∀ (s : State) t r, (s.tile t).mx.run = some r → (s.tile t).cycle < r.start + r.dur →
    exec (.matrixInstructionEnd t) s = .next (s.modTile t fun x => { x with mx := { x.mx with seen := mstatWord x.mx } })) ∧
  (∀ (s : State) t r w, (s.tile t).mx.run = some r → r.start + r.dur ≤ (s.tile t).cycle → (s.tile t).badAcc = [w] →
    readsAcc r.op.instr w → (∀ c a f, r.op.instr ≠ .mst c a f) → HandlerReady s t r.op.strand →
    ∃ u, MatChecked t r.op (w64 (0x80000 + 4 * w)) (s.tile t).mx.queue (latchesBack r (s.tile t).mx.latch)
        (memoryBack r (s.tile t).lm) s u ∧
      exec (.matrixInstructionEnd t) s = .next (u.modTile t fun x => { x with mx := { x.mx with seen := mstatWord x.mx } })) ∧
  (∀ (s : State) t r, (s.tile t).mx.run = some r → r.start + r.dur ≤ (s.tile t).cycle → (s.tile t).badAcc = [] →
    (s.tile t).accResidue = [] → ((s.strandAt t r.op.strand).r.pc + 4).toNat ≤ 0xFFFC →
    (∀ l : Fin 2, (s.strandAt t r.op.strand).r.lc[l] = 0) →
    ∃ u, exec (.matrixInstructionEnd t) s = .next u ∧ (u.tile t).mx.run = none ∧
      (u.tile t).mx.queue = (s.tile t).mx.queue ∧
      (u.strandAt t r.op.strand).matrixWait = false ∧
      (u.strandAt t r.op.strand).r.pc = (s.strandAt t r.op.strand).r.pc + 4 ∧
      (u.strandAt t r.op.strand).r.issued = (s.strandAt t r.op.strand).r.issued + 1 ∧
      (u.tile t).lm = (s.tile t).lm ∧
      (∀ (neg z fw hd : Bool) c a fa fb l,
        r.op.instr = (if neg then .mms c a fa fb l fw hd z else .mma c a fa fb l fw hd z) →
        let y := (s.tile t).mx.latch[l]
        let hdr := ((y.flits.head?).map (·.data.toNat)).getD 0
        let codes := macCodes fa fb hd r.op.fmt8 hdr
        let sc := hd && hdr.testBit 24
        macCode codes.1 → macCode codes.2 → codeWidth codes.1 = codeWidth codes.2 →
        let n := 512 / codeWidth codes.1
        let ea := elemA codes.1 sc r.read
        let eb := elemB codes.2 sc y
        let old (i j : Nat) : Nat := if z then 0 else accWord (s.tile t) c.val i j
        (48 ≤ codes.1 → 48 ≤ codes.2 → sc = false →
          (u.strandAt t r.op.strand).fflags = (s.strandAt t r.op.strand).fflags ∧ ∀ i j, i < 32 → j < 32 →
          let dot : Int := ((List.range n).map fun k => match ea i k, eb k j with
            | .fin p x _, .fin q x' _ => (if p then -(x : Int) else x) * (if q then -(x' : Int) else x')
            | _, _ => 0).foldr (· + ·) 0
          accWord (u.tile t) c.val i j = wrapTo 32 ((old i j : Int) + if neg then -dot else dot)) ∧
        ((codes.1 < 48 ∨ codes.2 < 48) → ∃ fl : Nat → Nat → FFlags,
          (∀ i j, i < 32 → j < 32 → MacIs (modeOf r.op.rm)
            (macTerms neg (decodeF fmtF32 (old i j)) n (ea i) fun k => eb k j) (accWord (u.tile t) c.val i j) (fl i j)) ∧
          (u.strandAt t r.op.strand).fflags = (s.strandAt t r.op.strand).fflags |||
            flagsOf ((List.range 1024).map fun m => fl (m / 32) (m % 32))) ∧
        (r.fwd = false → (u.tile t).mx.latch = (s.tile t).mx.latch) ∧
        (u.tile t).mx.atag[c] = (if (s.tile t).mx.tagv[c] then (s.tile t).mx.atag[c] + ((s.tile t).mx.step[c]).signExtend 16
          else (s.tile t).mx.atag[c]) ∧
        ∀ p, (p < 0x1000 * c.val ∨ 0x1000 * (c.val + 1) ≤ p) → memGet (u.tile t).acc p = memGet (s.tile t).acc p) ∧
      (∀ c, r.op.instr = .mzero c → ∀ p, memGet (u.tile t).acc p =
        if 0x1000 * c.val ≤ p ∧ p < 0x1000 * (c.val + 1) then 0 else memGet (s.tile t).acc p) ∧
      (∀ (c : AccNo) v (row : Fin 32) (half : Bool), r.op.instr = .mwrow c v row half →
        let o := 0x1000 * c.val + 128 * row.val + if half then 64 else 0
        memRead (u.tile t).acc o 64 = r.op.v.toNat ∧
          ∀ p, (p < o ∨ o + 64 ≤ p) → memGet (u.tile t).acc p = memGet (s.tile t).acc p) ∧
      (∀ (c : AccNo) v (row : Fin 32) (half : Bool), r.op.instr = .mrow c v row half → r.op.dest = .v v →
        (u.strandAt t r.op.strand).v[v] =
          BitVec.ofNat 512 (memRead (s.tile t).acc (0x1000 * c.val + 128 * row.val + if half then 64 else 0) 64)) ∧
      (∀ d l, r.op.instr = .mhdr d l → r.op.dest = .g d → d ≠ 0 → ∀ f fs, (s.tile t).mx.latch[l].flits = f :: fs →
        (u.strandAt t r.op.strand).r.g[d] = f.data.extractLsb' 0 64) ∧
      (∀ c a, r.op.instr = .mtag c a → (u.tile t).mx.atag[c] = r.op.a.extractLsb' 0 16 ∧
        (u.tile t).mx.tagv[c] = r.op.a.getLsbD 16 ∧ (u.tile t).mx.step[c] = r.op.a.extractLsb' 24 8) ∧
      (∀ c a f, r.op.instr = .mst c a f → (u.tile t).acc = (s.tile t).acc ∧
        (f = .f32 → (u.strandAt t r.op.strand).fflags = (s.strandAt t r.op.strand).fflags) ∧
        ∀ g, (f = .bf16 ∧ g = fmtBf16) ∨ (f = .f16 ∧ g = fmtF16) →
          (u.strandAt t r.op.strand).fflags = (s.strandAt t r.op.strand).fflags ||| flagsOf ((List.range 1024).map fun m =>
            (encodeF g false (modeOf r.op.rm) (decodeF fmtF32 (accWord (s.tile t) c.val (m / 32) (m % 32)))).2)) ∧
      (∀ l : Fin 2, ((∃ a, r.op.instr = .mlb a l) ∨ (∃ fw, r.op.instr = .mlarm l fw) ∨ r.op.instr = .mlfree l) →
        ∀ l', l' ≠ l → (u.tile t).mx.latch[l'] = (s.tile t).mx.latch[l']) ∧
      (∀ a l, r.op.instr = .mlb a l → (u.tile t).mx.latch[l].st = .full ∧
        (u.tile t).mx.latch[l].flits = (s.tile t).mx.latch[l].flits) ∧
      (∀ l fw, r.op.instr = .mlarm l fw → (u.tile t).mx.latch[l].st = .armed ∧ (u.tile t).mx.latch[l].ring = fw ∧
        (u.tile t).mx.latch[l].flits = [] ∧ (u.tile t).mx.armOrder = (s.tile t).mx.armOrder ++ [l]) ∧
      ∀ l, r.op.instr = .mlfree l → (u.tile t).mx.latch[l].st = .free ∧ (u.tile t).mx.latch[l].ring = false ∧
        (u.tile t).mx.latch[l].flits = [] ∧ l ∉ (u.tile t).mx.armOrder) ∧
  ∀ (s : State) t off n (wr : Option V512), TileOpen s t → n ∈ [4, 8, 32, 64] → off % n = 0 → off < 0x10000 →
    let late := accBusy (s.tile t).mx (off / 0x1000) ||
      ((s.tile t).running && (s.tile t).accServed.contains (off / 0x1000))
    (late = true → (s.tile t).unmapped = false → ∃ u, exec (.accumulatorWindowAccess t off n wr) s = .next u ∧
      u.deferred = s.deferred ++ [.accumulatorWindowAccess t off n wr] ∧ (u.tile t).acc = (s.tile t).acc) ∧
    (late = false → ((s.tile t).badAcc = [] ∨ wr.isSome = true) → ∃ u, exec (.accumulatorWindowAccess t off n wr) s = .next u ∧
      u.deferred = s.deferred ∧ (wr = none → (u.tile t).acc = (s.tile t).acc) ∧
      ∀ v, wr = some v → memRead (u.tile t).acc off n = v.toNat % 2 ^ (8 * n) ∧
        ∀ p, (p < off ∨ off + n ≤ p) → memGet (u.tile t).acc p = memGet (s.tile t).acc p)

/-! ### Streams, barriers, the engine's queue, CSRs -/

/-- The stream instructions (R164, R167, R181, R188-R190). sbind waits while another strand holds the pair and traps
where this one does; sfree traps where this strand does not hold it so, and waits until every word of the output queue
has entered. speek reads the head word in place, with SSTAT as a scalar pop sets it; scnt counts both queues; sstat
reads the switch state. side installs an entry, in the place of its key, else the lowest invalid one, else the oldest one
that sdec does not use; a write of the same cycle into its range clears it again (R182). sclr clears one or all, sinj
starts after its checks, the resumes restart a stopped switch, and a lookup that failed within a block is retried. That an entry
in use by sdec may be installed anew is the model's own choice, log entry 99. -/
def Obligations.StreamInstructions : Prop :=
  let resumed (skip : Nat) (w : Switch) : Switch :=
    { w with
      fault := w.fault &&& ~~~(0x8000 : W64), inj := 0, run := .running, skip := skip
      mode := match w.mode with
        | .lost j len flow partner kf ks _ => .lost j len flow partner kf ks true
        | m => m }
  (∀ (s : State) t j vec k, s.hart = .strand t j → Ready s (.sbind vec k) {} →
    exec (.sbind vec k) s = .next (match (s.tile t).binds[k] with
      | none => complete (s.modTile t fun x => { x with binds := x.binds.set k (some ⟨j, vec⟩) })
      | some b => if b.strand = j then raiseAt .streamMisuse 0 s.regs.pc s else s)) ∧
  (∀ (s : State) t j vec k, s.hart = .strand t j → Ready s (.sfree vec k) {} →
    exec (.sfree vec k) s = .next (if (s.tile t).binds[k] ≠ some ⟨j, vec⟩ then raiseAt .streamMisuse 0 s.regs.pc s
      else if ∀ e ∈ (s.tile t).outQ[k], e.from_ ≤ s.cyc ∧ e.pending = none then
        complete (s.modTile t fun x => { x with binds := x.binds.set k none })
      else s)) ∧
  (∀ (s : State) t j d (k : Fin 8), s.hart = .strand t j → Ready s (.speek d k) { gd := some d } →
    (((s.tile t).binds[k]).map Bind.strand ≠ some j →
      exec (.speek d k) s = .next (raiseAt .streamMisuse 0 s.regs.pc s)) ∧
    (((s.tile t).binds[k]).map Bind.strand = some j →
      ((s.tile t).inQ[k] = [] → exec (.speek d k) s = .next s) ∧
      ∀ e r, (s.tile t).inQ[k] = e :: r →
        (s.cyc < e.from_ → exec (.speek d k) s = .next s) ∧
        (e.from_ ≤ s.cyc → exec (.speek d k) s = .next (complete (writeG d e.word 1 (s.modMe fun x => { x with
          sstat := w64 ((if e.h then 1 else 0) + (if e.e then 2 else 0) + e.pos * 32 + k.val * 256 + 2 ^ 15) })))))) ∧
  (∀ d (k : Fin 8) s, Ready s (.scnt d k) { gd := some d } → exec (.scnt d k) s =
    .next (complete (writeG d (w64 ((s.myTile.inQ[k]).length + (s.myTile.outQ[k]).length * 256)) 1 s))) ∧
  (∀ d s, Ready s (.sstat d) { gd := some d } → s.myTile.sw.spc < 2048 → s.myTile.sw.rep < 4096 →
    s.myTile.sw.cnt[0] < 4096 → s.myTile.sw.cnt[1] < 4096 → s.myTile.sw.inj < 4096 →
    let w := s.myTile.sw
    exec (.sstat d) s = .next (complete (writeG d (w64 (w.spc + w.rep * 2 ^ 12 +
      (match w.run with | .running => 0 | .waiting => 1 | .stopped => 2 | .halted => 3) * 2 ^ 24 +
      w.cnt[0] * 2 ^ 27 + w.cnt[1] * 2 ^ 39 + w.inj * 2 ^ 51)) 1 s))) ∧
  (∀ a b s, Ready s (.side a b) { gs := [a, b] } → drained s = true →
    let x := (src2 a b s).1
    let y := (src2 a b s).2.1
    let s' := (src2 a b s).2.2
    let len := bits y.toNat 32 12
    let e : SideEntry :=
      { flow := bits y.toNat 0 16, seq := bits y.toNat 16 16, addr := x.toNat / 32, len := len, valid := true }
    let mine (i : Fin 64) : Prop :=
      s.myTile.side[i].valid = true ∧ s.myTile.side[i].flow = e.flow ∧ s.myTile.side[i].seq = e.seq
    (x.toNat % 32 ≠ 0 → exec (.side a b) s = .next (raiseAt .alignment x s.regs.pc s)) ∧
    (x.toNat % 32 = 0 → len = 0 → exec (.side a b) s = .next (raiseAt .streamMisuse 0 s.regs.pc s)) ∧
    (x.toNat % 32 = 0 → len ≠ 0 → 0x80000 < x.toNat + 32 * len →
      exec (.side a b) s = .next (raiseAt .bounds x s.regs.pc s)) ∧
    (x.toNat % 32 = 0 → len ≠ 0 → x.toNat + 32 * len ≤ 0x80000 → ∀ i : Fin 64,
      (mine i ∧ ∀ j, j < i → ¬mine j) ∨
        ((∀ j, ¬mine j) ∧ s.myTile.side[i].valid = false ∧ ∀ j, j < i → s.myTile.side[j].valid = true) ∨
        ((∀ j, ¬mine j ∧ s.myTile.side[j].valid = true) ∧ (∀ p q r u, s.myTile.sw.mode ≠ .decode i p q r u) ∧
          ∃ l r, s.myTile.sideOrder = l ++ i :: r ∧ ∀ j ∈ l, ∃ p q r u, s.myTile.sw.mode = .decode j p q r u) →
      let touched := s.myTile.wrote.any fun w => decide (w.1 < x.toNat + 32 * len) && decide (x.toNat < w.1 + w.2)
      (touched = false → exec (.side a b) s = .next (complete (s'.modMyTile fun z => { z with
        side := z.side.set i e, sideOrder := z.sideOrder.filter (· != i) ++ [i] }))) ∧
      (touched = true → NotLast s → ∃ u, exec (.side a b) s = .next u ∧
        u.myTile.side[i] = { e with valid := false }))) ∧
  (∀ a s, Ready s (.sclr a) { gs := [a] } → NotLast s →
    let x := (src1 a s).1
    ∃ u, exec (.sclr a) s = .next u ∧ KeepsMemory s u ∧ KeepsOthers s u ∧ KeepsOwn none none none s u ∧
      ∀ i : Fin 64, u.myTile.side[i] = if x.getLsbD 6 = true ∨ i.val = x.toNat % 64 then
        { s.myTile.side[i] with valid := false } else s.myTile.side[i]) ∧
  (∀ (s : State) t j a b, s.hart = .strand t j → Ready s (.sinj a b) { gs := [a, b] } → drained s = true →
    let x := (src2 a b s).1
    let y := (src2 a b s).2.1
    let n := bits y.toNat 0 13
    let q : Fin 8 := fin8 (bits y.toNat 16 3)
    let bad : Prop := n = 0 ∨ 4096 < n ∨ (4 ≤ q.val ∧ q.val ≤ 6) ∨
      (q.val < 4 ∧ ((∃ b, (s.tile t).binds[q] = some b ∧ b.strand ≠ j) ∨ ((s.tile t).outQ[q]).length % 4 ≠ 0)) ∨
      (q.val = 7 ∧ ¬(missStopped (s.tile t).sw = true ∧
        (s.tile t).sw.inj + injPending (s.tile t) + n + faultOffset (s.tile t).sw ≤ (s.tile t).sw.missLen))
    (x.toNat % 32 ≠ 0 → exec (.sinj a b) s = .next (raiseAt .alignment x s.regs.pc s)) ∧
    (x.toNat % 32 = 0 → 0x80000 < x.toNat + 32 * n → exec (.sinj a b) s = .next (raiseAt .bounds x s.regs.pc s)) ∧
    (x.toNat % 32 = 0 → x.toNat + 32 * n ≤ 0x80000 → bad →
      exec (.sinj a b) s = .next (raiseAt .streamMisuse 0 s.regs.pc s)) ∧
    (x.toNat % 32 = 0 → x.toNat + 32 * n ≤ 0x80000 → ¬bad →
      exec (.sinj a b) s = .next (complete ((src2 a b s).2.2.modMe fun z => { z with
        sinj := some ⟨x.toNat, n, 0, q.val, y.getLsbD 24, y.getLsbD 25⟩ })))) ∧
  (∀ s, Ready s .sresume {} →
    exec .sresume s = .next (if s.myTile.sw.run = .stopped then
        complete (s.modMyTile fun x => { x with sw := resumed 0 x.sw })
      else raiseAt .streamMisuse 0 s.regs.pc s)) ∧
  ∀ s, Ready s .sresumeSkip {} →
    let w := s.myTile.sw
    exec .sresumeSkip s = .next (if missStopped w = true ∧ w.inj + faultOffset w = w.missLen then
        complete (s.modMyTile fun x => { x with sw := resumed (w.missLen - faultOffset w) x.sw })
      else raiseAt .streamMisuse 0 s.regs.pc s)

/-- Stage barriers (R170, R171, R173) and the queue inboxes (R168). sbinit sets COUNT and REMAIN and clears PHASE and
BYTES, with the switch's recorded phase; sbexp adds to BYTES; sbarr counts one arrival once the strand's accesses to its
tile have completed; a barrier completes when neither an arrival nor a byte is missing: PHASE flips and REMAIN starts
anew; sbwait completes when PHASE differs from bit 0. Window stores arrive and deliver in the same way, and change
nothing where R173 makes them fail; one that comes as an event to a running tile waits for its place in the cycle (R172, log
entry 14). A flit for a queue inbox becomes four words, or waits for room. -/
def Obligations.BarriersAndInboxes : Prop :=
  let settle (b : Barrier) : Barrier :=
    if b.remain = 0 ∧ b.bytes = 0 then { b with phase := !b.phase, remain := b.count } else b
  (∀ a (n : Fin 32) s, Ready s (.sbinit a n) { gs := [a] } →
    let x := (src1 a s).1
    exec (.sbinit a n) s = .next (if 65535 < x.toNat then raiseAt .streamMisuse 0 s.regs.pc s
      else complete ((src1 a s).2.modMyTile fun z => { z with
        bars := z.bars.set n { count := x.toNat, remain := x.toNat, phase := false, bytes := 0 }
        sw := if n.val < 8 then { z.sw with sph := z.sw.sph.set (fin8 n.val) false } else z.sw }))) ∧
  (∀ a (n : Fin 32) s, Ready s (.sbexp a n) { gs := [a] } → -(2 ^ 31) ≤ s.myTile.bars[n].bytes →
    let x := (src1 a s).1
    exec (.sbexp a n) s = .next (
      if 2 ^ 31 - 1 < x.toNat ∨ 2 ^ 31 - 1 < s.myTile.bars[n].bytes + x.toNat then raiseAt .streamMisuse 0 s.regs.pc s
      else complete ((src1 a s).2.modMyTile fun z => { z with
        bars := z.bars.set n (settle { z.bars[n] with bytes := z.bars[n].bytes + x.toNat }) }))) ∧
  (∀ (n : Fin 32) s, Ready s (.sbarr n) {} →
    exec (.sbarr n) s = .next (if s.myTile.bars[n].remain = 0 then raiseAt .streamMisuse 0 s.regs.pc s
      else if s.regs.accessFrom ≤ s.cyc ∧ s.me.sinj = none ∧ s.me.gather = none ∧ s.regs.amo = none ∧
          (∀ a ∈ s.regs.accesses, inScope s .t a.pa = false) then
        complete (s.modMyTile fun z => { z with
          bars := z.bars.set n (settle { z.bars[n] with remain := z.bars[n].remain - 1 }) })
      else s)) ∧
  (∀ a (n : Fin 32) s, Ready s (.sbwait a n) { gs := [a] } →
    exec (.sbwait a n) s = .next (if s.myTile.bars[n].phase = (src1 a s).1.getLsbD 0 then s
      else complete (src1 a s).2)) ∧
  (∀ s t (n : Fin 32) (v : W64), TileOpen s t →
    let b := (s.tile t).bars[n]
    let atTurn (high : Bool) : Prop := (s.tile t).running = false ∨ s.todo.head? = some (.windowEnd high)
    (¬atTurn false → exec (.barrierWindowArrive t n) s =
      .next { s with deferred := s.deferred ++ [.barrierWindowArrive t n] }) ∧
    (¬atTurn true → exec (.barrierWindowDeliver t n v) s =
      .next { s with deferred := s.deferred ++ [.barrierWindowDeliver t n v] }) ∧
    (atTurn false → ∃ u, exec (.barrierWindowArrive t n) s = .next u ∧
      u.tile t = (if b.remain = 0 then s.tile t else { s.tile t with
        bars := (s.tile t).bars.set n (settle { b with remain := b.remain - 1 }) })) ∧
    (atTurn true → ∃ u, exec (.barrierWindowDeliver t n v) s = .next u ∧
      u.tile t = (if (-(2 ^ 31) ≤ v.toInt ∧ v.toInt < 2 ^ 31) ∧ -(2 ^ 31) ≤ b.bytes - v.toInt ∧ b.bytes - v.toInt < 2 ^ 31
        then { s.tile t with bars := (s.tile t).bars.set n (settle { b with bytes := b.bytes - v.toInt }) }
        else s.tile t))) ∧
  ∀ s t (k : Fin 8) h e (data : W256), TileOpen s t →
    ((∃ u, exec (.queueInboxWrite t k h e data) s = .next u ∧
      ((s.tile t).unmapped = false →
        (u.deferred = s.deferred ++ [.queueInboxWrite t k h e data] ↔ 3 ≤ k.val ∧ 12 < ((s.tile t).inQ[k]).length)) ∧
      (¬(3 ≤ k.val ∧ ((s.tile t).inQ[k]).length ≤ 12) → u.tile t = s.tile t) ∧
      (3 ≤ k.val → ((s.tile t).inQ[k]).length ≤ 12 → u.tile t = { s.tile t with
        inQ := (s.tile t).inQ.set k ((s.tile t).inQ[k] ++ (List.range 4).map fun j =>
          { word := data.extractLsb' (64 * j) 64, h := h, e := e, pos := j, from_ := (s.tile t).cycle + 1
            pending := none : QEntry }) })))

/-- The CSR instructions (R118, R119) wait until every earlier instruction has written its results, g0 and bound registers
among their destinations, and no load, gather or atomic is outstanding. csrr reads; the
writing forms, which only strands have, also put the operand, or the old value with the operand's bits set or cleared,
into the CSR's writable bits, and gd receives the old value. A CSR written reads as what was written in its writable
bits, INH is bit 0 of ESTAT, and GID, GDIM, ARGS, CYCLE, ISSUED, SWFAULT, CTX and the rest read what R16 says. -/
def Obligations.CsrInstructions : Prop :=
  let old (s : State) (c : Fin 4096) := csrRead s c.val
  (∀ s, resultsWritten s = true ↔ s.regs.resultsFrom ≤ s.cyc ∧ (∀ g, s.me.gather = some g → g.store = true) ∧
    s.regs.amo = none ∧ ∀ a ∈ s.regs.accesses, ∃ bs, a.kind = .store bs) ∧
  (∀ d c s, Ready s (.csrr d c) { gd := some d } → csrLegal s c.val false = true → resultsWritten s = true →
    exec (.csrr d c) s = .next (complete (writeG d (old s c) 1 s))) ∧
  (∀ i f d a c, ((i, f) : Instr × (W64 → W64 → W64)) ∈ [(Instr.csrw d a c, fun _ x => x),
      (Instr.csrs d a c, fun o x => o ||| x), (Instr.csrc d a c, fun o x => o &&& ~~~x)] →
    ∀ s, Ready s i { gs := [a], gd := some d } → csrLegal s c.val true = true → resultsWritten s = true →
      let m := csrMask c.val
      let v := (old s c &&& ~~~m) ||| (f (old s c) (src1 a s).1 &&& m)
      exec i s = .next (complete (writeG d (old s c) 1 ((src1 a s).2.modMe (csrStore c.val v)))) ∧
      csrRead ((src1 a s).2.modMe (csrStore c.val v)) c.val &&& m = f (old s c) (src1 a s).1 &&& m) ∧
  (∀ i s, ((∃ d c, i = .csrr d c) ∨ ∃ d a c, i = .csrw d a c ∨ i = .csrs d a c ∨ i = .csrc d a c) →
    Ready s i (needOf i) → legalNow s i = true → resultsWritten s = false → exec i s = .next s) ∧
  ∀ (s : State) t k, s.hart = .strand t k → ∀ g, (s.tile t).group = some g →
    let x := s.strandAt t k
    csrRead s 0x000 = w64 (k.val + tileIdx t * 2 ^ 8 + (tileDie t).val * 2 ^ 16) ∧
    csrRead s 0x001 = w64 g.gidx.1 ∧ csrRead s 0x002 = w64 g.gidx.2.1 ∧ csrRead s 0x003 = w64 g.gidx.2.2 ∧
    csrRead s 0x004 = w64 g.gdim.1 ∧ csrRead s 0x005 = w64 g.gdim.2.1 ∧ csrRead s 0x006 = w64 g.gdim.2.2 ∧
    csrRead s 0x007 = g.args ∧ csrRead s 0x010 = x.rmode.setWidth 64 ∧ csrRead s 0x011 = x.fflags.setWidth 64 ∧
    csrRead s 0x012 = x.fmt8.setWidth 64 ∧ csrRead s 0x015 = x.sstat ∧ csrRead s 0x020 = x.r.lc[0] ∧
    csrRead s 0x021 = x.r.lc[1] ∧ csrRead s 0x030 = x.epc ∧ csrRead s 0x031 = x.ecause ∧ csrRead s 0x032 = x.eval ∧
    csrRead s 0x033 = x.etvec ∧ csrRead s 0x034 = w64 ((if x.inh then 1 else 0) + (if x.swpend then 2 else 0) +
      (if x.ovrpend then 4 else 0) + if x.overran then 8 else 0) ∧
    (∀ q : Fin 8, ((csrRead s 0x013).getLsbD q.val = true ↔ (s.tile t).binds[q] = some ⟨k, false⟩) ∧
      ((csrRead s 0x014).getLsbD q.val = true ↔ (s.tile t).binds[q] = some ⟨k, true⟩)) ∧
    csrRead s 0x040 = w64 (s.tile t).cycle ∧ csrRead s 0x041 = x.r.issued ∧ csrRead s 0x050 = (s.tile t).sw.fault ∧
    csrRead s 0x060 = (s.tile t).mx.seen ∧ csrRead s 0x070 = w64 (g.ctx % 2 ^ 16)
end

namespace Sys2Proof.Claims
open Sys2Proof.Machine

/-! ### Engines -/

/-- An engine-only word with its operands and its descriptor's limits (R48, R296). -/
def engineWord : Instr → Option (Reg × Reg × (Desc → Bool))
  | .emove d a => some (d, a, moveOk)
  | .estrd d a => some (d, a, strideOk)
  | .egath d a => some (d, a, gatherOk)
  | .escat d a => some (d, a, gatherOk)
  | .estream d a => some (d, a, fun x => streamOk x true)
  | .edrain d a => some (d, a, fun x => streamOk x false)
  | .ered d a => some (d, a, redOk)
  | .esamp d a => some (d, a, sampOk)
  | .esort d a => some (d, a, sortOk)
  | _ => none

/-- The engine of tile `t` may run the word, whose descriptor `x` stands within local memory and meets its limits
(R289, R296, R297). -/
def EngineAt (s : State) (t : TileNo) (i : Instr) (d : Reg) (x : Desc) : Prop :=
  ∃ a ok, engineWord i = some (d, a, ok) ∧ s.hart = .engine t ∧ Ready s i { gs := [a], gd := some d } ∧
    drained s = true ∧ (plainG s.regs a).toNat % 64 = 0 ∧ (plainG s.regs a).toNat ≤ 0x7FFC0 ∧
    (∃ b, descOf (s.tile t).eng (plainG s.regs a) = some b ∧ x = parseDesc b) ∧ ok x = true

/-- The engine's running instruction is done (R292, R297): gd and RESULT take the value, the PC moves on, PROGRESS
starts anew. -/
def EngineDone (s u : State) (t : TileNo) (d : Reg) (v : W64) : Prop :=
  (u.tile t).eng.result = v ∧ (u.tile t).eng.progress = 0 ∧ (u.tile t).eng.state = .running ∧
    (u.tile t).eng.r.pc = (s.tile t).eng.r.pc + 4 ∧ (u.tile t).eng.r.issued = (s.tile t).eng.r.issued + 1 ∧
    (d ≠ 0 → (u.tile t).eng.r.g[d] = v) ∧ ∀ r : Reg, r ≠ d → (u.tile t).eng.r.g[r] = (s.tile t).eng.r.g[r]

/-- The unit in hand is done, PROGRESS has gone on by `n`, and the instruction stays (R298, R304). -/
def EngineGoesOn (s u : State) (t : TileNo) (n : Nat) : Prop :=
  (u.tile t).eng.progress = (s.tile t).eng.progress + n ∧ (u.tile t).eng.next = (s.tile t).eng.next + n ∧
    (u.tile t).eng.buf = [] ∧ (u.tile t).eng.state = .running ∧
    (u.tile t).eng.r = (s.tile t).eng.r ∧ (u.tile t).eng.ending = none

/-- The largest piece at an address within `rem` bytes (R298). -/
def IsPiece (a rem n : Nat) : Prop :=
  n ∈ [1, 2, 4, 8, 32, 64] ∧ a % n = 0 ∧ n ≤ rem ∧ ∀ m, m ∈ [1, 2, 4, 8, 32, 64] → a % m = 0 → m ≤ rem → m ≤ n

/-- The bytes stand in local memory from `b`, and every other byte of every memory reads as before. -/
def Stored (s u : State) (t : TileNo) (b : Nat) (bs : List Byte) : Prop :=
  memBytes (u.tile t).lm b bs.length = bs ∧ KeepsMemoryBut t (fun p => b ≤ p ∧ p < b + bs.length) s u

/-- The barriers of a tile after `n` bytes were counted against the barrier of a CTL, if it names one (R170, R301). -/
def counted (c n : Nat) (x : Tile) : Vector Barrier 32 :=
  let b := ctlBar c
  let y : Barrier := { x.bars[b] with bytes := (x.bars[b].bytes - n).bmod (2 ^ 32) }
  if ctlBaren c then x.bars.set b (if y.remain = 0 ∧ y.bytes = 0 then { y with phase := !y.phase, remain := y.count } else y)
  else x.bars

/-- A unit is delivered to the engine's local memory at once (R298-R301). -/
def EngineDelivers (s u : State) (t : TileNo) (c : Nat) (to_ : W64) (bs : List Byte) (n : Nat) : Prop :=
  Stored s u t to_.toNat bs ∧ EngineGoesOn s u t n ∧ (u.tile t).bars = counted c bs.length (s.tile t)

/-- The delivery of a unit is outstanding as a relaxed store: the instruction has gone on, PROGRESS has not (R268, R293). -/
def EngineIssues (s u : State) (t : TileNo) (c : Nat) (va : W64) (pa : Nat) (loc : Bool) (bs : List Byte) (n : Nat) : Prop :=
  (u.tile t).eng.progress = (s.tile t).eng.progress ∧ (u.tile t).eng.next = (s.tile t).eng.next + n ∧
    (u.tile t).eng.buf = [] ∧ (u.tile t).eng.state = .running ∧ KeepsMemory s u ∧ (u.tile t).bars = (s.tile t).bars ∧
    ∃ a : Access, (u.tile t).eng.r = { (s.tile t).eng.r with accesses := [a] } ∧ a.kind = .store bs ∧ a.va = va ∧
      a.pa = pa ∧ a.n = bs.length ∧ a.units = n ∧ a.loc = loc ∧ a.relaxed = true ∧ a.post = none ∧
      a.bar = if ctlBaren c then some (ctlBar c) else none

/-- Physical address of a local address of a tile, in its window (R220). -/
def windowPa (t : TileNo) (a : Nat) : Nat := 8 * 2 ^ 48 + t.val / 144 * 2 ^ 28 + t.val % 144 * 2 ^ 20 + a

/-- The unit in hand finds its `n` bytes at `from_`, after the bytes `pre` that it has read already: in one aligned piece of
local memory whose bank serves the engine, in HBM behind a cached translation, or among the bytes read ahead (R303); `taken`
is the bank this uses. -/
def EngineHas (s : State) (t : TileNo) (loc : Bool) (pre : List Byte) (from_ : W64) (n : Nat) (bs : List Byte)
    (taken : Option (Fin 16)) : Prop :=
  let e := (s.tile t).eng
  e.buf = pre ∧
  ((e.ahead = [] ∧ from_.toNat % n = 0 ∧
    ((loc = true ∧ from_.toNat + n ≤ 0x80000 ∧ Served s from_.toNat ∧ (s.tile t).badLm = [] ∧
        bs = memBytes (s.tile t).lm from_.toNat n ∧ taken = some (bankOf from_.toNat)) ∨
      (loc = false ∧ canonical from_ = true ∧ taken = none ∧
        ∃ y, tlbFind (s.tile t) (s.ctxOf (.engine t)) from_ false = some y ∧ inHbm (tlbPa y from_) n = true ∧
          s.tripOpen (hartSite (.engine t)) (tlbPa y from_) n = true ∧ s.failedIn (tlbPa y from_) n = false ∧ bs = s.hbmBytes (tlbPa y from_) n))) ∨
    (∃ r, e.ahead = (e.next, from_, bs) :: r ∧ from_.toNat % n = 0 ∧ bs.length = n ∧ taken = none))

/-- One level of the tree of R306: pairs are combined, an odd last one is carried up. -/
def treeUp (f : List Nat → List Nat → List Nat) (l : List (List Nat)) : List (List Nat) :=
  (List.range ((l.length + 1) / 2)).map fun i => match l[2 * i]?, l[2 * i + 1]? with
    | some a, some b => f a b
    | some a, none => a
    | none, _ => []

/-- The tree result of at most 2^k contributions (R306). -/
def treeOf (f : List Nat → List Nat → List Nat) : Nat → List (List Nat) → List Nat
  | 0, l => l.headD []
  | k + 1, l => treeOf f k (treeUp f l)

/-- A value rounded once to f32, to nearest (R312). -/
def near (v : Machine.Num) : Nat := (encodeF fmtF32 false .rne v).1

/-- The counter of philox after `r` of its rounds (R313). -/
def philoxAfter (seed seq pos draw : Nat) : Nat → Nat × Nat × Nat × Nat
  | 0 => (seq, pos, draw, 0x534E5253)
  | r + 1 =>
    let c := philoxAfter seed seq pos draw r
    let k0 := (seed % 2 ^ 32 + r * 0x9E3779B9) % 2 ^ 32
    let k1 := (seed / 2 ^ 32 + r * 0xBB67AE85) % 2 ^ 32
    let p := 0xD2511F53 * c.1
    let q := 0xCD9E8D57 * c.2.2.1
    (q / 2 ^ 32 ^^^ c.2.1 ^^^ k0, q % 2 ^ 32, p / 2 ^ 32 ^^^ c.2.2.2 ^^^ k1, p % 2 ^ 32)

/-- The draw of an esamp over the values `v` of its entries gives entry `j`, the total and the word `w` (R312): `m` is a
maximum, `e` the exponentials, `c` their sums in order, of which none is negative, so that their codes order as their
values do. -/
def DrawIs (x : Desc) (v : Nat → Nat) (j total w : Nat) : Prop :=
  let n := x.len
  (x.w14 % 2 ^ 31 = 0 → j = 0 ∧ total = 0 ∧ w = 0) ∧
  (x.w14 % 2 ^ 31 ≠ 0 → ∃ m, (∃ i, i < n ∧ v i = m) ∧ (∀ i, i < n → candKey (v i) ≤ candKey m) ∧
    (m = 0xFF800000 → j = 0 ∧ total = 0 ∧ w = 0) ∧
    (m ≠ 0xFF800000 → ∃ e c : Nat → Nat,
      (∀ i, i < n → e i = (exp2Lane (near (productOf
        (decodeF fmtF32 (sumOf fmtF32 .rne (decodeF fmtF32 (v i)) (flipped true (decodeF fmtF32 m))).1)
        (decodeF fmtF32 0x3FB8AA3B)).1)).1) ∧
      c 0 = e 0 ∧ (∀ i, i + 1 < n → c (i + 1) = (sumOf fmtF32 .rne (decodeF fmtF32 (c i)) (decodeF fmtF32 (e (i + 1)))).1) ∧
      let thr := near (productOf (decodeF fmtF32 (x.w30.toNat / 2 ^ 32)) (decodeF fmtF32 (c (n - 1)))).1
      ∀ l, l < n → thr ≤ c l → (∀ i, i < l → c i < thr) → total = c l ∧
        w = (philoxAfter x.w18.toNat (x.w20.toNat % 2 ^ 32) (x.w20.toNat / 2 ^ 32) (x.w30.toNat % 2 ^ 32) 10).1 ∧
        let r := near (productOf (.fin false (w / 256) (-24)) (decodeF fmtF32 total)).1
        j ≤ l ∧ (∀ i, i < j → c i ≤ r) ∧ (r < c j ∨ (j = l ∧ c l ≤ r))))

/-- A unit's bytes go to local memory at `to_`: at once, where the bank serves the engine, or as an outstanding access. -/
def EnginePuts (s : State) (i : Instr) (t : TileNo) (c : Nat) (to_ : W64) (bs : List Byte) (n : Nat)
    (taken : Option (Fin 16)) : Prop :=
  let now : Prop := (taken ≠ some (bankOf to_.toNat) ∨ (s.tile t).running = false) ∧ Served s to_.toNat
  (now → ∃ u, exec i s = .next u ∧ EngineDelivers s u t c to_ bs n) ∧
    (¬now → ∃ u, exec i s = .next u ∧ EngineIssues s u t c to_ (windowPa t to_.toNat) true bs n)

end Sys2Proof.Claims

section
open Sys2Proof Sys2Proof.Machine Sys2Proof.Claims

/-! ### Engines -/

/-- Kicking a job and waiting for it (R287-R291). ekick checks the kick word first, then CLEAR, then the error state, then
its accesses and the room of the queue, which holds four jobs; embox reads MBOX once the strand's earlier accesses have
completed, later accesses from the next cycle on; ewait waits until no job runs and none is queued. A store to KICK queues a
word in the same way, changes nothing where it fails, and waits while the queue is full. A job's start and end (R285, R289,
R292). An idle engine with a queued job takes the first: its descriptor is read, g1 holds the kick word, g2 the descriptor's
address, every other register 0, and the PC is 8 x OP; nothing starts in the error state. It waits for the bank of the
descriptor (R265), and a bad word of the descriptor ends the job with ERR 8 (R366). A job that ends with an ERR stores it
with RESULT at offset 0x38 of the descriptor once its accesses and its request at the sampler have ended and the bank
serves, counts in DONE with the jobs it discards, sets TAG, and leaves the engine in the error state, or idle, ERR and
EFAULT 0, where there was none. What rests on the model's own choice or reading is log entries 19, 44 and 90. -/
def Obligations.EngineJobs : Prop :=
  (let bad (w : W64) : Bool := bits w.toNat 0 6 != 0 || w.getLsbD 19 || decide (8 < bits w.toNat 20 4) ||
    bits w.toNat 32 31 != 0 || (w.getLsbD 63 && bits w.toNat 0 63 != 0)
  let cleared (e : Engine) : Engine :=
    if e.state = .error then { e with state := .idle, err := 0, errorBit := false, idleBit := true } else e
  let queued (w : W64) (e : Engine) : Engine :=
    { e with queue := e.queue ++ [w], kicks := (e.kicks + 1) % 2 ^ 16, idleBit := false }
  let mbox (e : Engine) : W64 := w64 (e.done % 2 ^ 16 + e.kicks % 2 ^ 16 * 2 ^ 16 + e.tag % 2 ^ 8 * 2 ^ 32 +
    e.err % 2 ^ 8 * 2 ^ 40 + (if e.errorBit then 2 ^ 48 else 0) + if e.idleBit then 2 ^ 49 else 0)
  (∀ (s : State) t j a, s.hart = .strand t j → Ready s (.ekick a) { gs := [a] } →
    let k := (src1 a s).1
    let s' := (src1 a s).2
    let e := (s.tile t).eng
    (bad k = true → exec (.ekick a) s = .next (raiseAt .streamMisuse k s.regs.pc s)) ∧
    (bad k = false → k.getLsbD 63 = true → exec (.ekick a) s = .next (if drained s then
      complete (s'.modTile t fun x => { x with eng := cleared x.eng }) else s)) ∧
    (bad k = false → k.getLsbD 63 = false →
      (e.state = .error → exec (.ekick a) s = .next (raiseAt .streamMisuse (mbox e) s.regs.pc s)) ∧
      (e.state ≠ .error → exec (.ekick a) s = .next (if drained s = true ∧ e.queue.length < 4 then
        complete (s'.modTile t fun x => { x with eng := queued k x.eng }) else s)))) ∧
  (∀ d s, Ready s (.embox d) { gd := some d } → exec (.embox d) s = .next (if drained s then complete
    ((writeG d (mbox s.myTile.eng) 1 s).modRegs fun r => { r with accessFrom := max r.accessFrom (s.cyc + 1) }) else s)) ∧
  (∀ s, Ready s .ewait {} → exec .ewait s = .next (
    if s.myTile.eng.queue = [] ∧ (s.myTile.eng.state = .idle ∨ s.myTile.eng.state = .error) then complete s else s)) ∧
  ∀ s t w, TileOpen s t →
    let e := (s.tile t).eng
    let e' : Engine := if bad w then e else if w.getLsbD 63 = true then cleared e
      else if e.state = .error ∨ 4 ≤ e.queue.length then e else queued w e
    ∃ u, exec (.kick t w) s = .next u ∧ u.tile t = { s.tile t with eng := e' } ∧
      ((s.tile t).unmapped = false → (u.deferred = s.deferred ++ [.kick t w] ↔
        bad w = false ∧ w.getLsbD 63 = false ∧ e.state ≠ .error ∧ 4 ≤ e.queue.length))) ∧
  (∀ s t, ((s.tile t).eng.job.isSome = true ∨ (s.tile t).eng.queue = [] ∨ (s.tile t).eng.state = .error) →
    ∃ u, exec (.engineJobStart t) s = .next u ∧ u.tile t = s.tile t) ∧
  (∀ s t k rest, (s.tile t).eng.job = none → (s.tile t).eng.queue = k :: rest → (s.tile t).eng.state ≠ .error →
    let desc := bits k.toNat 0 19
    let served := bankFree (s.tile t) desc && !outwaited .engine desc (s.tile t)
    (served = false → ∃ u, exec (.engineJobStart t) s = .next u ∧ (u.tile t).eng = (s.tile t).eng ∧ KeepsMemory s u) ∧
    (served = true → ∃ u, exec (.engineJobStart t) s = .next u ∧
      let e := (u.tile t).eng
      e.job = some k ∧ e.queue = rest ∧ e.state = .running ∧ e.progress = 0 ∧
      e.ending = (badIn (s.tile t).badLm desc 64).map (fun w => (8, w64 (4 * w))) ∧
      e.desc = memBytes (s.tile t).lm desc 64 ∧ e.r.pc = w64 (8 * bits k.toNat 20 4) ∧
      (∀ r : Reg, e.r.g[r] = if r = 1 then k else if r = 2 then w64 desc else 0) ∧ KeepsMemory s u)) ∧
  ∀ s t k err (efault : W64), (s.tile t).eng.job = some k → (s.tile t).eng.ending = some (err, efault) → err < 2 ^ 8 →
    let busy : Prop := (s.tile t).eng.r.accesses ≠ [] ∨ (s.tile t).eng.r.amo ≠ none ∨
      ∃ x, (s.tile t).eng.shared = .sorusRunning x
    let served := bankFree (s.tile t) (bits k.toNat 0 19 + 0x38) &&
      !outwaited .engine (bits k.toNat 0 19 + 0x38) (s.tile t)
    (busy → exec (.engineJobEnd t) s = .next s) ∧
    (¬busy → served = false → ∃ u, exec (.engineJobEnd t) s = .next u ∧ (u.tile t).eng = (s.tile t).eng ∧ KeepsMemory s u) ∧
    (¬busy → served = true → err ≠ 8 → bits k.toNat 0 19 + 64 ≤ 0x80000 →
      ∃ u, exec (.engineJobEnd t) s = .next u ∧
        let e := (s.tile t).eng
        let f := (u.tile t).eng
        let at_ := bits k.toNat 0 19 + 0x38
        memRead (u.tile t).lm at_ 4 = (if err = 0 then e.result.toNat % 2 ^ 32 else 0) ∧
        memRead (u.tile t).lm (at_ + 4) 4 = err ∧ KeepsMemoryBut t (fun p => at_ ≤ p ∧ p < at_ + 8) s u ∧
        f.job = none ∧ f.tag = bits k.toNat 24 8 ∧ f.kicks = e.kicks ∧
        (err = 0 → f.state = .idle ∧ f.queue = e.queue ∧ f.done = (e.done + 1) % 2 ^ 16 ∧ f.err = 0 ∧ f.efault = 0) ∧
        (err ≠ 0 → f.state = .error ∧ f.queue = [] ∧ f.done = (e.done + 1 + e.queue.length) % 2 ^ 16 ∧ f.err = err ∧
          f.errorBit = true ∧ f.efault = efault))

/-- The copies of a tile engine (R286, R296-R304). Every engine-only word waits for the hart's unmarked and acquiring
accesses, then ends its job for a misaligned, an out-of-range or an unusable descriptor; a descriptor other than the job's
is read once its bank serves the engine, and ends the job with ERR 8 where a word is bad. emove and estrd move the largest
piece the destination's address allows, row by row; egath and escat one element by its index; estream one flit into its
queue, edrain one out of it. A piece is read in natural pieces of its source, each once its bank serves the engine, and what
has been read is kept; a delivery is performed at once where its bank serves, or stands out as a relaxed store that counts
when it completes, and in PROGRESS with it. Any part of the source that is still to be consumed may be read ahead, in any
order, which takes the engine's cycle, and nothing but that is changed by it. Each copy finishes when all is done, with the
count as its result, emove with SIDE then installs its entry. What rests on the model's own choice or reading is log entries
26, 27, 41, 86 and 103. -/
def Obligations.EngineCopies : Prop :=
  (∀ (s : State) t i d a ok, engineWord i = some (d, a, ok) → s.hart = .engine t →
    Ready s i { gs := [a], gd := some d } →
    let va := plainG s.regs a
    let ends (err : Nat) : State := s.modTile t fun x => { x with eng := { x.eng with ending := some (err, va) } }
    (accessOpen s = false → exec i s = .next s) ∧
    (accessOpen s = true → va.toNat % 64 ≠ 0 → exec i s = .next (ends 3)) ∧
    (accessOpen s = true → va.toNat % 64 = 0 → 0x7FFC0 < va.toNat → exec i s = .next (ends 4)) ∧
    (accessOpen s = true → va.toNat % 64 = 0 → va.toNat ≤ 0x7FFC0 →
      (∀ b, descOf (s.tile t).eng va = some b → ok (parseDesc b) = false → exec i s = .next (ends 2)) ∧
      (descOf (s.tile t).eng va = none →
        (¬Served s va.toNat → ∃ u, exec i s = .next u ∧ (u.tile t).eng = (s.tile t).eng ∧ KeepsMemory s u) ∧
        (Served s va.toNat →
          (∀ w, badIn (s.tile t).badLm va.toNat 64 = some w → exec i s = .next (s.modTile t fun x => { x with
            eng := { x.eng with ending := some (8, w64 (4 * w)) } })) ∧
          (badIn (s.tile t).badLm va.toNat 64 = none → ∃ u, exec i s = .next u ∧ KeepsMemory s u ∧
            (u.tile t).eng = { (s.tile t).eng with
              other := some (va.toNat, memBytes (s.tile t).lm va.toNat 64) }))))) ∧
  (∀ s t i d x a, EngineAt s t i d x → NotLast s → NoLoopEnd s →
    let p := (s.tile t).eng.next
    (i = .emove d a → x.len ≤ p → ∃ u, exec i s = .next u ∧ EngineDone s u t d (w64 x.len) ∧
      (bit x.ctl 19 = true → (s.tile t).wrote = [] → (∃ j : Fin 64, (s.tile t).side[j].valid = false) →
        ∃ j : Fin 64, (u.tile t).side[j] = { flow := bits x.w30.toNat 0 16, seq := bits x.w30.toNat 16 16
                                             addr := x.dst.toNat / 32, len := x.len / 32, valid := true }) ∧
      (bit x.ctl 19 = false → (u.tile t).side = (s.tile t).side)) ∧
    (i = .estrd d a → x.len * x.w14 ≤ p → ∃ u, exec i s = .next u ∧ EngineDone s u t d (w64 (x.len * x.w14))) ∧
    ((i = .egath d a ∨ i = .escat d a ∨ i = .estream d a) → x.len ≤ p →
      ∃ u, exec i s = .next u ∧ EngineDone s u t d (w64 x.len)) ∧
    (i = .edrain d a → (x.len ≤ p ∨ (s.tile t).eng.last = true) → ∃ u, exec i s = .next u ∧ EngineDone s u t d (w64 p))) ∧
  (∀ s t i d x a (row : W64) (o n : Nat), EngineAt s t i d x →
    (i = .emove d a ∧ row = 0 ∧ o = (s.tile t).eng.next ∧ o < x.len ∨
      i = .estrd d a ∧ row = w64 ((s.tile t).eng.next / x.len) ∧ o = (s.tile t).eng.next % x.len ∧
        (s.tile t).eng.next < x.len * x.w14) →
    let from_ := x.src + row * x.w18 + w64 o
    let to_ := x.dst + row * x.w20 + w64 o
    IsPiece to_.toNat (x.len - o) n →
    (∀ bs taken, EngineHas s t (ctlSrcl x.ctl) [] from_ n bs taken →
      (ctlDstl x.ctl = true → to_.toNat + n ≤ 0x80000 → EnginePuts s i t x.ctl to_ bs n taken) ∧
      (ctlDstl x.ctl = true → 0x80000 < to_.toNat + n →
        ∃ u, exec i s = .next u ∧ (u.tile t).eng.ending = some (4, to_) ∧ KeepsMemory s u) ∧
      (ctlDstl x.ctl = false → ctlSrcl x.ctl = true → canonical to_ = true → ∀ y,
        tlbFind (s.tile t) (s.ctxOf (.engine t)) to_ true = some y →
        ∃ u, exec i s = .next u ∧ EngineIssues s u t x.ctl to_ (tlbPa y to_) false bs n)) ∧
    ∀ h m, ctlSrcl x.ctl = true → ctlDstl x.ctl = true → (s.tile t).eng.ahead = [] → (s.tile t).badLm = [] → h < n →
      (s.tile t).eng.buf = memBytes (s.tile t).lm from_.toNat h → IsPiece (from_ + w64 h).toNat (n - h) m →
      (0x80000 ≤ (from_ + w64 h).toNat →
        ∃ u, exec i s = .next u ∧ (u.tile t).eng.ending = some (4, from_ + w64 h) ∧ KeepsMemory s u) ∧
      (from_.toNat + n ≤ 0x80000 → to_.toNat + n ≤ 0x80000 → ¬Served s (from_.toNat + h) → ∃ u, exec i s = .next u ∧
        KeepsMemory s u ∧ (u.tile t).eng.buf = (s.tile t).eng.buf ∧ (u.tile t).eng.next = (s.tile t).eng.next) ∧
      (from_.toNat + n ≤ 0x80000 → to_.toNat + n ≤ 0x80000 → Served s (from_.toNat + h) → ∃ u k, exec i s = .next u ∧
        h + m ≤ k ∧ ((k < n ∧ (u.tile t).eng.buf = memBytes (s.tile t).lm from_.toNat k ∧
          (u.tile t).eng.next = (s.tile t).eng.next ∧ (u.tile t).eng.progress = (s.tile t).eng.progress ∧ KeepsMemory s u) ∨
          (k = n ∧ (EngineDelivers s u t x.ctl to_ (memBytes (s.tile t).lm from_.toNat n) n ∨
            EngineIssues s u t x.ctl to_ (windowPa t to_.toNat) true (memBytes (s.tile t).lm from_.toNat n) n))))) ∧
  (∀ s t i d x a g, EngineAt s t i d x → (i = .egath d a ∧ g = true ∨ i = .escat d a ∧ g = false) →
    let k := (s.tile t).eng.next
    let n := ctlEsz x.ctl
    let iw := ctlIw x.ctl
    let at_ := (x.w18 + w64 (k * iw)).toNat
    let ea (xb : List Byte) := (if g then x.src else x.dst) + w64 (leVal xb) * w64 n
    let el := (if g then x.dst else x.src) + w64 (k * n)
    k < x.len →
    (∀ xb, xb.length = iw → (s.tile t).eng.buf = xb ∨ ((s.tile t).eng.buf = [] ∧ at_ + iw ≤ 0x80000 ∧ Served s at_ ∧
        (s.tile t).badLm = [] ∧ xb = memBytes (s.tile t).lm at_ iw) →
      ((ea xb).toNat % n ≠ 0 → ∃ u, exec i s = .next u ∧ (u.tile t).eng.ending = some (3, ea xb) ∧ KeepsMemory s u) ∧
      ((ea xb).toNat % n = 0 → el.toNat % n ≠ 0 →
        ∃ u, exec i s = .next u ∧ (u.tile t).eng.ending = some (3, el) ∧ KeepsMemory s u)) ∧
    (∀ xb bs taken, xb.length = iw → (ea xb).toNat % n = 0 → el.toNat % n = 0 →
      EngineHas s t (ctlSrcl x.ctl) xb (if g then ea xb else el) n bs taken → ctlDstl x.ctl = true →
      (if g then el else ea xb).toNat + n ≤ 0x80000 → EnginePuts s i t x.ctl (if g then el else ea xb) bs 1 taken) ∧
    ((s.tile t).eng.buf = [] → 0x80000 < at_ + iw →
      ∃ u, exec i s = .next u ∧ (u.tile t).eng.ending = some (4, w64 at_) ∧ KeepsMemory s u)) ∧
  (∀ s t d x a, EngineAt s t (.estream d a) d x →
    let j := (s.tile t).eng.next
    let q := fin8 (ctlQueue x.ctl)
    j < x.len →
    (12 < ((s.tile t).inQ[q]).length → ∃ u, exec (.estream d a) s = .next u ∧ (u.tile t).eng.state = .waiting ∧
      (u.tile t).inQ[q] = (s.tile t).inQ[q] ∧ (u.tile t).eng.progress = (s.tile t).eng.progress ∧
      (u.tile t).eng.next = j) ∧
    (∀ bs taken, ((s.tile t).inQ[q]).length ≤ 12 →
      EngineHas s t (ctlSrcl x.ctl) [] (x.src + w64 (32 * j)) 32 bs taken →
      ∃ u, exec (.estream d a) s = .next u ∧ EngineGoesOn s u t 1 ∧ KeepsMemory s u ∧
      (u.tile t).bars = counted x.ctl 32 (s.tile t) ∧
      (u.tile t).inQ[q] = (s.tile t).inQ[q] ++ (List.range 4).map fun m =>
        { word := w64 (bytesAt bs (8 * m) 8)
          h := bit x.ctl 16 && (j == 0 || (ctlBlk x.ctl != 0 && j % ctlBlk x.ctl == 0))
          e := bit x.ctl 17 && j + 1 == x.len, pos := m, from_ := (s.tile t).cycle + 1, pending := none : QEntry })) ∧
  (∀ s t d x a (es : Vector QEntry 4) rest, EngineAt s t (.edrain d a) d x → ctlDstl x.ctl = true →
    let j := (s.tile t).eng.next
    let q := fin8 (ctlQueue x.ctl)
    let to_ := x.dst + w64 (32 * j)
    let bs := es.toList.flatMap fun y => leBytes 8 y.word.toNat
    j < x.len → (s.tile t).eng.last = false → to_.toNat + 32 ≤ 0x80000 → (s.tile t).outQ[q] = es.toList ++ rest →
    (∀ m : Fin 4, es[m].from_ ≤ (s.tile t).cycle ∧ es[m].pending = none) →
    ∃ u, exec (.edrain d a) s = .next u ∧ (u.tile t).outQ[q] = rest ∧
      (u.tile t).eng.last = (bit x.ctl 18 && es[0].e) ∧
      (Served s to_.toNat → EngineDelivers s u t x.ctl to_ bs 1) ∧
      (¬Served s to_.toNat → EngineIssues s u t x.ctl to_ (windowPa t to_.toNat) true bs 1)) ∧
  (∀ (s : State) t a c bs, (s.tile t).eng.r.accesses = [a] → a.kind = .store bs → a.loc = true → a.post = none →
    a.dest = .none → a.blocking = false → a.n = bs.length → 0 < bs.length → bs.length ≤ 64 → a.units ≠ 0 →
    a.va.toNat + a.n ≤ 0x80000 → a.pa = windowPa t a.va.toNat → s.postsOf a.pa a.n = [] →
    let free := bankFree (s.tile t) a.va.toNat && !outwaited .engine a.va.toNat (s.tile t)
    (free = true → ∃ u, exec (.accessComplete (.engine t) c) s = .next u ∧ (u.tile t).eng.r.accesses = [] ∧
      (u.tile t).eng.progress = (s.tile t).eng.progress + a.units ∧ Stored s u t a.va.toNat bs) ∧
    (free = false → ∃ u, exec (.accessComplete (.engine t) c) s = .next u ∧
      (u.tile t).eng.r.accesses = [{ a with waits := true }] ∧ (u.tile t).eng.progress = (s.tile t).eng.progress ∧
      KeepsMemory s u)) ∧
  ∀ (s : State) t i, (aheadOf i t s = none → readAhead i t s = (false, { s with fresh := s.fresh + 1 })) ∧
    ∀ d piece len, aheadOf i t s = some (d, piece, len) → ctlSrcl d.ctl = true →
      let u := (readAhead i t s).2
      ∃ l, ((readAhead i t s).1 = true ↔ l ≠ []) ∧ l.length ≤ 1 ∧
        (u.tile t).eng = { (s.tile t).eng with ahead := (s.tile t).eng.ahead ++ l } ∧
        (∀ y ∈ l, (s.tile t).eng.next ≤ y.1 ∧ y.1 < len ∧ ∃ o n, o + n ≤ (piece y.1).n ∧ 0 < n ∧
          y.2.1 = (piece y.1).src + w64 o ∧ y.2.2 = memBytes (s.tile t).lm y.2.1.toNat n) ∧ KeepsMemory s u ∧
        ∀ k, u.strandAt t k = s.strandAt t k

/-- Collectives (R305-R308, R346). An ered of a failed collective that has not ended ends at once with ERR 7, whatever its
fields. Else it reads its elements, and contributes them: the first opens the collective, a further one joins it if its
fields agree, and a free, finite time after the last COLLECTIVE_COMPLETE is called, which forms the result: in order of
arrival, or over the ranks in increasing order as a tree, whatever their number and the order of arrival, slice by slice
where the launch runs so. A disagreeing, a second and a surplus contribution fail the collective with ERR 7; a forbidden
floating add ends with ERR 6. The result is then written piece by piece, and the instruction is done. What rests on the
model's own choice or reading is log entries 46 and 47. -/
def Obligations.EngineCollectives : Prop :=
  let same (c : Collective) (g : Group) (x : Desc) : Prop := c.lnum = g.lnum ∧ c.coll = bits x.w18.toNat 0 32
  let agrees (c : Collective) (x : Desc) : Prop := c.count = x.len ∧ c.type = bits x.w14 0 4 ∧ c.op = bits x.w14 4 4 ∧
    c.arrival = bit x.w14 8 ∧ c.rm = bits x.w14 9 2 ∧ c.p = bits x.w18.toNat 32 32
  (∀ s t d x a g, EngineAt s t (.ered d a) d x → (s.tile t).group = some g → (s.tile t).eng.shared = .none →
    let refused : Prop := g.det = true ∧ bits x.w14 4 4 = 0 ∧ bits x.w14 0 4 ≤ 2 ∧
      (bit x.w14 8 = true ∨ ∃ l, s.launch? g.lnum = some l ∧ l.r.split = true)
    let desc := w64 (bits ((s.tile t).eng.job.getD 0).toNat 0 19)
    let n := redSize (bits x.w14 0 4)
    let buf := (s.tile t).eng.buf
    (∀ l c r, s.hub.colls = l ++ c :: r → (∀ y ∈ l, ¬(y.failed = true ∧ same y g x ∧ y.ended.length < y.p)) →
      c.failed = true → same c g x → c.ended.length < c.p →
      ∃ u, exec (.ered d a) s = .next u ∧ (u.tile t).eng.ending = some (7, desc) ∧ KeepsMemory s u) ∧
    ((∀ c ∈ s.hub.colls, same c g x → c.ended.length < c.p → c.failed = false) →
      (refused → ∃ u, exec (.ered d a) s = .next u ∧ (u.tile t).eng.ending = some (6, desc) ∧ u.hub = s.hub) ∧
      (¬refused → ctlSrcl x.ctl = true → x.src.toNat + n * x.len ≤ 0x80000 → (s.tile t).badLm = [] → ∀ m,
        buf.length < n * x.len → IsPiece (x.src.toNat + buf.length) (n * x.len - buf.length) m →
        Served s (x.src.toNat + buf.length) →
        ∃ u k, exec (.ered d a) s = .next u ∧ m ≤ k ∧ KeepsMemory s u ∧
          (buf.length + k = n * x.len ∨ (buf.length + k < n * x.len ∧ u.hub = s.hub ∧
            (u.tile t).eng.buf = buf ++ memBytes (s.tile t).lm (x.src.toNat + buf.length) k))) ∧
      (¬refused → buf.length = n * x.len →
        let vals := (List.range x.len).map fun j => bytesAt buf (n * j) n
        ((∀ c ∈ s.hub.colls, same c g x → c.p ≤ c.ended.length) →
          ∃ u c, exec (.ered d a) s = .next u ∧ u.hub.colls = s.hub.colls ++ [c] ∧ same c g x ∧ agrees c x ∧
            c.contrib = [(g.rank, vals)] ∧ c.result = none ∧ c.failed = false ∧
            (u.tile t).eng.shared = .collective c.id ∧ (u.tile t).eng.state = .waiting ∧ s.now ≤ c.due ∧
            u.inputs = s.inputs) ∧
        ∀ l c r, s.hub.colls = l ++ c :: r → (∀ y ∈ l, same y g x → y.p ≤ y.ended.length) → same c g x →
          c.ended.length < c.p → (∀ y ∈ l ++ r, y.id ≠ c.id) →
          (c.result.isSome = true → ∃ u, exec (.ered d a) s = .next u ∧ u.hub = s.hub ∧
            (u.tile t).eng.state = .waiting ∧ (u.tile t).eng.shared = .none) ∧
          (c.result = none →
            let joins : Prop := agrees c x ∧ c.contrib.length < c.p ∧ ∀ y ∈ c.contrib, y.1 ≠ g.rank
            (joins → ∃ u due, exec (.ered d a) s = .next u ∧ (u.tile t).eng.shared = .collective c.id ∧ s.now ≤ due ∧
              u.hub.colls = l ++ { c with
                contrib := c.contrib ++ [(g.rank, vals)], waiting := c.waiting ++ [g.rank], due := due } :: r ∧
              u.inputs = s.inputs) ∧
            (¬joins → ∃ u, exec (.ered d a) s = .next u ∧ (u.tile t).eng.ending = some (7, desc) ∧
              ∀ c' ∈ u.hub.colls, c'.id = c.id → c'.failed = true ∧
                ∀ k, k ∈ c'.ended ↔ k = g.rank ∨ ∃ y ∈ c.contrib, y.1 = k))))) ∧
  (∀ s t d x a g id c, EngineAt s t (.ered d a) d x → (s.tile t).group = some g →
    (s.tile t).eng.shared = .collective id → s.hub.colls.find? (fun y => y.id == id) = some c →
    (c.failed = true → ∃ u, exec (.ered d a) s = .next u ∧
      (u.tile t).eng.ending = some (7, w64 (bits ((s.tile t).eng.job.getD 0).toNat 0 19))) ∧
    (c.failed = false → c.result = none → ∃ u, exec (.ered d a) s = .next u ∧ (u.tile t).eng.state = .waiting ∧
      (u.tile t).eng.shared = .collective id) ∧
    ∀ xs, c.failed = false → c.result = some xs → ∃ u, exec (.ered d a) s = .next u ∧
      (u.tile t).eng.shared = .writing id (xs.flatMap fun v => leBytes (redSize c.type) v) ∧ (u.tile t).eng.progress = 0 ∧
      (u.tile t).eng.next = 0) ∧
  (∀ s t d x a g id out n, EngineAt s t (.ered d a) d x → (s.tile t).group = some g →
    (s.tile t).eng.shared = .writing id out → ctlDstl x.ctl = true →
    let p := (s.tile t).eng.next
    let to_ := x.dst + w64 p
    let bs := (out.drop p).take n
    (out.length ≤ p → NotLast s → NoLoopEnd s → ∃ u, exec (.ered d a) s = .next u ∧ EngineDone s u t d 0 ∧
      (u.tile t).eng.shared = .none) ∧
    (p < out.length → IsPiece to_.toNat (out.length - p) n → to_.toNat + n ≤ 0x80000 →
      (Served s to_.toNat → ∃ u, exec (.ered d a) s = .next u ∧ EngineDelivers s u t x.ctl to_ bs n) ∧
      (¬Served s to_.toNat → ∃ u, exec (.ered d a) s = .next u ∧
        EngineIssues s u t x.ctl to_ (windowPa t to_.toNat) true bs n)) ∧
    (p < out.length → IsPiece to_.toNat (out.length - p) n → 0x80000 < to_.toNat + n →
      ∃ u, exec (.ered d a) s = .next u ∧ (u.tile t).eng.ending = some (4, to_) ∧ KeepsMemory s u)) ∧
  (∀ (s : State) (c : Collective), s.hub.colls = [c] → c.failed = false → c.result = none →
    dueCollectives s = if c.p ≤ c.contrib.length ∧ c.due ≤ s.now then [.collectiveComplete c.lnum c.coll] else []) ∧
  (∀ (s : State) (c : Collective), s.hub.colls = [c] → c.failed = false → c.result = none → c.p = c.contrib.length →
    let f (a b : List Nat) : List Nat := List.zipWith (redOp c.type c.op c.rm) a b
    let isTree (l : List (Nat × List Nat)) (xs : List Nat) : Prop := ∀ m k, List.Perm m l →
      List.Pairwise (fun a b => a.1 < b.1) m → m.length ≤ 2 ^ k → xs = treeOf f k (m.map (·.2))
    ∃ u xs, exec (.collectiveComplete c.lnum c.coll) s = .next u ∧ u.hub.colls = [{ c with result := some xs }] ∧
      u.tiles = s.tiles ∧ u.mem = s.mem ∧
      (c.arrival = true → ∀ y r, c.contrib = y :: r → xs = r.foldl (fun acc z => f acc z.2) y.2) ∧
      (c.arrival = false → c.slice = 0 → isTree c.contrib xs) ∧
      (c.arrival = false → c.slice ≠ 0 → ∃ ks ts, ks.length = ts.length ∧ ks.Nodup ∧
        (∀ k, k ∈ ks ↔ ∃ y ∈ c.contrib, y.1 / c.slice = k) ∧
        List.Pairwise (fun k k' => ∃ l y r, c.contrib = l ++ y :: r ∧ y.1 / c.slice = k' ∧ ∀ z ∈ r, z.1 / c.slice ≠ k) ks ∧
        (∀ p ∈ ks.zip ts, isTree (c.contrib.filter fun y => y.1 / c.slice == p.1) p.2) ∧
        ∀ y r, ts = y :: r → xs = r.foldl f y)) ∧
  ∀ ty op rm x y,
    (∀ f, (ty = 0 ∧ f = fmtF32) ∨ (ty = 1 ∧ f = fmtBf16) ∨ (ty = 2 ∧ f = fmtF16) →
      (op = 0 → redOp ty op rm x y = (sumOf f (modeOf rm) (decodeF f x) (decodeF f y)).1) ∧
      ((op = 1 ∨ op = 2) → redOp ty op rm x y = (fpickLane (op == 2) (.flt f) (modeOf rm) x y).1)) ∧
    ∀ w sgn, (ty, w, sgn) ∈ [(8, 32, true), (9, 32, false), (10, 64, true), (11, 64, false)] → x < 2 ^ w → y < 2 ^ w →
      redOp ty op rm x y = match op with
        | 0 => (x + y) % 2 ^ w
        | 1 => if intValue w sgn x ≤ intValue w sgn y then x else y
        | 2 => if intValue w sgn y ≤ intValue w sgn x then x else y
        | 3 => x &&& y
        | 4 => x ||| y
        | _ => x ^^^ y

/-- The Sorus sampler (R309-R314). esort and esamp line up at the die's sampler and wait; an idle sampler serves the
first in line; when the request ends, its result stands in local memory, the sampler is free, and the engine takes gd,
or ends its job with the error. A sort gives the best K candidates by the total order of R310, over its elements, scaled by
the temperature, or over the lists of its table; a sampling takes the first entry at temperature 0, else it draws as R312
has it, over the cumulative sums of the exponentials, below the threshold, by the word of R313. The result is delivered
piece by piece as its banks serve. What rests on the model's own choice or reading is log entries 20, 103 and 104. -/
def Obligations.EngineSampler : Prop :=
  (∀ s t i d x a, EngineAt s t i d x → (i = .esort d a ∨ i = .esamp d a) →
    ((s.tile t).eng.shared = .none → ∃ u, exec i s = .next u ∧ (u.tile t).eng.shared = .sorusWaiting ∧
      (u.tile t).eng.state = .waiting ∧ (u.die (tileDie t)).sorusQ = (s.die (tileDie t)).sorusQ ++ [t.val]) ∧
    (∀ e gd, (s.tile t).eng.shared = .answered 0 e gd → NotLast s → NoLoopEnd s →
      ∃ u, exec i s = .next u ∧ EngineDone s u t d (w64 gd) ∧ (u.tile t).eng.shared = .none) ∧
    ∀ err e gd, err ≠ 0 → (s.tile t).eng.shared = .answered err e gd →
      ∃ u, exec i s = .next u ∧ (u.tile t).eng.ending = some (err, e)) ∧
  (∀ (s : State) d t rest, (s.die d).sorusRun = none → (s.die d).sorusQ = t :: rest →
    ∃ u, exec (.sorusRequestStart d) s = .next u ∧ (u.die d).sorusRun = some t ∧ (u.die d).sorusQ = rest ∧
      (u.tile (tileOf t)).eng.shared = .sorusRunning none) ∧
  (∀ (s : State) d, ((s.die d).sorusRun.isSome = true ∨ (s.die d).sorusQ = [] → exec (.sorusRequestStart d) s = .next s) ∧
    ((s.die d).sorusRun = none → exec (.sorusRequestEnd d) s = .next s)) ∧
  (∀ (s : State) (d : DieNo) (t : TileNo) (x : Desc) sort, (s.die d).sorusRun = some t.val →
    (s.tile t).eng.r.held = none → (s.tile t).eng.ending = none → sorusDesc t s = some (sort, x) →
    ctlSrcl x.ctl = true → ctlDstl x.ctl = true →
    let buf := (s.tile t).eng.buf
    let computed (out : List Byte) (gd : Nat) : Prop := x.dst.toNat + out.length ≤ 0x80000 →
      ∃ u, exec (.sorusRequestEnd d) s = .next u ∧
        ((u.tile t).eng.shared = .sorusRunning (some (out, gd)) ∨ (u.tile t).eng.shared = .answered 0 0 gd) ∧
        KeepsMemoryBut t (fun p => x.dst.toNat ≤ p ∧ p < x.dst.toNat + out.length) s u
    let answered (err : Nat) (v : W64) : Prop := ∃ u, exec (.sorusRequestEnd d) s = .next u ∧
      (u.die d).sorusRun = none ∧ (u.tile t).eng.shared = .answered err v 0 ∧ KeepsMemory s u
    ((s.tile t).eng.shared = .sorusRunning none → (s.tile t).eng.r.accesses = [] → (s.tile t).eng.r.amo = none →
      (sort = true → sortMerge x = false →
        let f := sortFmt x
        let n := f.width / 8
        let cs := (List.range x.len).map fun j => (⟨scaledValue f (bits x.w20.toNat 0 32) (bytesAt buf (n * j) n),
          bits x.w18.toNat 0 32 + j, 0, j⟩ : Cand)
        (x.src.toNat % n ≠ 0 → answered 3 x.src) ∧
        (x.src.toNat % n = 0 → buf.length = n * x.len → computed (bestOf x cs).1 (bestOf x cs).2)) ∧
      (sort = true → sortMerge x = true → ∀ (tb : List Byte) (ls : List (List Byte)),
        let m := bits x.w18.toNat 32 32
        let count (l : Nat) : Nat := bytesAt tb (16 * l + 8) 4
        let clean : Prop := ∀ l, l < m → count l ≤ 1024 ∧ bytesAt tb (16 * l + 12) 4 = 0
        tb.length = 16 * m →
        (buf = tb → ¬clean → answered 2 (w64 (bits ((s.tile t).eng.job.getD 0).toNat 0 19))) ∧
        (clean → buf = tb → bytesAt tb 0 8 % 8 ≠ 0 → 0 < m → answered 3 (w64 (bytesAt tb 0 8))) ∧
        (clean → buf = tb ++ ls.flatten → ls.length = m → (∀ l y, ls[l]? = some y → y.length = 8 * count l) →
          (∀ l, l < m → bytesAt tb (16 * l) 8 % 8 = 0) →
          let cs := (List.range m).flatMap fun l => (List.range (count l)).map fun q =>
            (⟨candValue (bytesAt (ls[l]?.getD []) (8 * q) 4), bytesAt (ls[l]?.getD []) (8 * q + 4) 4, l, q⟩ : Cand)
          computed (bestOf x cs).1 (bestOf x cs).2)) ∧
      (sort = false →
        (x.dst.toNat % 16 ≠ 0 → answered 3 x.dst) ∧
        (x.dst.toNat % 16 = 0 → buf.length = 8 * x.len → sampOk x = true →
          ∃ j total w, DrawIs x (fun i => candValue (bytesAt buf (8 * i) 4)) j total w ∧
            let idx := bytesAt buf (8 * j + 4) 4
            computed (leBytes 4 idx ++ leBytes 4 j ++ leBytes 4 total ++ leBytes 4 w) idx))) ∧
    ∀ out gd, (s.tile t).eng.shared = .sorusRunning (some (out, gd)) → (s.tile t).eng.r.accesses = [] →
      (s.tile t).eng.r.amo = none →
      let p := (s.tile t).eng.next
      (out.length ≤ p → ∃ u, exec (.sorusRequestEnd d) s = .next u ∧ (u.die d).sorusRun = none ∧
        (u.tile t).eng.shared = .answered 0 0 gd ∧ KeepsMemory s u) ∧
      ∀ n, IsPiece (x.dst + w64 p).toNat (out.length - p) n → out.length = p + n → (x.dst + w64 p).toNat + n ≤ 0x80000 →
        bankFree (s.tile t) (x.dst + w64 p).toNat = true → outwaited .engine (x.dst + w64 p).toNat (s.tile t) = false →
        ∃ u, exec (.sorusRequestEnd d) s = .next u ∧ (u.die d).sorusRun = none ∧
          (u.tile t).eng.shared = .answered 0 0 gd ∧ Stored s u t (x.dst + w64 p).toNat (out.drop p)) ∧
  (∀ a b c, (candLe a b = true ∨ candLe b a = true) ∧ (candLe a b = true → candLe b c = true → candLe a c = true)) ∧
  ∀ x cs, (bestOf x cs).2 = min (bits x.w14 0 11) cs.length ∧
    ∃ best rest : List Cand, List.Perm (best ++ rest) cs ∧ best.length = (bestOf x cs).2 ∧
      (bestOf x cs).1 = best.flatMap (fun c => leBytes 4 c.value ++ leBytes 4 c.index) ∧
      List.Pairwise (fun a b => candLe a b = true) best ∧ ∀ a ∈ best, ∀ b ∈ rest, candLe a b = true
end

namespace Sys2Proof.Claims
open Sys2Proof.Machine

/-! ### The switch -/

/-- A routing word: E-stop, count, the sources it takes beside its route's, its route, and how it forms X (R176, R178,
R184, R185). -/
def routing : Instr → Option (Bool × Nat × List Src × Route × (State → TileNo → List (Src × Flit) → XResult))
  | .sroute e c r => some (e, c.val, [], r, fun s t _ => .x {} (s.tile t).sw.mode)
  | .sskip e c a => some (e, c.val, [a], ⟨.none, .none, .none, .none, .none, .none, .none, .none⟩,
      fun s t _ => .x {} (s.tile t).sw.mode)
  | .sxor e c a b r => some (e, c.val, [a, b], r, formXor a b)
  | .sdec e c a r => some (e, c.val, [a], r, formDec a)
  | _ => none

/-- The outputs of a route with their sources (R52, R53). -/
def outsOf (r : Route) : List (OutPort × Src) :=
  ([(.link 0, r.n), (.link 1, r.e), (.link 2, r.s), (.link 3, r.w), (.core 0, r.c0), (.core 1, r.c1), (.core 2, r.c2),
    (.latch, r.l)] : List (OutPort × Src)).filter fun p => p.2 != .none

/-- Each flit source that a word names, once (R176). -/
def sourcesOf (extra : List Src) (r : Route) : List Src :=
  ((extra ++ (outsOf r).map (·.2)).filter fun a => a != .x && a != .none).eraseDups

/-- A flit as four words of an input queue, to be read from cycle `c` (R163, R177). -/
def flitWords (f : Flit) (c : Nat) : List QEntry :=
  (List.range 4).map fun j => ⟨f.data.extractLsb' (64 * j) 64, f.h, f.e, j, c, none⟩

/-- The switch has stopped with a cause at a word, and the strand `k` has the fault pending (R186, R187). -/
def SwitchStops (u : State) (t : TileNo) (k : Fin 8) (cause word : Nat) : Prop :=
  (u.tile t).sw.run = .stopped ∧ (u.tile t).sw.inj = 0 ∧ (u.strandAt t k).swpend = true ∧
    bits (u.tile t).sw.fault.toNat 0 11 = word ∧ bits (u.tile t).sw.fault.toNat 11 4 = cause ∧
    (u.tile t).sw.fault.getLsbD 15 = true ∧ bits (u.tile t).sw.fault.toNat 16 4 = k.val

/-- The strand that takes the fault of a word that names the core outputs `outs`: the one bound to the input queue of the
lowest of them, else the lowest started one not retired (R187). -/
def FaultStrand (s : State) (t : TileNo) (outs : List (Fin 8)) (k : Fin 8) : Prop :=
  let bound := outs.head?.bind fun q => ((s.tile t).binds[q]).map Bind.strand
  bound = some k ∨ (bound = none ∧ ∃ g, (s.tile t).group = some g ∧ g.mask.getLsbD k.val = true ∧
    (s.strandAt t k).run ≠ .retired ∧ ∀ j, j < k → g.mask.getLsbD j.val = true → (s.strandAt t j).run = .retired)

/-- The core outputs a route names, lowest first. -/
def coresOf (r : Route) : List (Fin 8) :=
  (if r.c0 = .none then [] else [0]) ++ (if r.c1 = .none then [] else [1]) ++ (if r.c2 = .none then [] else [2])

/-- The machine as a word finds it: an sdec word that is otherwise ready has asked for the bank of the held block's flit. -/
def found (i : Instr) (s : State) : State :=
  match i with
  | .sdec _ c a r => claimDecode c.val a r s.swTile s
  | _ => s

/-- Entry `i` of the side table is the lowest valid one of a key and length (R185). -/
def HoldsBlock (x : Tile) (i : Fin 64) (flow seq len : Nat) : Prop :=
  let has (j : Fin 64) : Prop :=
    x.side[j].valid = true ∧ x.side[j].flow = flow ∧ x.side[j].seq = seq ∧ x.side[j].len = len
  has i ∧ ∀ j, j < i → ¬has j

/-- No valid entry of the side table has the key and length. -/
def HoldsNone (x : Tile) (flow seq len : Nat) : Prop :=
  ∀ j : Fin 64, ¬(x.side[j].valid = true ∧ x.side[j].flow = flow ∧ x.side[j].seq = seq ∧ x.side[j].len = len)

/-- The switch goes on to a word (R178). -/
def switchTo (spc : Nat) (f : Switch → Switch) (x : Tile) : Tile :=
  { x with sw := { f x.sw with spc := spc, rep := 0, run := .running } }

end Sys2Proof.Claims

section
open Sys2Proof Sys2Proof.Machine Sys2Proof.Claims

/-! ### The switch -/

/-- Routing words (R174-R178, R184-R186). A word that names an unconnected port stops the switch with cause 3. A word waits,
changing nothing but the switch's run state, while a source holds no flit or an output has no room. Otherwise every named
source gives up one flit, every output receives its source's flit, or X, a lane's to be moved on from 6 cycles later and for
a credit that returns 6 cycles after its port buffer gives it up (R397), and the repetition is counted: after the last, or
at an end mark with E-stop, the next word follows. X of sxor is the exclusive or of two flits of equal marks, and of two
headers the first with the second's flow, sequence and the coded bit. sdec passes what is not coded; a coded header recovers
the first block when the partner's is held, else the partner when its own is, else the switch stops with a decode miss,
cause 4; each later flit is folded with the held block's, once the bank serves the switch; and a block whose entry is
cleared meanwhile stops at its next repetition, with the flits moved as OFFSET. What rests on the model's own choice or
reading is log entries 32, 72 and 100. -/
def Obligations.SwitchRouting : Prop :=
  (∀ i estop count extra r form, routing i = some (estop, count, extra, r, form) → ∀ s : State,
    let t := s.swTile
    let x := s.tile t
    let srcs := sourcesOf extra r
    (∀ e c a r, i = .sdec e c a r → x.sw.skip = 0 ∧ x.badLm = []) → x.sw.rep ≤ count →
    (∀ k, FaultStrand s t (coresOf r) k → x.sw.spc < 2048 →
      ((∃ a ∈ srcs, ∃ p, srcPort a = some p ∧ linkOf s t p false = .open_) ∨
        ∃ o ∈ outsOf r, ∃ p, o.1 = .link p ∧ linkOf s t p true = .open_) →
      ∃ u, exec i s = .next u ∧ SwitchStops u t k 3 x.sw.spc) ∧
    ((∀ a ∈ srcs, ∀ p, srcPort a = some p → linkOf s t p false ≠ .open_) →
      (∀ o ∈ outsOf r, ∀ p, o.1 = .link p → linkOf s t p true ≠ .open_) →
      (((∃ a ∈ srcs, srcFlit s t a = none) ∨ ∃ o ∈ outsOf r, outRoom s t o.1 = false) →
        exec i s = .next (s.modTile t fun x => { x with sw := { x.sw with run := .waiting } })) ∧
      ∀ (fl : Src → Flit), (∀ a ∈ srcs, srcFlit s t a = some (fl a)) → (∀ o ∈ outsOf r, outRoom s t o.1 = true) →
        let formed := form (found i s) t (srcs.map fun a => (a, fl a))
        (formed = .busy →
          exec i s = .next ((found i s).modTile t fun x => { x with sw := { x.sw with run := .waiting } })) ∧
        (∀ cause off flow partner len k, formed = .stop cause off flow partner len → FaultStrand s t (coresOf r) k →
          x.sw.spc < 2048 → cause < 16 → off < 2 ^ 12 → flow < 2 ^ 16 → partner < 2 ^ 16 →
          ∃ u, exec i s = .next u ∧ SwitchStops u t k cause x.sw.spc ∧ bits (u.tile t).sw.fault.toNat 20 12 = off ∧
            bits (u.tile t).sw.fault.toNat 32 16 = flow ∧ bits (u.tile t).sw.fault.toNat 48 16 = partner ∧
            (u.tile t).sw.missLen = len ∧ (u.tile t).outQ = x.outQ ∧ (u.tile t).inQ = x.inQ) ∧
        (∀ xf mode k, formed = .x xf mode → x.sw.spc = 2047 → FaultStrand s t (coresOf r) k →
          (count ≤ x.sw.rep ∨ (estop = true ∧ ∃ a ∈ srcs, (fl a).e = true)) →
          ∃ u, exec i s = .next u ∧ SwitchStops u t k 2 2047) ∧
        ∀ xf mode, formed = .x xf mode → x.sw.spc < 2047 → (∀ p v, linkOf s t p true = .tile v → v ≠ t) →
        ∃ u, exec i s = .next u ∧ (u.tile t).sw.mode = mode ∧
          (if count ≤ x.sw.rep ∨ (estop = true ∧ ∃ a ∈ srcs, (fl a).e = true)
            then (u.tile t).sw.spc = x.sw.spc + 1 ∧ (u.tile t).sw.rep = 0
            else (u.tile t).sw.spc = x.sw.spc ∧ (u.tile t).sw.rep = x.sw.rep + 1) ∧
          (u.tile t).sw.run = .running ∧
          (∀ a ∈ srcs, ∀ q, srcQueue a = some q → (u.tile t).outQ[q] = x.outQ[q].drop 4) ∧
          (∀ q : Fin 8, (∀ a ∈ srcs, srcQueue a ≠ some q) → (u.tile t).outQ[q] = x.outQ[q]) ∧
          (∀ a ∈ srcs, ∀ p, srcPort a = some p →
            (∀ v, linkOf s t p false = .tile v → (portBuf (u.tile t).sw p).buf = (portBuf x.sw p).buf.tail) ∧
            ∀ c j, linkOf s t p false = .lane c j → (portBuf (u.tile t).sw p).buf = (portBuf x.sw p).buf.tail ∧
              ((u.cache c).sels[j]).returns = ((s.cache c).sels[j]).returns ++ [s.now + 6]) ∧
          (∀ o ∈ outsOf r, ∀ f, f = (if o.2 = .x then xf else fl o.2) →
            (∀ q, o.1 = .core q → (u.tile t).inQ[q] = x.inQ[q] ++ flitWords f (x.cycle + 1)) ∧
            (∀ p v, o.1 = .link p → linkOf s t p true = .tile v → (portBuf (u.tile v).sw (opposite p)).buf =
              (portBuf (s.tile v).sw (opposite p)).buf ++ [{ f with from_ := (s.tile v).cycle + 1 }]) ∧
            (∀ p c j, o.1 = .link p → linkOf s t p true = .lane c j → let y := (s.cache c).sels[j]
              ((u.cache c).sels[j]).path = y.path ++ [{ f with from_ := s.now + 6 }] ∧
              ((u.cache c).sels[j]).credit = y.credit - 1 ∧ ((u.cache c).sels[j]).flits = (y.flits + 1) % 2 ^ 16) ∧
            (∀ l, o.1 = .latch → .f ∉ srcs → fillTarget x.mx = some l →
              ((u.tile t).mx.latch[l]).flits = (x.mx.latch[l]).flits ++ [f])) ∧
          (∀ q : Fin 8, (∀ o ∈ outsOf r, o.1 ≠ .core q) → (u.tile t).inQ[q] = x.inQ[q]) ∧ u.mem = s.mem)) ∧
  (∀ s t a b fa fb, a ≠ b →
    let flits := [(a, fa), (b, fb)]
    ((fa.h ≠ fb.h ∨ fa.e ≠ fb.e) → formXor a b s t flits = .stop 6 0 0 0 0) ∧
    (fa.h = fb.h → fa.e = fb.e → fa.h = false →
      formXor a b s t flits = .x { fa with data := fa.data ^^^ fb.data } (s.tile t).sw.mode) ∧
    (fa.h = fb.h → fa.e = fb.e → fa.h = true → ∀ xf mode, formXor a b s t flits = .x xf mode →
      xf.h = true ∧ xf.e = fa.e ∧ xf.data.getLsbD 25 = true ∧ fa.data.getLsbD 25 = false ∧ fb.data.getLsbD 25 = false ∧
      xf.data.extractLsb' 96 16 = fb.data.extractLsb' 48 16 ∧ xf.data.extractLsb' 112 16 = fb.data.extractLsb' 64 16 ∧
      xf.data.extractLsb' 0 25 = fa.data.extractLsb' 0 25 ∧ xf.data.extractLsb' 26 70 = fa.data.extractLsb' 26 70)) ∧
  (∀ (s : State) t a (f : Flit),
    let x := s.tile t
    let flow := f.data.extractLsb' 48 16
    let partner := f.data.extractLsb' 96 16
    let seq := (f.data.extractLsb' 64 16).toNat
    let partnerSeq := (f.data.extractLsb' 112 16).toNat
    let len := 65 + if f.data.getLsbD 24 = true then (f.data.extractLsb' 8 8).toNat / 32 else 0
    let now := formDec a s t [(a, f)]
    let stopped (j len flow partner : Nat) : Prop := now = .stop 4 j flow partner len
    let takes (e : Fin 64) (j len flow partner : Nat) : Prop :=
      let at_ := x.side[e].addr * 32 + 32 * j
      now = if x.decodeAt = some (x.cycle, at_) then
        .x { f with data := f.data ^^^ BitVec.ofNat 256 (memRead x.lm at_ 32) }
          (if j + 1 = len then .pass else .decode e (j + 1) len flow partner) else .busy
    (x.sw.mode = .pass → f.h = false → now = .x f .pass) ∧
    ((x.sw.mode = .pass ∨ ∃ e j l p q, x.sw.mode = .decode e j l p q) → f.h = true →
      (headerOk f.data.toNat = false → now = .stop 5 0 flow.toNat partner.toNat 0) ∧
      (headerOk f.data.toNat = true → f.data.getLsbD 25 = false → now = .x f .pass) ∧
      (headerOk f.data.toNat = true → f.data.getLsbD 25 = true →
        (∀ e, HoldsBlock x e partner.toNat partnerSeq len → ∃ xf, now = .x xf (.decode e 1 len flow.toNat partner.toNat) ∧
          xf.h = true ∧ xf.e = f.e ∧ xf.data.getLsbD 25 = false ∧ xf.data.extractLsb' 96 32 = 0 ∧
          xf.data.extractLsb' 0 25 = f.data.extractLsb' 0 25 ∧ xf.data.extractLsb' 26 70 = f.data.extractLsb' 26 70 ∧
          xf.data.extractLsb' 128 128 = f.data.extractLsb' 128 128) ∧
        (∀ e, HoldsNone x partner.toNat partnerSeq len → HoldsBlock x e flow.toNat seq len →
          ∃ xf, now = .x xf (.decode e 1 len flow.toNat partner.toNat) ∧
          xf.h = true ∧ xf.e = f.e ∧ xf.data.getLsbD 25 = false ∧ xf.data.extractLsb' 96 32 = 0 ∧
          xf.data.extractLsb' 48 16 = partner ∧ xf.data.extractLsb' 64 16 = f.data.extractLsb' 112 16 ∧
          xf.data.extractLsb' 0 25 = f.data.extractLsb' 0 25 ∧ xf.data.extractLsb' 26 22 = f.data.extractLsb' 26 22 ∧
          xf.data.extractLsb' 80 16 = f.data.extractLsb' 80 16 ∧
          xf.data.extractLsb' 128 128 = f.data.extractLsb' 128 128) ∧
        (HoldsNone x partner.toNat partnerSeq len → HoldsNone x flow.toNat seq len →
          stopped 0 len flow.toNat partner.toNat))) ∧
    (∀ e j l p q, x.sw.mode = .decode e j l p q → f.h = false → takes e j l p q) ∧
    ∀ j l p q kf ks again, x.sw.mode = .lost j l p q kf ks again →
      (again = false → stopped j l p q) ∧ (HoldsNone x kf ks l → stopped j l p q) ∧
      ∀ e, again = true → HoldsBlock x e kf ks l → f.h = false → takes e j l p q) ∧
  (∀ (x : Tile) p e j l fl q, x.sw.mode = .decode e j l fl q →
    (sideDrop p x).sw.mode = if p e then .lost j l fl q x.side[e].flow x.side[e].seq false else x.sw.mode) ∧
  ∀ (s : State) t count a r f,
    let x := s.tile t
    let u := claimDecode count a r t s
    let ready : Prop := srcFlit s t a = some f ∧ f.h = false ∧ x.sw.skip = 0 ∧ x.sw.rep ≤ count ∧
      (∀ b ∈ sourcesOf [a] r, ∃ g, srcFlit s t b = some g) ∧ ∀ o ∈ outsOf r, outRoom s t o.1 = true
    (∀ e j l p q, x.sw.mode = .decode e j l p q → ready → x.badLm = [] →
      let at_ := x.side[e].addr * 32 + 32 * j
      (u.tile t).lm = x.lm ∧ (u.tile t).sw = x.sw ∧ (u.tile t).side = x.side ∧ (u.tile t).outQ = x.outQ ∧
      (bankFree x at_ = true → outwaited .switch at_ x = false → (u.tile t).decodeAt = some (x.cycle, at_)) ∧
      (¬(bankFree x at_ = true ∧ outwaited .switch at_ x = false) → (u.tile t).decodeAt = x.decodeAt)) ∧
    (x.sw.mode = .pass ∨ (srcFlit s t a = some f ∧ f.h = true) ∨ srcFlit s t a = none → u = s)

/-- The control words of a switch (R55, R172, R178, R179). srtw waits while a barrier's phase is the recorded one, then
records it; sjump goes to its target; sloop sets a counter; sbnz counts down and goes to its target, or on at zero; ssig
arrives at a barrier, or stops with cause 7 where REMAIN is 0; snop idles for its count; shalt halts; each but sjump, a
taken sbnz and shalt goes on to the next word, or past the last one stops with cause 2. An illegal word stops with cause
1. While sresume.skip still has flits to discard, sdec takes one and delivers none; after the last one the word goes on,
or ends (R190). What rests on the model's own choice or reading is log entries 10, 84 and 85. -/
def Obligations.SwitchControl : Prop :=
  ∀ s : State,
    let t := s.swTile
    let w := (s.tile t).sw
    let bar (k : Fin 8) : Fin 32 := ⟨k.val, by omega⟩
    let arrived (b : Barrier) : Barrier :=
      if b.remain = 1 ∧ b.bytes = 0 then { b with phase := !b.phase, remain := b.count }
      else { b with remain := b.remain - 1 }
    (∀ n : Fin 2048, exec (.sjump n) s = .next (s.modTile t (switchTo n.val id))) ∧
    (exec .shalt s = .next (s.modTile t fun x => { x with sw := { x.sw with run := .halted } })) ∧
    (∀ k : Fin 8, ((s.tile t).bars[bar k]).phase = w.sph[k] →
      exec (.srtw k) s = .next (s.modTile t fun x => { x with sw := { x.sw with run := .waiting } })) ∧
    (∀ (c : Fin 2) (n : Fin 2048), 0 < w.cnt[c] →
      exec (.sbnz c n) s = .next (s.modTile t (switchTo n.val fun w => { w with cnt := w.cnt.set c (w.cnt[c] - 1) }))) ∧
    (∀ count : Fin 4096, w.rep < count.val → exec (.snop count) s = .next (s.modTile t fun x => { x with
      sw := { x.sw with rep := x.sw.rep + 1, run := .running } })) ∧
    (w.spc < 2047 →
      (∀ k : Fin 8, ((s.tile t).bars[bar k]).phase ≠ w.sph[k] → exec (.srtw k) s = .next (s.modTile t
        (switchTo (w.spc + 1) fun w => { w with sph := w.sph.set k ((s.tile t).bars[bar k]).phase }))) ∧
      (∀ (c : Fin 2) (n : Fin 4096), exec (.sloop c n) s = .next (s.modTile t
        (switchTo (w.spc + 1) fun w => { w with cnt := w.cnt.set c n.val }))) ∧
      (∀ (c : Fin 2) (n : Fin 2048), w.cnt[c] = 0 → exec (.sbnz c n) s = .next (s.modTile t (switchTo (w.spc + 1) id))) ∧
      (∀ count : Fin 4096, count.val ≤ w.rep → exec (.snop count) s = .next (s.modTile t (switchTo (w.spc + 1) id))) ∧
      (∀ k : Fin 8, 0 < ((s.tile t).bars[bar k]).remain → exec (.ssig k) s = .next (s.modTile t fun x =>
        switchTo (w.spc + 1) id { x with bars := x.bars.set (bar k) (arrived x.bars[bar k]) }))) ∧
    (∀ k j, FaultStrand s t [] k → (w.spc < 2048 → ((s.tile t).bars[bar j]).remain = 0 →
      ∃ u, exec (.ssig j) s = .next u ∧ SwitchStops u t k 7 w.spc) ∧
      (w.spc = 2047 → (∀ (c : Fin 2) (n : Fin 4096), ∃ u, exec (.sloop c n) s = .next u ∧ SwitchStops u t k 2 2047) ∧
        (((s.tile t).bars[bar j]).phase ≠ w.sph[j] → ∃ u, exec (.srtw j) s = .next u ∧ SwitchStops u t k 2 2047 ∧
          (u.tile t).sw.sph[j] = ((s.tile t).bars[bar j]).phase) ∧
        (∀ (c : Fin 2) (n : Fin 2048), w.cnt[c] = 0 → ∃ u, exec (.sbnz c n) s = .next u ∧ SwitchStops u t k 2 2047) ∧
        (0 < ((s.tile t).bars[bar j]).remain → ∃ u, exec (.ssig j) s = .next u ∧ SwitchStops u t k 2 2047 ∧
          (u.tile t).bars[bar j] = arrived (s.tile t).bars[bar j]) ∧
        ∀ count : Fin 4096, count.val ≤ w.rep → ∃ u, exec (.snop count) s = .next u ∧ SwitchStops u t k 2 2047)) ∧
    (∀ (v : W64) k, FaultStrand s t ([0, 1, 2].filter fun q : Fin 8 => bits v.toNat (16 + 4 * q.val) 4 != 0) k →
      w.spc < 2048 → ∃ u, exec (.illegalSwitchWord v) s = .next u ∧ SwitchStops u t k 1 w.spc) ∧
    ∀ estop (count : Fin 4096) a r, 0 < w.skip →
      (srcFlit s t a = none → exec (.sdec estop count a r) s =
        .next (s.modTile t fun x => { x with sw := { x.sw with run := .waiting } })) ∧
      ∀ f, srcFlit s t a = some f → w.spc < 2047 → ∃ u, exec (.sdec estop count a r) s = .next u ∧
        (u.tile t).sw.skip = w.skip - 1 ∧ (u.tile t).inQ = (s.tile t).inQ ∧ (w.skip = 1 → (u.tile t).sw.mode = .pass) ∧
        if w.skip = 1 ∧ count.val ≤ w.rep then (u.tile t).sw.spc = w.spc + 1 ∧ (u.tile t).sw.rep = 0
        else (u.tile t).sw.spc = w.spc ∧ (u.tile t).sw.rep = w.rep + 1
end

namespace Sys2Proof.Claims
open Sys2Proof.Machine

/-! ### Translation, launches -/

/-- The page-table entry at level `lvl` of an address in the table at `t` (R231). -/
def entryAt (s : State) (t lvl a : Nat) : Nat :=
  s.hbmRead (t + 8 * (match lvl with
    | 4 => bits a 39 18
    | 3 => bits a 30 9
    | 2 => bits a 21 9
    | _ => bits a 16 5)) 8

/-- An entry that points to a table: PRESENT, no leaf, reserved bits zero (R231, R232). -/
def IsTable (e : Nat) : Prop := bit e 0 = true ∧ bit e 1 = false ∧ bits e 6 6 = 0 ∧ bits e 52 12 = 0

/-- The table an entry points to (R231). -/
def tableOf (e : Nat) : Nat := bits e 12 40 * 4096

/-- The table that a walk in a context reads at a level (R231). -/
def tableAt (s : State) (ctx a lvl : Nat) : Nat :=
  let t4 := s.ctxWord ctx 1
  let t3 := tableOf (entryAt s t4 4 a)
  let t2 := tableOf (entryAt s t3 3 a)
  match lvl with
  | 4 => t4
  | 3 => t3
  | 2 => t2
  | _ => tableOf (entryAt s t2 2 a)

/-- Address of a walk's entry at a level (R231). -/
def slotAt (s : State) (ctx a lvl : Nat) : Nat :=
  tableAt s ctx a lvl + 8 * match lvl with
    | 4 => bits a 39 18
    | 3 => bits a 30 9
    | 2 => bits a 21 9
    | _ => bits a 16 5

/-- A walk in context `ctx` comes down to the entry `e` of level `lvl`: every entry above it points to a table, and the
entries lie in HBM (R231-R233). -/
def WalksTo (s : State) (ctx a lvl e : Nat) : Prop :=
  bits a 48 9 ≠ 0xFF ∧ 1 ≤ lvl ∧ lvl ≤ 4 ∧ e = entryAt s (tableAt s ctx a lvl) lvl a ∧
    ∀ l, lvl ≤ l → l ≤ 4 → slotAt s ctx a l + 8 ≤ 4 * domainBytes ∧
      (lvl < l → IsTable (entryAt s (tableAt s ctx a l) l a))

/-- Bytes that a leaf of a level maps: 64 KiB, 2 MiB or 1 GiB (R231). -/
def leafBytes (lvl : Nat) : Nat :=
  match lvl with
  | 1 => 2 ^ 16
  | 2 => 2 ^ 21
  | _ => 2 ^ 30

/-- A page lies wholly in HBM, in the windows of tiles that exist, or in host memory (R220, R232). -/
def PageExists (pa size : Nat) : Prop :=
  pa + size ≤ 4 * domainBytes ∨ pa / 2 ^ 48 = 0xF ∨ (pa / 2 ^ 48 = 8 ∧ ∀ q, pa ≤ q → q < pa + size →
    q / 2 ^ 36 % 2 ^ 12 = 0 ∧ q / 2 ^ 28 % 256 < 200 ∧ q / 2 ^ 20 % 256 < 144)

/-- The fault of a walk under a key that comes to the entry `e` at a level, in the order of R233: none where it is a leaf that
serves. -/
def WalkEnds (s : State) (key a lvl e : Nat) (wr : Bool) (k : Option WalkFault) : Prop :=
  let page := tableOf e
  let size := leafBytes lvl
  let mal : Prop := bits e 6 6 ≠ 0 ∨ bits e 52 12 ≠ 0 ∨ (lvl = 4 ∧ bit e 1 = true) ∨ (lvl = 1 ∧ bit e 1 = false)
  let badLeaf : Prop := page % size ≠ 0 ∨ ¬PageExists page size ∨
    (bit e 5 = true ∧ (bit e 2 = true ∨ 4 * domainBytes ≤ page))
  let pa := page + a % size
  if bit e 0 = false then k = some .notPresent
  else (mal → k = some .malformed) ∧ (¬mal → bit e 1 = true →
    (badLeaf → k = some .malformed) ∧
    (¬badLeaf → if wr = true ∧ bit e 5 = true then k = some .replicaWrite
      else if wr = true ∧ bit e 2 = false then k = some .protection
      else if pa < 4 * domainBytes ∧ s.keyOf pa ≠ key then k = some .keyMismatch else k = none))

/-- A fault record of a held access waits for its die's queue: KIND, W, CTX and VA (R368). -/
def RecordWaits (s u : State) (h : HartId) (kind : Nat) (wr : Bool) (va : W64) : Prop :=
  ∃ p : PendingRecord, (u.die (hartDie h)).faultWait = (s.die (hartDie h)).faultWait ++ [p] ∧ p.hart = h ∧
    bits p.record 32 8 = kind ∧ bit p.record 40 = wr ∧ bits p.record 48 16 = s.ctxOf h % 2 ^ 16 ∧
    bits p.record 64 64 = va.toNat

/-- The launches have distinct numbers (R326). -/
def DistinctLaunches (s : State) : Prop := (s.hub.launches.map Launch.lnum).Nodup

/-- The dispatcher cycle by whose end the waits are judged by a write to a counter that comes now: this one; the next, once a
record has been judged in it (R320, R340, R341). -/
def judgedIn (s : State) : Nat := if s.hub.lastRead = some s.dcycle then s.dcycle + 1 else s.dcycle

/-- Both waits of a record are met at one of the values that counter `n` takes on, the others standing as they do (R341). -/
def metBy (s : State) (n : Nat) (vs : List Nat) (r : Record) : Bool :=
  vs.any fun v => [r.wait0, r.wait1].all fun w => w.all fun c => decide (c.2 ≤ if c.1 = n then v else tabGet 0 c.1 s.hub.counters)

/-- The launches once those whose waits a test names are satisfied, for good (R341, R342). -/
def satisfy (s : State) (met : Record → Bool) : List Launch :=
  s.hub.launches.map fun l => if l.satisfied = false ∧ met l.r = true then
    { l with satisfied := true, satisfiedSeq := s.hub.satSeq } else l

/-- A region of w × h at origin tile `o` lies on one die (R333). -/
def RegionOnDie (o w h : Nat) : Prop := 1 ≤ w ∧ 1 ≤ h ∧ o % 12 + w ≤ 12 ∧ o % 144 / 12 + h ≤ 12 ∧ o < 28800

/-- After a write of DBGEN and HALT to a die's debug control register: HALT takes effect once no cluster command runs, with
a DEBUG record, and voids the promises of launches with a group there; HALT = 0 ends the halt (R378, R439). -/
def HaltsAs (s u : State) (d : DieNo) (dbgen halt : Bool) : Prop :=
  let x := s.die d
  let y := u.die d
  y.dbgen = dbgen ∧ y.halt = halt ∧ u.tiles = s.tiles ∧ u.mem = s.mem ∧
    (halt = false → u = s.setDie d { x with dbgen := dbgen, halt := false, halted := false }) ∧
    (halt = true → (∃ k : Fin 4, (x.clusters[k]).busy ≠ none) → y.halted = x.halted ∧ u.hub = s.hub) ∧
    (halt = true → (∀ k : Fin 4, (x.clusters[k]).busy = none) → y.halted = true ∧
      (x.halted = true → u.hub = s.hub ∧ y.faultWait = x.faultWait) ∧
      (x.halted = false → ∃ p : PendingRecord, y.faultWait = x.faultWait ++ [p] ∧ bits p.record 32 8 = 17 ∧
        u.hub.launches = s.hub.launches.map fun l =>
          if l.placed.any (fun q => q.origin / 144 == d.val) then { l with voided := true, reserved := [] } else l))

/-- The launch of a number, with one placed group of a rank and no other, neither ending. -/
def OnlyPlaced (s : State) (l : Launch) (p : Placed) : Prop :=
  s.hub.launches = [l] ∧ l.placed = [p] ∧ l.ending = none ∧ RegionOnDie p.origin l.r.w l.r.h

/-- A placed group that has not been unmapped has an access outstanding that does not wait (R373 step 2). -/
def StillBusy (s : State) (l : Launch) (p : Placed) : Prop :=
  p.unmapped = none ∧ ∃ t ∈ regionTiles p.origin l.r.w l.r.h, ∃ k : Fin 8, ∃ a ∈ (s.strandAt t k).r.accesses, a.waits = false

/-- UCIe module `m` is up, and none of its transactions waits (R406, R407). -/
def ModuleFree (s : State) (m : Nat) : Prop := bit s.hub.up m = true ∧ ∀ i ∈ s.deferred, hostModule i ≠ some m

/-- The lane of selector (q, l) has failed: LINK is raised, and a launch with a group at either end of it fails with the EVAL
of R417. -/
def LaneFails (s u : State) (c : DieNo) (q : Fin 4) (l : Fin 12) : Prop :=
  let y := (s.cache c).sels[selNo q l]
  bit u.hub.irqcause 2 = true ∧
    ∀ n p t, OnlyPlaced s n p → StillBusy s n p →
      (laneTile c.val q.val l.val = some t ∨ (y.en = true ∧ y.term = false ∧ laneTile c.val y.side y.lane = some t)) →
      (∃ g, (s.tile t).group = some g ∧ g.lnum = n.lnum) →
      ∃ n' e, u.hub.launches = [n'] ∧ n'.ending = some e ∧ e.st = 4 ∧ e.code = 0x13 ∧
        e.eval = w64 (0x4000000000000000 + c.val * 2 ^ 8 + (12 * q.val + l.val))

/-- The bytes of a frame after the EtherType, field by field as the table of R414 has them. -/
def wire (f : Frame) : List Byte :=
  [BitVec.ofNat 8 f.ver, BitVec.ofNat 8 f.kindOf, if f.rst then 1 else 0, 0] ++ leBytes 4 f.seq ++
    [BitVec.ofNat 8 f.status, BitVec.ofNat 8 f.kind, BitVec.ofNat 8 f.len, 0] ++ leBytes 2 f.flow ++ [0, 0] ++
    leBytes 8 f.offset ++ leBytes 8 f.incr.toNat ++ f.data

/-- A releasable group of equal or higher priority from another queue waits for a region: it finds none, or waits behind one
that finds none (R345). -/
def Rival (s : State) (l : Launch) : Prop :=
  ∃ m ∈ s.hub.launches, m.queue ≠ l.queue ∧ l.prio ≤ m.prio ∧ inPool s none m = true ∧ ∃ c, nextRanks m = some c ∧
    ((∃ f, firstOfPool s none = some f ∧ findPlaces s [] none 0 f.1 f.2.1 false = none) ∨
      findPlaces s [] none 0 m c.1 false = none)

end Sys2Proof.Claims

section
open Sys2Proof Sys2Proof.Machine Sys2Proof.Claims

/-! ### Events of a tile and its die -/

/-- Events of a tile and of the memory side. A yield's or a division's wait ends (R101, R121). A walk that comes to a leaf,
of any size, sets its accessed bit, and for a write its dirty bit, gives the tile the page, a replica's in the die's own
domain, and lets the access issue anew; one that meets an entry not present, malformed, a replica or a page without W to be
written, or another key, lines up a record (R233-R236, R367, R368); a failed line is a machine check (R366). A fault queue
takes the oldest waiting record unless 512 stand in it; FQREPLY retries a held access or makes it fail; FQHEAD follows what
was read. The key of a walk is that of the launch's context as read at admission (R323). Revoking a page drops its
translations and its handles everywhere, and is done when the accesses translated before have completed (R237, R249). A
watch trigger is enabled only on a line homed at its die; a firing copies its record into its queue, is pending while the
queue does not take it, or dropped while one is (R253, R254, R322), and a failed link on its way holds it (R417). What rests
on the model's own choice or reading is log entries 39, 40, 81, 82, 96, 107 and 108. -/
def Obligations.TileAndMemoryEvents : Prop :=
  (∀ (s : State) t k, ∃ u, exec (.yieldExpiry t k) s = .next u ∧ u.strandAt t k =
    if (s.strandAt t k).r.yieldUntil ≤ (s.tile t).cycle then
      { s.strandAt t k with r := { (s.strandAt t k).r with yieldUntil := 0 } } else s.strandAt t k) ∧
  (∀ (s : State) t, ∃ u, exec (.dividerFree t) s = .next u ∧ u.tile t =
    if (s.tile t).dividerUntil ≤ (s.tile t).cycle then { s.tile t with dividerUntil := 0 } else s.tile t) ∧
  (∀ (s : State) h (x : Held) lvl e k, (∀ d, h ≠ .mgmt d) → (s.regsOf h).held = some x → x.phase = .walk →
    s.failedLines = [] →
    let ctx := s.ctxOf h
    let a := bits x.va.toNat 0 57
    WalksTo s ctx a lvl e → (bit e 0 = true → lvl ≠ 1 → lvl ≠ 4 → bit e 1 = false → bits e 6 6 ≠ 0 ∨ bits e 52 12 ≠ 0) →
    (lvl = 4 → bit e 0 = true → bit e 1 = false → bits e 6 6 ≠ 0 ∨ bits e 52 12 ≠ 0) →
    WalkEnds s (s.viewAt h).key a lvl e x.wr k →
    (k = none → let size := leafBytes lvl
      ∃ u f, exec (.translationWalk h) s = .next u ∧ (u.regsOf h).held = none ∧ f ∈ (u.tile (hartTile h)).tlb ∧
        f.ctx = ctx ∧ f.page = a / size * size ∧ f.size = size ∧ f.w = bit e 2 ∧ f.dirty = (x.wr || bit e 4) ∧
        f.pa = (if bit e 5 then tableOf e % domainBytes + dieDomain (hartDie h).val * domainBytes else tableOf e) ∧
        u.hbmRead (slotAt s ctx a lvl) 8 = e ||| 8 ||| if x.wr then 16 else 0) ∧
    ∀ c, k = some c → ∃ u, exec (.translationWalk h) s = .next u ∧
      (u.regsOf h).held = some { x with phase := .record c } ∧ RecordWaits s u h (match c with
        | .notPresent => 1 | .protection => 2 | .replicaWrite => 3 | .keyMismatch => 4 | .malformed => 5) x.wr x.va ∧
      u.mem = s.mem) ∧
  (∀ (s : State) t n (x : Held) lvl e, (s.strandAt t n).r.held = some x → x.phase = .walk →
    WalksTo s (s.ctxOf (.strand t n)) (bits x.va.toNat 0 57) lvl e →
    s.failedIn (slotAt s (s.ctxOf (.strand t n)) (bits x.va.toNat 0 57) lvl) 8 = true → HandlerReady s t n →
    let pc := (s.strandAt t n).r.pc &&& 0x1FFFC
    let w := (leavesBanks t n s).modStrand t n fun z => { z with
      epc := pc, ecause := w64 (causeCode .machineCheck), eval := x.va, r := { z.r with held := none } }
    exec (.translationWalk (.strand t n)) s = .next (w.failGroup t 0x13 0x0D pc x.va n.val)) ∧
  (∀ (s : State) d,
    let x := s.die d
    let used := (x.fqTail + 2 ^ 32 - x.fqHead) % 2 ^ 32
    (x.faultWait = [] ∨ 512 ≤ used → exec (.faultRecordWrite d) s = .next s) ∧
    (∀ p rest, x.faultWait = p :: rest → used < 512 → (∀ d, p.hart ≠ .mgmt d) →
      ∃ u, exec (.faultRecordWrite d) s = .next u ∧ (u.die d).faultWait = rest ∧
        (u.die d).fqTail = (x.fqTail + 1) % 2 ^ 32 ∧ (u.die d).fqNextSeq = (x.fqNextSeq + 1) % 2 ^ 32 ∧
        tabGet 0 (x.fqTail % 512) (u.die d).fq = p.record + x.fqNextSeq ∧
        ∀ y k, (s.regsOf p.hart).held = some y → y.phase = .record k → ∃ c, (u.regsOf p.hart).held = some { y with
          phase := .reply k x.fqNextSeq d.val, lastKey := some (d.val, x.fqNextSeq), lastKind := k, due := c }) ∧
    (∀ v : W64, exec (.fqheadWrite d v) s = .next (
      if (bits v.toNat 0 32 + 2 ^ 32 - x.fqHead) % 2 ^ 32 ≤ used then s.setDie d { x with fqHead := bits v.toNat 0 32 }
      else s)) ∧
    ∀ v : W64, ((bits v.toNat 32 8 ≠ d.val ∨ bits v.toNat 40 2 = 0 ∨ bits v.toNat 40 2 = 3) →
        exec (.fqreply d v) s = .next s) ∧
      ∀ h y k, bits v.toNat 32 8 = d.val →
        (hartsOfDie s d).find? (holdsKey s (bits v.toNat 0 32) d.val) = some h → (∀ e, h ≠ .mgmt e) →
        (s.regsOf h).held = some y → y.phase = .reply k (bits v.toNat 0 32) d.val →
        (bits v.toNat 40 2 = 1 → ∃ u c, exec (.fqreply d v) s = .next u ∧
          (u.regsOf h).held = some { y with phase := .walk, oldKey := none, due := c } ∧ u.mem = s.mem) ∧
        (bits v.toNat 40 2 = 2 → ∀ t n, h = .strand t n → HandlerReady s t n →
          ∃ u, exec (.fqreply d v) s = .next u ∧ (u.strandAt t n).r.held = none ∧ (u.strandAt t n).inh = true ∧
            (u.strandAt t n).eval = y.va ∧ (u.strandAt t n).ecause = (if y.lastKind = .notPresent then 4 else 5) ∧
            (u.strandAt t n).epc = (s.strandAt t n).r.pc &&& 0x1FFFC ∧
            (u.strandAt t n).r.pc = (s.strandAt t n).etvec)) ∧
  (∀ (s : State) (ctx : Fin 256) (va : W64) leafPa (leaf : W64), inHbm leafPa 8 = true → leafPa % 8 = 0 →
    s.failedIn leafPa 8 = false →
    let a := bits va.toNat 0 57
    ∃ u, exec (.revocation ctx va leafPa leaf) s = .next u ∧ u.hbmRead leafPa 8 = leaf.toNat ∧
      (∀ t, (u.tile t).tlb = (s.tile t).tlb.filter fun e => !(e.ctx == ctx.val && e.page ≤ a && a < e.page + e.size)) ∧
      (∀ hart (i : Fin 8), (∀ d, hart ≠ .mgmt d) → let h := (s.regsOf hart).h[i]
        ((u.regsOf hart).h[i]).valid =
          (h.valid && !(h.ctx == ctx.val && decide (h.page ≤ a) && decide (a < h.page + h.pageSize)))) ∧
      ∃ r, u.revoking = s.revoking ++ [r] ∧ r.ctx = ctx.val ∧ r.va = a ∧
        ∀ t (k : Fin 8), ∀ y ∈ (s.strandAt t k).r.accesses, y.ctx = ctx.val → bits y.va.toNat 0 57 = a →
          (.strand t k, y.id) ∈ r.left) ∧
  (∀ (s : State) r, s.revoking = [r] → s.moves = [] → revocationSlot s =
    if ∃ q ∈ r.left, ∃ y ∈ (s.regsOf q.1).accesses, y.id = q.2 then s
    else ({ s with revoking := [] }).emit (.revoked r.ctx r.va)) ∧
  ∀ (s : State) c (n : Fin 16) (v : W64),
    let w := (s.cache c).watches[n]
    let first := bits v.toNat 3 4
    let last := bits v.toNat 7 4
    let homed := isHbm (w.line * 128) && (homeSlice (w.line * 128)).1 == c.val
    (∃ u, exec (.watchEnableWrite c n v) s = .next u ∧ (u.cache c).watches[n] =
      if v.getLsbD 0 = true ∧ (homed = false ∨ last < first) then { w with en := false }
      else { w with en := v.getLsbD 0, oneshot := v.getLsbD 1, any := v.getLsbD 2, first := first, last := last
                    ctx := bits v.toNat 16 16 }) ∧
    let q : Fin 64 := ⟨w.queue % 64, by omega⟩
    let x := s.hub.queues[q]
    let entry := x.qbase * 128 + 128 * (x.qtail % 2 ^ x.size)
    let takes : Prop := x.en = true ∧ x.eth = false ∧ queueUsable x = true ∧ queueWaiting x < 2 ^ x.size ∧
      ringReady s (cornerSite 0) x x.qtail = true
    let with_ (y : Watch) (u : State) : Prop := exec (.watchPendingPush c n) s = .next u ∧ (u.cache c).watches[n] = y
    (w.due = 0 → w.pending = false ∨ ¬takes → exec (.watchPendingPush c n) s = .next s) ∧
    (s.routeOpen (cacheSite c.val) (cornerSite 0) = false → exec (.watchPendingPush c n) s = .next s) ∧
    (s.routeOpen (cacheSite c.val) (cornerSite 0) = true → (w.due = 0 ↔ w.pending = true) → takes →
      inHbm entry 128 = true → s.failedIn entry 128 = false → w.line ≠ entry / 128 → ∃ u,
      with_ { w with pending := false, due := w.due - 1, fires := (w.fires + 1) % 2 ^ 32 } u ∧
      u.hbmBytes entry 128 = memBytes s.hub.records (128 * w.recno) 128 ∧
      (u.hub.queues[q]).qtail = (x.qtail + 1) % 2 ^ 32) ∧
    (s.routeOpen (cacheSite c.val) (cornerSite 0) = true → 0 < w.due → ¬takes → ∃ u, with_ (if w.pending then { w with due := w.due - 1, overflow := true }
      else { w with due := w.due - 1, pending := true }) u ∧ u.hub = s.hub ∧ u.mem = s.mem)

/-! ### The dispatcher -/

/-- Launch queues, records and counters (R318-R327, R339-R344). A doorbell within the ring sets QTAIL; another sets BELLERR
and raises QUEUE; it and a counter write wait in line behind module 0. QCFG takes EN alone while the queue is enabled;
DCTL.EN is writable from boot stage 3 on. The dispatcher reads one record in a dispatcher cycle, in which no launch moves,
advances QHEAD, and refuses the record with REFUSED counted, or admits it under the next launch number with what it keeps of
the descriptor (R323). The writes that reach a counter in one dispatcher cycle apply in the order of their sources, whatever
the order in which they come (R340); when the cycle is over the launches whose waits are met at one of the values they give
are satisfied, for good (R341); a write that comes after a record has been read counts in the next cycle; the launch
satisfied first, of several the lowest-numbered, moves to the active set first (R342). CANCEL ends a launch with CODE 0x14,
judged when its dispatcher cycle is over (R344). What rests on the model's own choice or reading is log entries 33, 66, 67,
68 and 69. -/
def Obligations.LaunchRecords : Prop :=
  (∀ (s : State) v, exec (.dctlWrite v) s =
    .next (if s.rot.stage = 3 then { s with hub := { s.hub with en := v.getLsbD 0 } } else s)) ∧
  (∀ (s : State) (q : Fin 64) (v : W64), s.rot.recovery = false → ∃ u, exec (.qcfgWrite q v) s = .next u ∧
    u.hub.queues[q] = (let x := s.hub.queues[q]
      if x.en then { x with en := v.getLsbD 0 }
      else { x with en := v.getLsbD 0, det := v.getLsbD 1, prio := bits v.toNat 2 4, latclass := bits v.toNat 6 4
                    slot := bits v.toNat 10 8, eth := v.getLsbD 18 }) ∧
    ∀ p : Fin 64, p ≠ q → u.hub.queues[p] = s.hub.queues[p]) ∧
  (∀ (s : State) (q : Fin 64) (v : W64), s.rot.recovery = false →
    let x := s.hub.queues[q]
    let n := bits v.toNat 0 32
    let good : Prop := x.eth = false ∧ 1 ≤ x.size ∧ x.size ≤ 16 ∧ (x.en = true → queueUsable x = true) ∧
      (n + 2 ^ 32 - x.qhead) % 2 ^ 32 ≤ 2 ^ x.size
    (ModuleFree s 0 → ∃ u, exec (.doorbell q v) s = .next u ∧
      (good → u.hub.queues[q] = { x with qtail := n } ∧ u.hub.irqcause = s.hub.irqcause) ∧
      (¬good → u.hub.queues[q] = { x with bellerr := true } ∧ bit u.hub.irqcause 3 = true)) ∧
    (¬ModuleFree s 0 → exec (.doorbell q v) s = .next { s with
      deferred := s.deferred ++ [.hostWrite 0 (0xA000000010018 + 0x100 * q.val) (leBytes 8 v.toNat)] })) ∧
  (∀ (s : State) (n : Fin 4096) (v : W64), DistinctLaunches s → s.rot.recovery = false → ModuleFree s 0 →
    (∀ w ∈ s.hub.heldDone, w.m ≠ 0) → s.hub.counterWrites = [] → s.hub.counterBefore = [] →
    ∀ i x, (i = .timelineCounterWrite n v ∧ x = v.toNat) ∨
        (i = .timelineCounterIncrement n v ∧ x = (tabGet 0 n.val s.hub.counters + v.toNat) % 2 ^ 64) →
      ∃ u, exec i s = .next u ∧ tabGet 0 n.val u.hub.counters = x ∧
        (∀ m, m ≠ n.val → tabGet 0 m u.hub.counters = tabGet 0 m s.hub.counters) ∧
        u.hub.launches = s.hub.launches ∧
        ∀ c, judgedIn s < c → (u.judgeOld c).hub.launches =
          satisfy s (fun w => metBy s n.val [tabGet 0 n.val s.hub.counters, x] w)) ∧
  (∀ (s : State) (a b : CounterWrite), a.n = b.n → a.source < b.source → s.hub.counterWrites = [] →
    s.hub.counterBefore = [] → ∀ u, u = (s.counterOp b).counterOp a ∨ u = (s.counterOp a).counterOp b →
      let v := tabGet 0 a.n s.hub.counters
      tabGet 0 a.n u.hub.counters = b.after (a.after v) ∧ u.hub.launches = s.hub.launches ∧
      ∀ c, judgedIn s < c → (u.judgeOld c).hub.launches =
        satisfy s (fun w => metBy s a.n [v, a.after v, b.after (a.after v)] w)) ∧
  (∀ (s : State), (512 ≤ (s.hub.launches.filter (·.active)).length ∨ s.hub.lastRead = some s.dcycle →
      exec .launchActivate s = .next s) ∧
    ∀ l, DistinctLaunches s → (s.hub.launches.filter (·.active)).length < 512 → s.hub.lastRead ≠ some s.dcycle →
      l ∈ s.hub.launches → l.active = false → l.satisfied = true → l.ending = none →
      (∀ m ∈ s.hub.launches, m ≠ l → m.active = false → m.satisfied = true → m.ending = none →
        l.satisfiedSeq < m.satisfiedSeq ∨ (l.satisfiedSeq = m.satisfiedSeq ∧ l.lnum < m.lnum)) →
      ∃ u, exec .launchActivate s = .next u ∧ u.hub.lastMove = some s.dcycle ∧
        u.hub.launches = s.hub.launches.map fun m => if m.lnum = l.lnum then { m with active := true } else m) ∧
  (∀ s : State, (mayRead s = false → exec .launchRecordRead s = .next s) ∧
    (s.hub.en = false ∨ s.hub.down = true ∨ s.hub.lastRead = some s.dcycle ∨ s.hub.lastMove = some s.dcycle →
      mayRead s = false) ∧
    ∀ q, mayRead s = true → nextQueue s = some q →
      let x := s.hub.queues[q]
      let b := (s.plainRead (queueEntry x x.qhead) 128).getD []
      let s' := (s.modQueue q fun x => { x with qhead := (x.qhead + 1) % 2 ^ 32 }).modHub fun h =>
        if 0 < x.latclass then { h with lastRead := some s.dcycle, lastLat := q.val }
        else { h with lastRead := some s.dcycle, lastOrd := q.val }
      let r := parseRecord b
      let met (cs : Tab Nat) (w : Option (Nat × Nat)) : Bool := w.all fun c => decide (c.2 ≤ tabGet 0 c.1 cs)
      ∃ u, exec .launchRecordRead s = .next u ∧ (u.hub.queues[q]).qhead = (x.qhead + 1) % 2 ^ 32 ∧
        u.hub.lastRead = some s.dcycle ∧ (r.status = 0 → u.mem = s.mem) ∧
        match admission s' x b with
        | .refuse _ => u.hub.launches = s.hub.launches ∧ (u.hub.queues[q]).refused = (x.refused + 1) % 2 ^ 32
        | .accept slot rs => ∃ l, u.hub.launches = s.hub.launches ++ [l] ∧ l.lnum = s.hub.nextLnum ∧
            l.r = r ∧ l.queue = q.val ∧ l.prio = min r.prio x.prio ∧ l.slot = slot ∧ l.reserved = rs ∧
            l.placed = [] ∧ l.frozen = [] ∧ l.ending = none ∧ l.cancelAt = none ∧ l.taccept = s.dcycle ∧
            l.key = s.ctxKey r.ctx ∧ l.hints = s.ctxWord r.ctx 2 ∧ l.hintCount = s.ctxWord r.ctx 3 ∧
            l.area = s.ctxWord r.ctx 4 ∧ (r.split = false → l.sliced = false) ∧
            l.active = (s.hub.judged.any fun cs => met cs r.wait0 && met cs r.wait1) ∧ l.satisfied = l.active ∧
            (u.hub.queues[q]).refused = x.refused ∧
            u.hub.nextLnum = if s.hub.nextLnum + 1 = 2 ^ 32 then 1 else s.hub.nextLnum + 1) ∧
  (∀ s q b, let r := parseRecord b
    ((255 < r.ctx ∨ s.ctxValid r.ctx = false) → admission s q b = .refuse 2) ∧
    (r.ctx ≤ 255 → s.ctxValid r.ctx = true → bit (s.ctxWord r.ctx 0) 0 = true →
      bits (s.ctxWord r.ctx 0) 16 4 = r.bwclass →
      (recordOk b = false → admission s q b = .refuse 1) ∧
      (recordOk b = true → r.detReq = true → q.det = false → admission s q b = .refuse 9))) ∧
  ∀ (s : State) (v : W64), s.rot.recovery = false →
    ((∀ l ∈ s.hub.launches, l.lnum ≠ v.toNat) → exec (.cancel v) s = .next s) ∧
    (∃ u, exec (.cancel v) s = .next u ∧ u.tiles = s.tiles ∧ u.mem = s.mem ∧
      u.hub.launches = s.hub.launches.map fun l =>
        if l.lnum = v.toNat then { l with cancelAt := l.cancelAt.or (some s.dcycle) } else l) ∧
    ((∀ l ∈ s.hub.launches, l.cancelAt = none ∨ l.cancelAt = some s.dcycle) → judgeCancels s = s) ∧
    (∀ l p c, OnlyPlaced s l p → l.cancelAt = some c → c < s.dcycle → StillBusy s l p →
      ∃ l', (judgeCancels s).hub.launches = [l'] ∧ l'.lnum = l.lnum ∧ l'.ending = some ⟨5, 0x14, 0, 0, 0, 0⟩ ∧
        ∀ t ∈ regionTiles p.origin l.r.w l.r.h,
          ((judgeCancels s).tile t).running = false ∧ ((judgeCancels s).tile t).stopped = true) ∧
    ∀ l c, s.hub.launches = [l] → l.cancelAt = some c → c < s.dcycle → l.placed = [] → l.frozen = [] →
      l.ending = none → l.r.status = 0 → (judgeCancels s).hub.launches = [] ∧ (judgeCancels s).mem = s.mem

/-- Groups and model slots (R27, R30, R223, R330-R333, R337-R339, R345, R363, R364, R372-R376, R427, R446). A group takes
free, awake tiles only, which from then on hold it, and a gang with all of its groups; it starts when its pages have stopped
moving: its tiles run with the strands of the start mask at their first words; when every strand has retired and all is
quiet its rank is retired, its tiles hold nothing, and the last one ends the launch and counts its completion counter up. A
group past its duration has OVERRUN pending in every live strand, and, having received it, fails its launch 65,536 cycles
later. A quantum starts anew without a rival; with one the group is asked to freeze. A group asked to freeze is unmapped
when it is idle, waits for the accesses translated before, and stands in a frame, to be restored from the frame's bytes
where it is placed again, with no word marked bad; a failed line in what is read of the frame fails its launch (R366). A
model slot is loaded whole: regions placed, the image in each, its power reserved, STATE 2; or STATE 3. What rests on the
model's own choice or reading is log entries 14, 29, 30, 31, 42, 47, 69, 71, 89 and 96. -/
def Obligations.GroupEvents : Prop :=
  (∀ s pool choice l ranks ps, findPlaces s [] pool choice l ranks false = some ps →
    ps.map Prod.fst = ranks ∧ ∀ k o, (k, o) ∈ ps → ∀ t ∈ regionTiles o l.r.w l.r.h,
      (s.tile t).group = none ∧ (s.die (tileDie t)).halted = false ∧
      ((s.die (tileDie t)).clusters[clusterOf (tileIdx t)]).st = 0) ∧
  (∀ s pool choice, (firstOfPool s pool = none → exec (.groupPlace pool choice) s = .next s) ∧
    ∀ l ks frozen ps, firstOfPool s pool = some (l, ks, frozen) → s.hub.launches = [l] →
      findPlaces s [] pool choice l ks false = some ps → (∀ k o, (k, o) ∈ ps → RegionOnDie o l.r.w l.r.h) →
      ∃ u r, exec (.groupPlace pool choice) s = .next u ∧ (r = l.reserved ∨ r = []) ∧
        u.hub.launches = [{ l with
          placed := l.placed ++ ps.map fun p => ⟨p.1, p.2, false, 0, 0, false, frozen, none, false, none⟩, reserved := r }] ∧
        u.hub.lastServed = l.queue ∧
        ∀ k o, (k, o) ∈ ps → ∀ i, i < l.r.w * l.r.h →
          ∃ g, (u.tile (tileOf (o + i / l.r.w * 12 + i % l.r.w))).group = some g ∧
            g.lnum = l.lnum ∧ g.rank = k ∧ g.index = i ∧ g.ctx = l.r.ctx ∧ g.gidx = groupOf l.r k ∧ g.args = l.r.args) ∧
  (∀ s l, s.hub.launches = [l] → l.placed ≠ [] → (∀ p ∈ l.placed, p.started = false ∧ p.restoring = false) →
    l.ending = none → l.r.standing = false →
    (∀ p ∈ l.placed, ∀ q ∈ l.placed, if l.r.gang then p.rank / l.r.gangSize = q.rank / l.r.gangSize else p.rank = q.rank) →
    ∀ q ∈ l.placed,
    (∃ u l', exec (.groupStart l.lnum q.rank) s = .next u ∧ u.hub.launches = [l'] ∧ ∀ p ∈ l'.placed, p.paged = true) ∧
    ((∀ p ∈ l.placed, p.paged = true) →
      ((∃ m ∈ s.moves, m.ctx = l.r.ctx) → exec (.groupStart l.lnum q.rank) s = .next s) ∧
      ∀ img s', (∀ m ∈ s.moves, m.ctx ≠ l.r.ctx) → imageHeld s l.view l.r.image = false →
        imageFor s l = (img, s') → s'.tiles = s.tiles → s'.hub = s.hub → s'.now = s.now →
        ∃ u, exec (.groupStart l.lnum q.rank) s = .next u ∧
          u.hub.launches = [{ l with tstart := s.dcycle, placed := l.placed.map fun p =>
            { p with started := true, startedAt := s.dcycle, quantumAt := s.dcycle } }] ∧
          ∀ p ∈ l.placed, ∀ t ∈ regionTiles p.origin l.r.w l.r.h, ∀ g, (s.tile t).group = some g →
            let e := 0x40 + 32 * g.index
            let mask := BitVec.ofNat 8 (fld img (e + 0x16) 1)
            (u.tile t).running = true ∧ (u.tile t).cycle = 0 ∧ (u.tile t).group = some { g with mask := mask } ∧
            (u.tile t).imem = memWrite [] 0 ((img.drop (fld img e 4)).take (fld img (e + 4) 4)) ∧
            (u.tile t).smem = memWrite [] 0 ((img.drop (fld img (e + 8) 4)).take (fld img (e + 12) 4)) ∧
            (u.tile t).acc = [] ∧ ∀ k : Fin 8, (u.strandAt t k).r.pc = w64 (4 * k.val) ∧
              (u.strandAt t k).run = (if mask.getLsbD k.val then .active else .notStarted) ∧
              (u.strandAt t k).etvec = w64 (fld img (e + 0x18) 4) ∧ ∀ r : Reg, (u.strandAt t k).r.g[r] = 0)) ∧
  (∀ s l p, OnlyPlaced s l p → l.retired = [] →
    (groupDone s l p = false → exec (.groupFinish l.lnum p.rank) s = .next s) ∧
    (groupDone s l p = true → l.base = p.rank → p.rank + 1 < groupCount l.r →
      ∃ u l', exec (.groupFinish l.lnum p.rank) s = .next u ∧ u.hub.launches = [l'] ∧ l'.base = p.rank + 1 ∧
        l'.retired = [] ∧ l'.placed = [] ∧ l'.ending = none ∧ ∀ t ∈ regionTiles p.origin l.r.w l.r.h,
          (u.tile t).group = none ∧ (u.tile t).running = false ∧ (u.die (tileDie t)).floorLeft = true) ∧
    (groupDone s l p = true → l.base = p.rank → p.rank + 1 = groupCount l.r → l.r.status = 0 →
      ∃ u, exec (.groupFinish l.lnum p.rank) s = .next u ∧ u.hub.launches = [] ∧ u.mem = s.mem ∧
        (∀ t ∈ regionTiles p.origin l.r.w l.r.h, (u.tile t).group = none ∧ (u.tile t).running = false) ∧
        (l.r.done = none → u.hub.counters = s.hub.counters) ∧
        ∀ c v, l.r.done = some (c, v) → s.hub.counterWrites = [] → s.hub.counterBefore = [] →
          tabGet 0 c u.hub.counters = (tabGet 0 c s.hub.counters + v) % 2 ^ 64)) ∧
  (∀ s l p, OnlyPlaced s l p →
    (overrunDue s l p = false → exec (.overrun l.lnum p.rank) s = .next s ∧ exec (.overrunDeadline l.lnum p.rank) s = .next s) ∧
    (overrunDue s l p = true → (∃ u, exec (.overrun l.lnum p.rank) s = .next u ∧
        ∀ t ∈ regionTiles p.origin l.r.w l.r.h, ∀ g, (s.tile t).group = some g → ∀ k : Fin 8,
          (u.strandAt t k).ovrpend = ((s.strandAt t k).ovrpend ||
            (g.mask.getLsbD k.val && (s.strandAt t k).run != .retired && !(s.strandAt t k).overran))) ∧
      let received : Prop := ∃ t ∈ regionTiles p.origin l.r.w l.r.h, ∃ k : Fin 8, (s.strandAt t k).overran = true
      (¬received ∨ (s.tile (tileOf p.origin)).cycle ≤ l.r.dur + 65536 →
        exec (.overrunDeadline l.lnum p.rank) s = .next s) ∧
      (received → l.r.dur + 65536 < (s.tile (tileOf p.origin)).cycle → StillBusy s l p →
        (∀ t ∈ regionTiles p.origin l.r.w l.r.h, ∃ g, (s.tile t).group = some g ∧ g.lnum = l.lnum) →
        ∃ u l' e, exec (.overrunDeadline l.lnum p.rank) s = .next u ∧ u.hub.launches = [l'] ∧ l'.ending = some e ∧
          e.st = 4 ∧ e.code = 0x10 ∧ e.detail = 0x10B ∧ e.eval = w64 l.r.dur))) ∧
  (∀ s l p, DistinctLaunches s → l ∈ s.hub.launches → (l.placed.find? fun q => q.rank == p.rank) = some p →
    let q := (s.hub.queues[l.queue % 64]'(by omega)).quant
    let due : Prop := q ≠ 0 ∧ p.quantumAt + q ≤ s.dcycle ∧ p.started = true ∧ p.freezeAsked = false ∧ l.r.latclass = 0 ∧
      l.r.standing = false ∧ groupDone s l p = false ∧ (regionTiles p.origin l.r.w l.r.h).all (tileAwake s) = true
    let setPlaced (f : Placed → Placed) : List Launch := s.hub.launches.map fun m =>
      if m.lnum = l.lnum then { m with placed := m.placed.map f } else m
    (¬due → exec (.quantumExpiry l.lnum p.rank) s = .next s) ∧
    (due → ¬(Rival s l ∧ mayFreeze s none l p = true) → ∃ u, exec (.quantumExpiry l.lnum p.rank) s = .next u ∧
      u.hub.launches = setPlaced (fun q => if q.rank = p.rank then { q with quantumAt := s.dcycle } else q) ∧ u.tiles = s.tiles) ∧
    (due → Rival s l → mayFreeze s none l p = true → ∃ u, exec (.quantumExpiry l.lnum p.rank) s = .next u ∧
      u.hub.launches = setPlaced (fun q => if together l.r q.rank p.rank then { q with freezeAsked := true, by_ := none } else q) ∧
      ∀ q ∈ l.placed, together l.r q.rank p.rank = true → ∀ t ∈ regionTiles q.origin l.r.w l.r.h,
        (u.tile t).running = false ∧ (u.tile t).stopped = true)) ∧
  (∀ s l p, OnlyPlaced s l p →
    let ts := regionTiles p.origin l.r.w l.r.h
    let go (u : State) : Prop := exec (.freeze l.lnum p.rank) s = .next u
    (p.freezeAsked = false ∨ (∃ t ∈ ts, (s.die (tileDie t)).halted = true) → go s) ∧
    (p.freezeAsked = true → (∀ t ∈ ts, (s.die (tileDie t)).halted = false) →
      (framesFor s l p = [] → ∃ u, go u ∧
        u.hub.launches = [{ l with
          placed := [{ p with freezeAsked := false, quantumAt := s.dcycle, unmapped := none, by_ := none }] }] ∧
        ∀ t ∈ ts, (u.tile t).running = true) ∧
      ∀ f fs, framesFor s l p = f :: fs →
        (p.unmapped = none → groupIdle s l p = false → go s) ∧
        (p.unmapped = none → groupIdle s l p = true → ∃ u, go u ∧
          u.hub.launches = [{ l with placed := [{ p with unmapped := some (intoTiles s ts) }] }] ∧
          ∀ t ∈ ts, (u.tile t).unmapped = true) ∧
        ∀ left, p.unmapped = some left →
          let quiet : Prop := groupQuiet s l p = true ∧ ∀ t ∈ ts, ∀ q : Fin 4, (laneFlits s t q.val).length ≤ 10
          (¬quiet → go s) ∧
          (quiet → scanOutBad s l p = true → l.frozen = [] → l.r.status = 0 →
            ∃ u, go u ∧ u.hub.launches = [] ∧ u.mem = s.mem) ∧
          (quiet → scanOutBad s l p = false →
            ∃ u l' z, go u ∧ u.hub.launches = [l'] ∧ l'.placed = [] ∧
              l'.frozen = l.frozen ++ [z] ∧ z.rank = p.rank ∧ z.frame = f ∧
              z.tiles = ts.map (fun t => writtenTile (s.tile t)) ∧
              ∀ t ∈ ts, (u.tile t).group = none ∧ (u.tile t).running = false))) ∧
  (∀ s l p, OnlyPlaced s l p → p.restoring = false → exec (.restore l.lnum p.rank) s = .next s) ∧
  (∀ s l p z img, OnlyPlaced s l p → p.started = false → p.restoring = true → l.frozen = [z] →
    (l.r.standing = true ∨ imageHeld s l.view l.r.image = false) →
    z.rank = p.rank → imageFor s l = (img, s) → z.tiles.length = l.r.w * l.r.h →
    let frame := frameAddr s l.area z.frame
    (s.failedIn (l.area + 8) 8 = true ∨ (∃ i, i < l.r.w * l.r.h ∧ areaOk s l.r.saveMask (areaAddr frame i) = false) → ∃ u, exec (.restore l.lnum p.rank) s = .next u ∧
      ∀ l' ∈ u.hub.launches, ∃ e, l'.ending = some e ∧ e.st = 4 ∧ e.code = 0x13) ∧
    (s.failedIn (l.area + 8) 8 = false → (∀ i, i < l.r.w * l.r.h → areaOk s l.r.saveMask (areaAddr frame i) = true) →
      (∀ x ∈ z.tiles, x.eng.r.held = none ∧ ∀ k : Fin 8, (x.strands[k]).r.held = none) →
      ∃ u l' q, exec (.restore l.lnum p.rank) s = .next u ∧ u.hub.launches = [l'] ∧ l'.frozen = [] ∧ l'.placed = [q] ∧
        q.rank = p.rank ∧ q.started = true ∧ q.restoring = false ∧
        ∀ i x, z.tiles[i]? = some x → let t := tileOf (p.origin + i / l.r.w * 12 + i % l.r.w)
          let b := s.hbmBytes (areaAddr frame i) 0x8000
          (u.tile t).running = true ∧ (u.tile t).cycle = fld b 0x5000 8 ∧ (u.tile t).tlb = [] ∧ (u.tile t).mx = { x.mx with accWait := [] } ∧
          (u.tile t).badLm = [] ∧ (u.tile t).badAcc = [] ∧
          (∀ k : Fin 8, let at_ (o : Nat) : W64 := w64 (fld b (0xA00 * k.val + o) 8)
            (∀ r : Fin 32, (u.strandAt t k).r.g[r] = at_ (8 * r.val)) ∧ (u.strandAt t k).r.pc = at_ 0x940 ∧
            (∀ j : Fin 32, (u.strandAt t k).v[j] = BitVec.ofNat 512 (fld b (0xA00 * k.val + 0x100 + 64 * j.val) 64)) ∧
            (∀ j : Fin 8, (u.strandAt t k).m[j] = at_ (0x900 + 8 * j.val)) ∧
            (u.strandAt t k).epc = at_ 0x9A8 ∧ (u.strandAt t k).etvec = at_ 0x9C0 ∧
            ((u.strandAt t k).run = .active ↔ bits (fld b (0xA00 * k.val + 0x9D8) 8) 0 3 = 1) ∧
            ∀ j : Fin 8, ((u.strandAt t k).r.h[j]).valid = false) ∧
          ∀ a, segSaved l.r.saveMask a = true → memGet (u.tile t).lm a = s.hbmByte (areaAddr frame i + 0x8000 + a))) ∧
  ∀ (s : State) (i : Fin 32), s.rot.recovery = false → let x := s.hub.slots[i]
    let fits : Prop := 1 ≤ x.w ∧ x.w ≤ 12 ∧ 1 ≤ x.h ∧ x.h ≤ 12 ∧ 1 ≤ x.standing ∧ x.standing * (x.w * x.h) ≤ 28800 ∧
      x.ctx < 256 ∧ s.ctxValid x.ctx = true ∧
      s.power.preserve + slotPowerOf x + Config.pfloor.toNat ≤ s.power.pbudget
    let s1 : State := { s with fresh := s.fresh + 1 }
    let failed : Prop := ∃ u, exec (.slotLoadEnd i) s = .next u ∧ u.hub.slots[i] = { x with st := 3 } ∧
      bit u.hub.irqcause 4 = true ∧ u.tiles = s.tiles ∧ u.power = s.power
    (exec (.slotLoad i) s = .next (if x.st = 0 then
      { s with hub := { s.hub with slots := s.hub.slots.set i { x with st := 1 } } } else s)) ∧
    (x.st ≠ 1 → exec (.slotLoadEnd i) s = .next s) ∧
    (x.st = 1 → ¬fits → failed) ∧
    (x.st = 1 → fits → imageHeld s (s.viewOf x.ctx) x.image = true → exec (.slotLoadEnd i) s = .next s) ∧
    (x.st = 1 → fits → imageHeld s (s.viewOf x.ctx) x.image = false →
      (readImage s1 (s.viewOf x.ctx) x.image = none → failed) ∧
      ∀ b s', readImage s1 (s.viewOf x.ctx) x.image = some (b, s') → s'.tiles = s.tiles → s'.hub = s.hub → s'.power = s.power →
        (imageOk b x.w x.h = false → failed) ∧
        (imageOk b x.w x.h = true → (∀ n, slotPlaces s' x.w x.h x.standing n = none) → failed) ∧
        (imageOk b x.w x.h = true → (∀ n, (slotPlaces s' x.w x.h x.standing n).isSome = true) →
          ∃ u os, exec (.slotLoadEnd i) s = .next u ∧ os.length = x.standing ∧
            u.hub.slots[i] = { x with st := 2, regions := os, power := slotPowerOf x, loaded := b
                                      sstart := (Config.sstart s.fresh).toNat, sfreeze := (Config.sfreeze s.fresh).toNat } ∧
            (∀ j : Fin 32, j ≠ i → u.hub.slots[j] = s.hub.slots[j]) ∧
            u.power.preserve = s.power.preserve + slotPowerOf x ∧ bit u.hub.irqcause 4 = true ∧
            (∀ o ∈ os, o % 12 + x.w ≤ 12 ∧ o % 144 / 12 + x.h ≤ 12 ∧ ∀ t ∈ regionTiles o x.w x.h,
              (s.tile t).group = none ∧ inStanding s t = false ∧ tileAwake s' t = true) ∧
            ∀ o ∈ os, ∀ j, j < x.w * x.h →
              let e := 0x40 + 32 * j
              let t := tileOf (o + j / x.w * 12 + j % x.w)
              (u.tile t).imem = memWrite [] 0 ((b.drop (fld b e 4)).take (fld b (e + 4) 4)) ∧
              (u.tile t).smem = memWrite [] 0 ((b.drop (fld b (e + 8) 4)).take (fld b (e + 12) 4)) ∧
              (u.tile t).group = none ∧ (u.tile t).lm = (s.tile t).lm)) ∧
    ((∃ l ∈ s.hub.launches, l.slot = some i.val) → exec (.slotUnload i) s = .next s) ∧
    ((∀ l ∈ s.hub.launches, l.slot ≠ some i.val) → ∃ u, exec (.slotUnload i) s = .next u ∧
      u.hub.slots[i] = { x with st := 0, regions := [], power := 0, loaded := [] } ∧
      u.power.preserve = s.power.preserve - x.power ∧ u.tiles = s.tiles)

/-! ### Between the dies -/

/-- Seams and the links (R221, R394, R395, R397, R410-R418). A seam selector is written only while the tiles at every end
stand still, and a lane newly joined is empty, with a credit for each of the twelve places that no flit takes; flits that
have crossed it enter the port buffer at its end; credits come back when due; a resend delays what is under way by 12
cycles, and a ninth failure in a row, when eight resends have failed, fails the lane; a failed lane fails the launches at
either end of it with the EVAL of R417, a failed link every launch, and both raise LINK. A post puts a ring's new entries in
line, and an entry goes out as one frame of R414's bytes with the next sequence number, WRITE, INCR or LAUNCH; one that
breaks the table ends with status 5. A frame in sequence, or the first with RST, is performed, and acknowledged when it is
complete, which a WRITE that is itself a post is once the entries it posts have their statuses (R412, R413); a repeated one
is only acknowledged; an acknowledgement ends its entry; a silent peer is sent its frames again, and fails after RETRY
rounds. What rests on the model's own choice or reading is log entries 48, 49, 50, 51, 65, 72, 96, 106 and 108. -/
def Obligations.SeamAndLinkEvents : Prop :=
  (∀ (s : State) c (q : Fin 4) (l : Fin 12) (v : W64),
    let side := bits v.toNat 1 2
    let lane := bits v.toNat 3 4
    let old := (s.cache c).sels[selNo q l]
    let bad : Prop := laneRuns s c.val q.val l.val = true ∨
      (old.en = true ∧ old.term = false ∧ laneRuns s c.val old.side old.lane = true) ∨ facingDie c.val q.val = none ∨
      (v.getLsbD 7 = false ∧ (laneRuns s c.val side lane = true ∨ side = q.val ∨ 11 < lane ∨ facingDie c.val side = none ∨
        ∃ j, j ≠ selNo q l ∧ let y := (s.cache c).sels[j]
          y.en = true ∧ y.term = false ∧ y.side = side ∧ y.lane = lane))
    (bad → exec (.seamSelectorWrite c q l v) s = .next s) ∧
    (¬bad → ∃ u, exec (.seamSelectorWrite c q l v) s = .next u ∧
      let y := (u.cache c).sels[selNo q l]
      let same : Prop := old.en = true ∧ old.term = false ∧ old.side = side ∧ old.lane = lane ∧
        v.getLsbD 0 = true ∧ v.getLsbD 7 = false
      y.en = v.getLsbD 0 ∧ y.side = side ∧ y.lane = lane ∧ y.term = v.getLsbD 7 ∧
      y.flits = (if v.getLsbD 0 = true ∧ old.en = false then 0 else old.flits) ∧
      (¬same → y.path = [] ∧ ∀ t, laneTile c.val q.val l.val = some t →
        y.credit = if v.getLsbD 0 && !v.getLsbD 7 then 12 - (portBuf (s.tile t).sw (opposite q.val)).buf.length else 0) ∧
      (same → y.path = old.path ∧ y.credit = old.credit) ∧
      ∀ j, j ≠ selNo q l → (u.cache c).sels[j] = (s.cache c).sels[j]) ∧
    (∀ t, laneTile c.val q.val l.val = some t → tileAwake s t = true →
      let b := (portBuf (s.tile t).sw (opposite q.val)).buf
      let come := (old.path.takeWhile fun f => decide (f.from_ ≤ s.now)).take (2 - b.length)
      let u := laneArrive c (selNo q l) s
      come ≠ [] → (portBuf (u.tile t).sw (opposite q.val)).buf = b ++ come.map (fun f => { f with from_ := 0 }) ∧
        ((u.cache c).sels[selNo q l]).path = old.path.drop come.length) ∧
    (∃ u, exec (.seamCreditReturn c q l) s = .next u ∧ (u.cache c).sels[selNo q l] = match old.returns with
      | d :: rest => if d ≤ s.now then { old with credit := old.credit + 1, returns := rest } else old
      | [] => old) ∧
    ((∀ f ∈ old.path, f.from_ ≤ s.now) → exec (.seamCrcResend c q l) s = .next s) ∧
    (∀ a f b, old.path = a ++ f :: b → (∀ g ∈ a, g.from_ ≤ s.now) → s.now < f.from_ →
      let n := if s.now < old.resentTo then old.resends + 1 else 1
      ∃ u, exec (.seamCrcResend c q l) s = .next u ∧
        (n ≤ 8 → u.tiles = s.tiles ∧ u.hub = s.hub ∧ (u.cache c).sels[selNo q l] = { old with
          resends := n, resentTo := f.from_ + 12
          path := a ++ { f with from_ := f.from_ + 12 } :: b.map fun g => { g with from_ := g.from_ + 12 } }) ∧
        (8 < n → LaneFails s u c q l)) ∧
    ∃ u, exec (.seamLaneFail c q l) s = .next u ∧ LaneFails s u c q l) ∧
  (∀ s : State, ∃ u, exec .dynamicLinkFail s = .next u ∧ u.hub.down = true ∧
    u.hub.cuts = s.hub.cuts ++ [(Config.failedLink s.fresh).val] ∧
    bit u.hub.irqcause 1 = true ∧ bit u.hub.irqcause 2 = true ∧ ∀ n p, OnlyPlaced s n p → StillBusy s n p →
      ∃ n' e, u.hub.launches = [n'] ∧ n'.ending = some e ∧ e.st = 4 ∧ e.code = 0x13) ∧
  (∀ f : Frame, f.ver < 2 ^ 8 → f.kindOf < 2 ^ 8 → f.seq < 2 ^ 32 → f.status < 2 ^ 8 → f.kind < 2 ^ 8 → f.len < 2 ^ 8 →
    f.flow < 2 ^ 16 → f.offset < 2 ^ 64 → parseFrame (wire f) = some f) ∧
  (∀ (s : State) (p : Fin 32) (r : Fin 16) (v : W64),
    let x := (s.port p.val).rings[r]
    let k := fin16 x.peer
    let y := (s.port p.val).peers[k]
    let tail := v.toNat % 2 ^ 32
    let n := (tail + 2 ^ 32 - x.rhead) % 2 ^ 32
    let m := (x.posted + 2 ^ 32 - x.rhead) % 2 ^ 32
    let bad : Prop := x.ren = false ∨ x.size = 0 ∨ 16 < x.size ∨ inHbm (x.rbase * 128) (2 ^ x.size * 128) = false ∨
      2 ^ x.size < n
    (bad ∨ n ≤ m → exec (.ringPost p r v) s = .next s) ∧
    let open_ := s.routeOpen (siteOf x.tailpa) (portSite p.val)
    (¬bad → m < n → y.st = 0 ∨ open_ = false → ∃ u, exec (.ringPost p r v) s = .next u ∧
      let es := (List.range (n - m)).map fun i => (x.rhead + m + i) % 2 ^ 32
      (u.port p.val).rings[r] = { x with posted := tail, openEntries := x.openEntries ++ es } ∧
      (u.port p.val).peers[k] = { y with pend := if open_ then y.pend ++ es.map fun e => (r.val, e) else y.pend } ∧
      u.emitted = s.emitted) ∧
    (¬bad → s.hub.cuts = [] → s.failedLines = [] → y.st = 1 → y.pend = [] → y.unacked = [] → (s.port p.val).en = true → (s.port p.val).linkup = true →
      let e := (x.rhead + m) % 2 ^ 32
      let a := x.rbase * 128 + 128 * (e % 2 ^ x.size)
      let w := s.hbmRead a 8
      let off := s.hbmRead (a + 8) 8
      let base : Frame := { ver := 1, kindOf := 1, rst := y.rstNext, seq := y.txseq, status := 0, kind := bits w 0 8, len := 0
                            flow := 0, offset := off, incr := 0, data := [] }
      let sends (cnt : Nat) (f : Frame) : Prop := ∃ u, exec (.ringPost p r v) s = .next u ∧
        u.emitted = s.emitted ++ [.frame p.val y.pmac (wire f)] ∧
        ((u.port p.val).rings[r]).rhead = (x.rhead + cnt) % 2 ^ 32 ∧
        ((u.port p.val).peers[k]).txseq = (y.txseq + 1) % 2 ^ 32 ∧ ((u.port p.val).peers[k]).rstNext = false ∧
        ((u.port p.val).peers[k]).unacked = [(f, r.val, e)] ∧ ((u.port p.val).peers[k]).pend = [] ∧ u.mem = s.mem
      (n = m + 1 → bits w 0 8 = 1 → bits w 32 24 = 0 → 1 ≤ bits w 8 8 → bits w 8 8 ≤ 64 → off % 64 + bits w 8 8 ≤ 64 →
        sends 1 { base with len := bits w 8 8, data := s.hbmBytes (a + 0x40) 64 }) ∧
      (n = m + 1 → bits w 0 8 = 2 → bits w 32 24 = 0 → sends 1 { base with incr := w64 (s.hbmRead (a + 0x10) 8) }) ∧
      (n = m + 2 → bits w 0 8 = 3 → bits w 32 24 = 0 → sends 2 { base with
        offset := 0, flow := bits w 16 16
        data := s.hbmBytes (x.rbase * 128 + 128 * ((e + 1) % 2 ^ x.size)) 128 }) ∧
      (n = m + 1 → (bits w 32 24 ≠ 0 ∨ bits w 0 8 = 0 ∨ 3 ≤ bits w 0 8 ∨ (bits w 0 8 = 1 ∧ (bits w 8 8 = 0 ∨
          64 < bits w 8 8 ∨ 64 < off % 64 + bits w 8 8))) →
        ∃ u, exec (.ringPost p r v) s = .next u ∧ u.emitted = s.emitted ∧ u.hbmByte (a + 7) = 5 ∧
          ((u.port p.val).rings[r]).rfailed = (x.rfailed + 1) % 2 ^ 32 ∧
          ((u.port p.val).peers[k]).unacked = []))) ∧
  (∀ (s : State) (p : Fin 32) (k : Fin 16) (f : Frame), f.ver < 2 ^ 8 → f.kindOf < 2 ^ 8 → f.seq < 2 ^ 32 →
    f.status < 2 ^ 8 → f.kind < 2 ^ 8 → f.len < 2 ^ 8 → f.flow < 2 ^ 16 → f.offset < 2 ^ 64 →
    let x := s.port p.val
    let y := x.peers[k]
    let back := (y.rxseq + 2 ^ 32 - f.seq) % 2 ^ 32
    let sent (st : Nat) : List Emit := if x.linkup then [.frame p.val y.pmac (wire (ackOf f.seq st))] else []
    let gets (u : State) : Prop := exec (.dataFrameReceive p k (wire f)) s = .next u
    (∀ b pad : List Byte, b.length + pad.length < 32 →
      exec (.dataFrameReceive p k b) s = .next s ∧ exec (.ackFrameReceive p k b pad) s = .next s) ∧
    (x.en = false ∨ y.valid = false ∨ f.ver ≠ 1 ∨ f.kindOf ≠ 1 → gets s) ∧
    (x.en = true → y.valid = true → f.ver = 1 → f.kindOf = 1 →
      let fresh : Prop := (f.rst = true ∧ y.rstFrame ≠ some f) ∨ f.seq = y.rxseq
      (¬fresh → (back = 0 ∨ 4096 < back ∨ y.statuses.lookup f.seq = none) → frameHeld s p.val k f = false → gets s) ∧
      (∀ st, ¬fresh → 1 ≤ back → back ≤ 4096 → y.statuses.lookup f.seq = some st → frameHeld s p.val k f = false →
        ∃ u, gets u ∧ (u.port p.val).dups = (x.dups + 1) % 2 ^ 32 ∧
          u.emitted = s.emitted ++ sent st ∧ u.mem = s.mem ∧ u.hub = s.hub) ∧
      (fresh → frameHeld s p.val k f = true → gets s) ∧
      (∀ o, y.open_ = some o → if postDone s o.posts = true ∧ s.replyOpen (portSite p.val) o.pa 1 = true then
        (closeFrame s p.val k).emitted = s.emitted ++ (if x.linkup then [.frame p.val y.pmac (wire (ackOf o.frame.seq o.status))] else []) ∧
          (((closeFrame s p.val k).port p.val).peers[k]).open_ = none else closeFrame s p.val k = s) ∧
      (fresh → frameHeld s p.val k f = false → ∃ u st, gets u ∧
        let z := (u.port p.val).peers[k]
        let waits (pa n : Nat) : Prop := frameRange x k f = some (pa, n) ∧ s.failedIn pa n = false ∧
          (u.postsOf pa n ≠ [] ∨ s.replyOpen (portSite p.val) pa n = false)
        (∀ pa n, waits pa n → u.emitted = s.emitted ∧ z.rxseq = y.rxseq ∧ z.open_ = some ⟨f, st, pa, u.postsOf pa n⟩) ∧
        ((∀ pa n, ¬waits pa n) → u.emitted = s.emitted ++ sent st ∧ z.rxseq = (f.seq + 1) % 2 ^ 32 ∧
          z.statuses.lookup f.seq = some st ∧ (f.rst = true → z.statuses = [(f.seq, st)]) ∧ z.open_ = none) ∧
        (f.kind = 1 → 1 ≤ f.len → f.len ≤ 64 → f.offset % 64 + f.len ≤ 64 → f.data.length = 64 →
          (∀ w, windowFor x k f.offset f.len = some w → s.failedIn (w.wpa + (f.offset - w.wbase)) f.len = false → st = 1 ∧
            u.hbmBytes (w.wpa + (f.offset - w.wbase)) f.len = (f.data.drop (f.offset % 64)).take f.len) ∧
          (windowFor x k f.offset f.len = none → st = 4 ∧ u.mem = s.mem)) ∧
        (f.kind = 2 → s.hub.counterWrites = [] → s.hub.counterBefore = [] →
          if y.incrok = true ∧ y.cbase ≤ f.offset ∧ f.offset < y.cbase + y.ccount ∧ f.offset < 4096 then
            st = 1 ∧ tabGet 0 f.offset u.hub.counters = (tabGet 0 f.offset s.hub.counters + f.incr.toNat) % 2 ^ 64
          else st = 4 ∧ u.hub = s.hub) ∧
        (f.kind = 3 → f.data.length = 128 →
          (ethQueue s p.val f.flow = none → st = 2 ∧ u.hub = s.hub ∧ u.mem = s.mem) ∧
          ∀ q, ethQueue s p.val f.flow = some q → let z := s.hub.queues[q]
            if y.launchok = true ∧ 1 ≤ z.size ∧ z.size ≤ 16 ∧ (z.en = true → queueUsable z = true) ∧
              queueWaiting z < 2 ^ z.size then
              st = 1 ∧ (inHbm (queueEntry z z.qtail) 128 = true → s.hub.cuts = [] → s.failedLines = [] →
                u.hbmBytes (queueEntry z z.qtail) 128 = f.data ∧
                u.hub.queues[q] = { z with qtail := (z.qtail + 1) % 2 ^ 32 })
            else st = 2 ∧ u.hub = s.hub ∧ u.mem = s.mem))) ∧
    (∀ seq status pad, seq < 2 ^ 32 → status < 2 ^ 8 →
      let takes (u : State) : Prop := exec (.ackFrameReceive p k (wire (ackOf seq status)) pad) s = .next u
      ((y.unacked.find? fun z => z.1.seq == seq) = none → takes s) ∧
      ∀ g r e, y.pend = [] → s.hub.cuts = [] → s.failedLines = [] → x.en = true → y.valid = true → (y.unacked.find? fun z => z.1.seq == seq) = some (g, r, e) →
        ∃ u, takes u ∧ ((u.port p.val).peers[k]).unacked = y.unacked.filter (fun z => z.1.seq != seq) ∧
          ((u.port p.val).peers[k]).rounds = 0 ∧
          ((u.port p.val).peers[k]).since = (if (y.unacked.head?.map fun z => z.1.seq) = some seq then s.dcycle else y.since) ∧
          u.hbmByte (entryAddr x.rings[fin16 r] e + 7) = BitVec.ofNat 8 status) ∧
    ((y.unacked = [] ∨ y.st ≠ 1 ∨ s.dcycle < y.since + x.rto) → exec (.retransmitTimeout p k) s = .next s) ∧
    (y.unacked ≠ [] → y.st = 1 → y.since + x.rto ≤ s.dcycle →
      (y.rounds < x.retry → ∃ u, exec (.retransmitTimeout p k) s = .next u ∧
        (u.port p.val).peers[k] = { y with rounds := y.rounds + 1, since := s.dcycle } ∧
        u.emitted = s.emitted ++ if x.en && x.linkup then y.unacked.map fun z => .frame p.val y.pmac (wire z.1) else []) ∧
      (x.retry ≤ y.rounds → ∃ u, exec (.retransmitTimeout p k) s = .next u ∧
        ((u.port p.val).peers[k]).unacked = [] ∧ ((u.port p.val).peers[k]).st = 2 ∧ bit u.hub.irqcause 2 = true ∧
        (y.pend = [] → s.hub.cuts = [] → s.failedLines = [] → ∀ z ∈ y.unacked, u.hbmByte (entryAddr x.rings[fin16 z.2.1] z.2.2 + 7) = 3))) ∧
    (∀ v : W64, ∃ u, exec (.peerReset p k v) s = .next u ∧
      let z := (u.port p.val).peers[k]
      z.st = 1 ∧ z.txseq = 0 ∧ z.rxseq = 0 ∧ z.rstNext = true ∧ z.unacked = [] ∧ z.pend = [] ∧ z.statuses = [] ∧
        z.valid = true ∧ z.pmac = bits v.toNat 0 48 ∧ z.pport = bits v.toNat 48 5 ∧ z.open_ = none ∧
        (y.pend = [] → s.hub.cuts = [] → s.failedLines = [] → ∀ z ∈ y.unacked, u.hbmByte (entryAddr x.rings[fin16 z.2.1] z.2.2 + 7) = 3))) ∧
  ∀ (s : State) (p : Fin 32) up,
    (∃ u, exec (.fcsError p) s = .next u ∧ u.port p.val = { s.port p.val with fcserr := ((s.port p.val).fcserr + 1) % 2 ^ 32 } ∧
      u.mem = s.mem ∧ u.hub = s.hub) ∧
    ∃ u, exec (.ethernetLinkChange p up) s = .next u ∧ u.port p.val = { s.port p.val with linkup := up } ∧
      u.mem = s.mem ∧ u.hub = s.hub
end

namespace Sys2Proof.Claims
open Sys2Proof.Machine

/-! ### Clusters -/

/-- A region overlaps the cluster and keeps QUIESCE out of it (R431). -/
def KeptOut (s : State) (d : DieNo) (k : Fin 4) : Prop :=
  (∃ l ∈ s.hub.launches, ∃ p ∈ l.placed, (∃ t ∈ regionTiles p.origin l.r.w l.r.h, inCluster d k t = true) ∧
    ((∃ t ∈ regionTiles p.origin l.r.w l.r.h, inCluster d k t = false) ∨ l.r.gang = true ∨ l.r.latclass ≠ 0 ∨
      l.r.standing = true ∨ p.started = false ∨ p.freezeAsked = true ∨ l.ending.isSome = true)) ∨
  ∃ x ∈ s.hub.slots.toList, ∃ o ∈ x.regions, ∃ t ∈ regionTiles o x.w x.h, inCluster d k t = true

/-- The state with a cluster record replaced. -/
def withCluster (s : State) (d : DieNo) (k : Fin 4) (c : Cluster) : State :=
  s.setDie d { s.die d with clusters := (s.die d).clusters.set k c }

/-- A die is halted after a command of cluster `k` has ended: it was, or HALT waits and no other command runs (R439). -/
def haltedAfter (x : Die) (k : Fin 4) : Prop :=
  x.halted = true ∨ (x.halt = true ∧ ∀ j : Fin 4, j ≠ k → (x.clusters[j]).busy = none)

/-- A command of a cluster, its number, and the states it is accepted in (R430). -/
def IsCommand (d : DieNo) (k : Fin 4) (aw : Bool) (i : Instr) (cmd : Nat) (from_ : List Nat) : Prop :=
  (i = .quiesce d k aw ∧ cmd = 1 ∧ from_ = [0]) ∨ (i = .save d k aw ∧ cmd = 2 ∧ from_ = [1]) ∨
    (i = .gate d k aw ∧ cmd = 3 ∧ from_ = [2]) ∨ (i = .ungate d k aw ∧ cmd = 4 ∧ from_ = [3]) ∨
    (i = .clusterRestore d k aw ∧ cmd = 5 ∧ from_ = [1, 2, 4])

end Sys2Proof.Claims

section
open Sys2Proof Sys2Proof.Machine Sys2Proof.Claims

/-- Cluster gating (R429-R433, R446). A command is refused with code 3 on a halted die, 1 while another runs or in a state
the table does not list, and QUIESCE with 2 where a region keeps it out; a refusal changes only ERR and ERRV. An accepted
command sets AUTOWAKE and is the running one; QUIESCE stops the cluster's groups and no other tile. A command that ends
leaves its STATE, clears BUSY and counts in TRANS, and a waiting halt may then take effect (R439); SAVE displaces the
retention areas to the buffer and scans each tile into its own, RESTORE scans them in and puts the displaced bytes back, and
the regions resume with their quantum not counted meanwhile, or it fails with code 5 and fails the launches there. CMD 0
sets AUTOWAKE alone, CMD 6 and 7 are refused, a rail that stays low is code 4, CLSAVE waits for no command, CLWAKE asks for
waking. What rests on the model's own choice or reading is log entries 53, 57, 58, 59 and 73. -/
def Obligations.ClusterGating : Prop :=
  ∀ (s : State) (d : DieNo) (k : Fin 4),
    let x := s.die d
    let c := x.clusters[k]
    let at_ := 0x8000 * c.rslot
    let buf (i : Nat) := c.pbase + 0x8000 * i
    let refused (e : Nat) : State := withCluster s d k { c with err := e, errv := true }
    let ended (u : State) (st : Nat) : Prop := (u.die d).clusters[k] = { c with
        busy := none, st := st, trans := (c.trans + 1) % 2 ^ 16, asked := if st = 0 then [] else c.asked
        quietAt := if st = 1 then s.dcycle else c.quietAt } ∧
      ((u.die d).halted = true ↔ haltedAfter x k)
    (∀ aw i cmd from_, IsCommand d k aw i cmd from_ →
      (x.halted = true → exec i s = .next (refused 3)) ∧
      (x.halted = false → (c.busy ≠ none ∨ c.st ∉ from_) → exec i s = .next (refused 1)) ∧
      (x.halted = false → c.busy = none → c.st ∈ from_ → cmd = 1 → KeptOut s d k → exec i s = .next (refused 2)) ∧
      (x.halted = false → c.busy = none → c.st ∈ from_ → (cmd = 1 → ¬KeptOut s d k) →
        ∃ u, exec i s = .next u ∧ (u.die d).clusters[k] = { c with
            cmd := cmd, busy := some cmd, autowake := aw, restoreNext := false } ∧ u.mem = s.mem ∧ u.hub = s.hub ∧
          (cmd ≠ 1 → u.tiles = s.tiles) ∧
          ∀ t, (t ∈ clusterTiles d k → (s.tile t).group.isSome = true → cmd = 1 →
              (u.tile t).running = false ∧ (u.tile t).stopped = true) ∧
            (t ∉ clusterTiles d k → u.tile t = s.tile t))) ∧
    (∀ aw, exec (.autowakeSet d k aw) s = .next (withCluster s d k { c with autowake := aw })) ∧
    (exec (.clctlInvalidCommand d k) s = .next (refused 1)) ∧
    (c.busy = none ∨ (c.busy = some 1 ∧ quiesced s d k = false) → exec (.clusterCommandEnd d k) s = .next s) ∧
    (c.busy = some 1 → quiesced s d k = true → ∃ u, exec (.clusterCommandEnd d k) s = .next u ∧ ended u 1 ∧ u.mem = s.mem ∧
      ∀ t, u.tile t = if t ∈ clusterTiles d k ∧ (s.tile t).group.isSome = true then writtenTile (s.tile t) else s.tile t) ∧
    (∀ cmd st, (cmd, st) ∈ [(3, 3), (4, 4)] → c.busy = some cmd →
      ∃ u, exec (.clusterCommandEnd d k) s = .next u ∧ ended u st ∧ u.tiles = s.tiles ∧ u.mem = s.mem) ∧
    (c.busy = some 2 → inHbm c.pbase (36 * 0x8000) = true →
      (∀ i, i < 36 → badIn (s.tile (clusterTile d k i)).badLm at_ 0x8000 = none) →
      ∃ u, exec (.clusterCommandEnd d k) s = .next u ∧ ended u 2 ∧
      ∀ i, i < 36 → let t := clusterTile d k i
        u.hbmBytes (buf i) 0x8000 = memBytes (s.tile t).lm at_ 0x8000 ∧ (u.tile t).strands = (s.tile t).strands ∧
        ∀ j : Fin 8, (∀ r : Fin 32, memBytes (u.tile t).lm (at_ + 0xA00 * j.val + 8 * r.val) 8 =
            leBytes 8 ((s.strandAt t j).r.g[r]).toNat) ∧
          memBytes (u.tile t).lm (at_ + 0xA00 * j.val + 0x940) 8 = leBytes 8 (s.strandAt t j).r.pc.toNat) ∧
    (c.busy = some 5 → (c.st = 1 ∨ scanGood s d k s.fresh = true) → ∃ u, exec (.clusterCommandEnd d k) s = .next u ∧
      ended u 0 ∧ (∀ l p, OnlyPlaced s l p → (∃ t ∈ regionTiles p.origin l.r.w l.r.h, inCluster d k t = true) →
        (u.hub.launches.map fun m => m.placed) = [[{ p with quantumAt := p.quantumAt + (s.dcycle - c.quietAt) }]] ∧
        ∀ t ∈ regionTiles p.origin l.r.w l.r.h, (u.tile t).running = true ∧ (u.tile t).stopped = false) ∧
      ∀ i, i < 36 → let t := clusterTile d k i
        (c.st = 1 → (u.tile t).lm = (s.tile t).lm ∧ (u.tile t).strands = (s.tile t).strands) ∧
        (c.st = 2 ∨ c.st = 4 → memBytes (u.tile t).lm at_ 0x8000 = s.hbmBytes (buf i) 0x8000 ∧
          (∀ a, a < at_ ∨ at_ + 0x8000 ≤ a → memGet (u.tile t).lm a = memGet (s.tile t).lm a) ∧
          ∀ j : Fin 8, (∀ r : Fin 32, (u.strandAt t j).r.g[r] =
              w64 (leVal (memBytes (s.tile t).lm (at_ + 0xA00 * j.val + 8 * r.val) 8))) ∧
            (u.strandAt t j).r.pc = w64 (leVal (memBytes (s.tile t).lm (at_ + 0xA00 * j.val + 0x940) 8)) ∧
            (c.st = 4 → ∀ n : Fin 8, ((u.strandAt t j).r.h[n]).valid = false))) ∧
    (c.busy = some 5 → c.st ≠ 1 → scanGood s d k s.fresh = false → ∃ u, exec (.clusterCommandEnd d k) s = .next u ∧
      (∀ l p, OnlyPlaced s l p → StillBusy s l p → (∃ t ∈ regionTiles p.origin l.r.w l.r.h, inCluster d k t = true) →
        ∃ n' e, u.hub.launches = [n'] ∧ n'.ending = some e ∧ e.st = 4 ∧ e.code = 0x13) ∧
      let y := (u.die d).clusters[k]
      y.st = 0 ∧ y.busy = none ∧ y.err = 5 ∧ y.errv = true ∧ bit u.power.pevent 3 = true ∧ bit u.hub.irqcause 6 = true) ∧
    (c.busy = some 4 → ∃ u, exec (.railTimeout d k) s = .next u ∧
      let y := (u.die d).clusters[k]
      y.st = 3 ∧ y.busy = none ∧ y.err = 4 ∧ y.errv = true ∧ y.trans = c.trans ∧ bit u.power.pevent 3 = true ∧
        u.tiles = s.tiles ∧ u.mem = s.mem) ∧
    (c.busy ≠ some 4 → exec (.railTimeout d k) s = .next s) ∧
    ∀ v : W64, (exec (.clsaveWrite d k v) s = .next (if c.busy ≠ none ∨ 1 < c.st then refused 1
        else withCluster s d k { c with rslot := bits v.toNat 0 4, pbase := bits v.toNat 21 31 * 2 ^ 21 })) ∧
      exec (.clwake d k v) s = .next (if v.getLsbD 0 then withCluster s d k { c with wakereq := true, wake := true } else s)

/-! ### The host and the registers -/

/-- The host's transactions (R272, R366, R405-R409, R440). One on a module that is down, or behind one that waits there,
waits; one of a wrong size or alignment, or to what no target answers, ends in an error completion and changes nothing.
A read of HBM returns the bytes that stand there; a write leaves its bytes and no others changed. A module's link state
is UP; one that comes up makes the dispatcher's writes it has held, an outcome status before the completion increment that
follows it (R272, R343), and module 0 sends the interrupts it has held. A cause that becomes pending while enabled, or enabled
while pending, is sent once as a 4-byte write of its number; a write of ones clears causes. In recovery every transaction
ends in an error completion. An uncorrectable error of a local memory or accumulator marks the word, which whatever reads it
detects; one of HBM marks its line, tells the host which and fails the launches under the frame's key; one of a register marks
its residue, which the instruction that consumes it detects (OperandsHoldBack); a write clears a correctable-error counter. What
rests on the model's own choice or reading is log entries 54, 74, 78, 90, 94, 96 and 108. -/
def Obligations.HostTransactions : Prop :=
  (∀ (s : State) (m : Fin 4) pa n (data : List Byte),
    let held : Prop := ¬ModuleFree s m.val
    let free : Prop := ModuleFree s m.val ∧ s.hub.cuts = [] ∧ ∀ w ∈ s.hub.heldDone, w.m ≠ m.val
    let good (n : Nat) : Prop := n ∈ [1, 2, 4, 8, 16, 32, 64, 128] ∧ pa % n = 0
    let error : State := { s with emitted := s.emitted ++ [.errorCompletion m.val] }
    let l := data.length
    (held → exec (.hostRead m pa n) s = .next { s with deferred := s.deferred ++ [.hostRead m pa n] } ∧
      exec (.hostWrite m pa data) s = .next { s with deferred := s.deferred ++ [.hostWrite m pa data] }) ∧
    (free → s.rot.recovery = true →
      exec (.hostRead m pa n) s = .next error ∧ exec (.hostWrite m pa data) s = .next error) ∧
    (free → s.rot.recovery = false → (¬good n → exec (.hostRead m pa n) s = .next error) ∧
      (¬good l → exec (.hostWrite m pa data) s = .next error) ∧
      (good n → 4 * domainBytes < pa + n → paRange pa ≠ 9 → paRange pa ≠ 0xA → windowTile pa = none →
        exec (.hostRead m pa n) s = .next error) ∧
      (good l → 4 * domainBytes < pa + l → paRange pa ≠ 9 → paRange pa ≠ 0xA → windowTile pa = none →
        exec (.hostWrite m pa data) s = .next error) ∧
      (good n → pa + n ≤ 4 * domainBytes → exec (.hostRead m pa n) s = .next (if s.failedIn pa n then error
        else { s with emitted := s.emitted ++ [.readData m.val (s.hbmBytes pa n)] })) ∧
      (good l → pa + l ≤ 4 * domainBytes → (s.failedIn pa l = false ∨ l = 128) → s.tailRings pa l = [] →
        ∃ u, exec (.hostWrite m pa data) s = .next u ∧ u.emitted = s.emitted ++ [.writeDone m.val] ∧
          u.hbmBytes pa l = data ∧ (∀ a, a < pa ∨ pa + l ≤ a → u.hbmByte a = s.hbmByte a) ∧
          u.failedIn pa l = false ∧ u.tiles = s.tiles ∧ u.hub = s.hub))) ∧
  (∀ (s : State) (m : Fin 4) up, ∃ u, exec (.ucieModuleLinkChange m up) s = .next u ∧ bit u.hub.up m.val = up ∧
    (∀ j : Fin 4, j ≠ m → bit u.hub.up j.val = bit s.hub.up j.val) ∧ u.mem = s.mem ∧
    (u.hub.heldWrites = s.hub.heldWrites.filter fun w => !(paRange w.pa == 0xF && u.hostReady w.pa w.data.length)) ∧
    (∀ w, s.hub.heldWrites = [w] → paRange w.pa = 0xF → s.hub.irqHeld = [] → u.hostReady w.pa w.data.length = true →
      u.hostBytes w.pa w.data.length = w.data ∧ (w.then_ = none → u.hub.counters = s.hub.counters) ∧
      ∀ l c v, w.then_ = some (l, c, v) → s.hub.counterWrites = [] → s.hub.counterBefore = [] →
        tabGet 0 c u.hub.counters = (tabGet 0 c s.hub.counters + v) % 2 ^ 64) ∧
    (m = 0 → up = true → u.hub.irqHeld = [] ∧
      u.emitted = s.emitted ++ s.hub.irqHeld.map fun c => .interrupt s.hub.irqaddr c) ∧
    (m ≠ 0 ∨ up = false → u.hub.irqHeld = s.hub.irqHeld ∧ u.emitted = s.emitted)) ∧
  (∀ (s : State) (v : W64), s.rot.recovery = false → (∃ u, exec (.irqenWrite v) s = .next u ∧ u.hub.irqen = v.toNat % 128 ∧
      let new := (List.range 7).filter fun c => bit v.toNat c && !bit s.hub.irqen c && bit s.hub.irqcause c &&
        !bit s.hub.irqSent c
      u.hub.irqcause = s.hub.irqcause ∧ if bit s.hub.up 0
        then u.emitted = s.emitted ++ new.map (fun c => .interrupt s.hub.irqaddr c) ∧ u.hub.irqHeld = s.hub.irqHeld
        else u.emitted = s.emitted ∧ u.hub.irqHeld = s.hub.irqHeld ++ new) ∧
    ∃ u, exec (.irqcauseClear v) s = .next u ∧ u.emitted = s.emitted ∧ u.hub.irqen = s.hub.irqen ∧
      ∀ c, c < 7 → bit u.hub.irqcause c = (bit s.hub.irqcause c && !bit v.toNat c)) ∧
  (∀ (s : State) c, c < 7 → (bit s.hub.irqcause c = true → s.irq c = s) ∧
    (bit s.hub.irqcause c = false → bit (s.irq c).hub.irqcause c = true ∧
      (bit s.hub.irqen c = false → (s.irq c).emitted = s.emitted) ∧
      (bit s.hub.irqen c = true → bit s.hub.up 0 = true → s.hub.irqaddr < 2 ^ 48 →
        (s.irq c).emitted = s.emitted ++ [.interrupt s.hub.irqaddr c] ∧
        (s.irq c).hostBytes s.hub.irqaddr 4 = leBytes 4 c))) ∧
  (∀ (s : State),
    (∀ t a, (a < 0x80000 → ∃ u, exec (.uncorrectableError (.localMem t a)) s = .next u ∧ a / 4 ∈ (u.tile t).badLm ∧
        (u.tile t).badAcc = (s.tile t).badAcc ∧ (u.tile t).strands = (s.tile t).strands ∧ (u.tile t).lm = (s.tile t).lm ∧
        u.hub = s.hub ∧ u.mem = s.mem ∧ ∀ t', t' ≠ t → u.tile t' = s.tile t') ∧
      (a < 0x10000 → ∃ u, exec (.uncorrectableError (.accumulator t a)) s = .next u ∧ a / 4 ∈ (u.tile t).badAcc ∧
        (u.tile t).badLm = (s.tile t).badLm ∧ (u.tile t).strands = (s.tile t).strands ∧ (u.tile t).acc = (s.tile t).acc ∧
        u.hub = s.hub ∧ u.mem = s.mem ∧ ∀ t', t' ≠ t → u.tile t' = s.tile t')) ∧
    (∀ pa, pa < 4 * domainBytes → ∃ u, exec (.uncorrectableError (.line pa)) s = .next u ∧
      pa / 128 ∈ u.failedLines ∧ bit u.hub.irqcause 1 = true ∧ Emit.failedLine (pa / 128 * 128) ∈ u.emitted ∧
      ∀ l p, OnlyPlaced s l p → StillBusy s l p → ∃ l', u.hub.launches = [l'] ∧
        (l.key = s.keyOf pa → ∃ e, l'.ending = some e ∧ e.st = 4 ∧ e.code = 0x13 ∧ e.detail = 0x0D) ∧
        (l.key ≠ s.keyOf pa → l' = l)) ∧
    (∀ h (r : Fin 80), r.val < 64 → ∃ u, exec (.uncorrectableError (.register h r)) s = .next u ∧
      r.val ∈ (u.regsOf h).residue ∧ (∀ n, n ≠ r.val → (n ∈ (u.regsOf h).residue ↔ n ∈ (s.regsOf h).residue)) ∧
      { u.regsOf h with residue := [] } = { s.regsOf h with residue := [] } ∧ u.hub = s.hub ∧ u.mem = s.mem) ∧
    ∀ t k (r : Fin 80), 64 ≤ r.val → ∃ u, exec (.uncorrectableError (.register (.strand t k) r)) s = .next u ∧
      r.val - 64 ∈ (u.tile t).accResidue ∧ (u.tile t).acc = (s.tile t).acc ∧ (u.tile t).strands = (s.tile t).strands ∧
      u.hub = s.hub ∧ u.mem = s.mem) ∧
  ∀ (s : State) d, exec (.errorCounterClear (.dieLocal d)) s = .next (s.setDie d { s.die d with errLocal := 0 }) ∧
    exec (.errorCounterClear (.dieAcc d)) s = .next (s.setDie d { s.die d with errAcc := 0 }) ∧
    exec (.errorCounterClear (.cacheSlice d)) s = .next (s.setCache d { s.cache d with errSlice := 0 }) ∧
    exec (.errorCounterClear (.cacheHbm d)) s = .next (s.setCache d { s.cache d with errHbm := 0 })

/-- A write of a register is the event its rule describes, at the address its block gives it (R220, R285, R318, R319, R323,
R367, R408, R425, R429, R439, R441). A write at an address that is misaligned or backed by no block changes nothing (R221),
but that EN = 1 written to a watch that cannot be enabled leaves EN at 0 (R253). A write of the debug control register sets
DBGEN and HALT, or changes nothing where the debug policy does not permit what it sets (R439). The HBM controllers'
registers, which the spec gives no address, are the model's choice of address beyond the 52-bit space (log entry 38): the
key index of a frame (R228), and a bandwidth class's MIN, whose sum stays at most 1,024, and WEIGHT (R229). A counter counts
firmware's write as firmware's (R340). What rests on the model's own choice or reading is log entries 36, 38 and 94. -/
def Obligations.RegisterWrites : Prop :=
  ∀ (s : State) (v : W64), s.rot.recovery = false →
    let w (pa : Nat) := exec (.registerWrite pa v) s
    let hub := 0xA * 2 ^ 48
    (∀ pa, pa < 2 ^ 52 → pa % 8 ≠ 0 ∨ blockOf pa = none → w pa = .next s) ∧
    (∀ d : DieNo, let b := 9 * 2 ^ 48 + d.val * 2 ^ 24
      w (b + 0x10008) = exec (.fqheadWrite d v) s ∧ w (b + 0x10010) = exec (.fqreply d v) s ∧
      w (b + 0x70008) = exec (.dbgresume d v) s ∧
      w (b + 0x10000) = .next s ∧
      (s.rot.debugOk = false → v.getLsbD 0 = true ∨ v.getLsbD 1 = true → w (b + 0x70000) = .next s) ∧
      (s.rot.debugOk = true ∨ (v.getLsbD 0 = false ∧ v.getLsbD 1 = false) → ∃ u, w (b + 0x70000) = .next u ∧
        HaltsAs s u d (v.getLsbD 0) (v.getLsbD 1)) ∧
      (∀ k : Fin 4, let c := b + 0x40000 + 0x40 * k.val
        w (c + 0x10) = exec (.clsaveWrite d k v) s ∧ w (c + 0x18) = exec (.clwake d k v) s ∧
        (∀ i l, IsCommand d k (v.getLsbD 3) i (v.toNat % 8) l → w c = exec i s) ∧
        (v.toNat % 8 = 0 → w c = exec (.autowakeSet d k (v.getLsbD 3)) s) ∧
        (5 < v.toNat % 8 → w c = exec (.clctlInvalidCommand d k) s)) ∧
      (∀ n : Fin 16, w (9 * 2 ^ 48 + 0x1000 * 2 ^ 32 + d.val * 2 ^ 24 + 0x1020 + 64 * n.val) =
        exec (.watchEnableWrite d n v) s) ∧
      ∀ (q : Fin 4) (l : Fin 12), w (9 * 2 ^ 48 + 0x1000 * 2 ^ 32 + d.val * 2 ^ 24 + 0x2000 + 8 * (12 * q.val + l.val)) =
        exec (.seamSelectorWrite d q l v) s) ∧
    (w hub = exec (.dctlWrite v) s ∧ w (hub + 8) = exec (.cancel v) s ∧
      (∀ q : Fin 64, (ModuleFree s 0 → w (hub + 0x10000 + 0x100 * q.val + 0x18) = exec (.doorbell q v) s) ∧
        w (hub + 0x10000 + 0x100 * q.val + 0x20) = exec (.qcfgWrite q v) s) ∧
      (∀ n : Fin 4096, s.hub.counterWrites = [] → s.hub.counterBefore = [] →
        (∃ u, w (hub + 0x100000 + 8 * n.val) = .next u ∧ tabGet 0 n.val u.hub.counters = v.toNat ∧
          (∀ m, m ≠ n.val → tabGet 0 m u.hub.counters = tabGet 0 m s.hub.counters)) ∧
        ∃ u, w (hub + 0x108000 + 8 * n.val) = .next u ∧
          tabGet 0 n.val u.hub.counters = (tabGet 0 n.val s.hub.counters + v.toNat) % 2 ^ 64 ∧
          ∀ m, m ≠ n.val → tabGet 0 m u.hub.counters = tabGet 0 m s.hub.counters) ∧
      w (hub + 0xC0000010) = exec (.irqenWrite v) s ∧ w (hub + 0xC0000018) = exec (.irqcauseClear v) s ∧
      w (hub + 0xD0000000) = exec (.pbudgetWrite v) s ∧
      w (hub + 0xD0000020) = .next { s with power := { s.power with pevent := s.power.pevent &&& (15 - v.toNat % 16) } } ∧
      (v.toNat % 256 = 0x52 → w (hub + 0xD0000100) = exec .panelReset s) ∧
      (v.toNat % 256 ≠ 0x52 → w (hub + 0xD0000100) = .next s)) ∧
    (∀ r, r < 2 ^ 31 → ∃ u, w (2 ^ 52 + r) = .next u ∧ u.keyOf (r * 0x200000) = v.toNat % 128 ∧
      (∀ a, a / 0x200000 ≠ r → u.keyOf a = s.keyOf a) ∧ u.mem = s.mem ∧ u.hub = s.hub) ∧
    ∀ c : Fin 16, let mins := s.hub.bwMin.set c (v.toNat % 1024)
      (1024 < mins.toList.sum → w (2 ^ 52 + 2 ^ 31 + c.val) = .next s) ∧
      (mins.toList.sum ≤ 1024 → w (2 ^ 52 + 2 ^ 31 + c.val) = .next (s.modHub fun h =>
        { h with bwMin := mins, bwWeight := h.bwWeight.set c (bits v.toNat 16 8) }))

/-! ### Power, debug, boot -/

/-- Power and debug (R121, R378, R425-R428, R439, R442, R443, R446). A recomputation keeps every cap within 8-64 and, while
the coolant is outside its limits, lowers caps and compute dies' allowances toward the floor; PDRAW above PBUDGET sets
PEVENT bit 0; a die that draws too much twice is held at the floor until a group has left it or finished, and one of its
groups is asked to freeze. PBUDGET takes no value below PRESERVE + PFLOOR. The coolant's limits are 45 degrees and 4 L/min;
at 110 degrees every launch fails and the panel stays down. The SMBus reads the status. HALT takes effect when no cluster
command runs, with a DEBUG record; DBGRESUME completes the brk; without the debug policy no write sets HALT or DBGEN,
resumes a strand or reaches the Rhizoid chain. Through it the registers, memories, switch, matrix unit, engine, handles,
translation cache and saved area of a halted die's tiles, and the harts and sampler of the die, are read and written; a bad
word fails the launch, and the logic of a cluster that has just been powered shows zeros. What rests on the model's own
choice or reading is log entries 56, 77, 80 and 94. -/
def Obligations.PowerAndDebug : Prop :=
  (∀ (s : State), (∃ u, exec .allowanceRecompute s = .next u ∧
      (∀ d : DieNo, let x := s.die d; let y := u.die d
        (8 ≤ x.duty → x.duty ≤ 64 → 8 ≤ y.duty ∧ y.duty ≤ 64 ∧
          (s.power.hot = true → y.duty ≤ x.duty ∧ (8 < x.duty → y.duty < x.duty))) ∧
        (8 ≤ x.issueCap → x.issueCap ≤ 64 → 8 ≤ y.issueCap ∧ y.issueCap ≤ 64 ∧
          (s.power.hot = true → y.issueCap ≤ x.issueCap ∧ (8 < x.issueCap → y.issueCap < x.issueCap))) ∧
        (y.floorCount = 0 ∨ y.floorCount = min 2 (x.floorCount + 1)) ∧
        (y.floorHeld = true ↔ (x.floorHeld = true ∧ x.floorLeft = false) ∨ y.floorCount = 2) ∧
        (y.floorHeld = true → y.duty = 8 ∧ y.issueCap = 8 ∧ bit u.power.pevent 2 = true ∧
          ∀ l p, OnlyPlaced s l p → p.origin / 144 = d.val → l.r.latclass = 0 → l.r.standing = false →
            mayFreeze s none l p = true →
              u.hub.launches = [{ l with placed := [{ p with freezeAsked := true, by_ := none }] }])) ∧
      (s.power.hot = true → ∀ i, i < 200 → pallowOf u i ≤ pallowOf s i ∧
        (Config.floorDraw i < pallowOf s i → pallowOf u i < pallowOf s i)) ∧
      (s.dcycle < s.power.lastRecompute + 1000000 → u.power.pdraw = s.power.pdraw) ∧
      (s.power.lastRecompute + 1000000 ≤ s.dcycle → u.power.lastRecompute = s.dcycle ∧
        (s.power.pbudget < u.power.pdraw → bit u.power.pevent 0 = true)) ∧ u.power.pbudget = s.power.pbudget) ∧
    (∀ v : W64, s.rot.recovery = false → let b := v.toNat % 2 ^ 32
      (b < s.power.preserve + Config.pfloor.toNat → exec (.pbudgetWrite v) s = .next s) ∧
      (s.power.preserve + Config.pfloor.toNat ≤ b → ∃ u, exec (.pbudgetWrite v) s = .next u ∧
        u.power.pbudget = b ∧ u.power.preserve = s.power.preserve)) ∧
    (∀ inlet flow, let hot := decide (45000 < inlet ∨ flow < 4000)
      ∃ u, exec (.coolantLimit inlet flow) s = .next u ∧ u.power.inlet = inlet ∧ u.power.flow = flow ∧ u.power.hot = hot ∧
        (hot = false → u.power.pevent = s.power.pevent ∧ u.dies = s.dies) ∧
        (hot = true → bit u.power.pevent 1 = true ∧ bit u.hub.irqcause 6 = true ∧
          ∀ d : DieNo, 8 ≤ (s.die d).duty → (u.die d).duty ≤ (s.die d).duty)) ∧
    (∀ c, (c < 110000 → exec (.thermalTrip c) s = .next { s with power := { s.power with junction := c } }) ∧
      (110000 ≤ c → ∃ u, exec (.thermalTrip c) s = .next u ∧ u.hub.down = true ∧ u.power.junction = c ∧
        ∀ l p, OnlyPlaced s l p → StillBusy s l p → ∃ l' e, u.hub.launches = [l'] ∧
          l'.ending = some e ∧ e.st = 4 ∧ e.code = 0x13)) ∧
    (exec .smbusStatusRead s = .next { s with emitted := s.emitted ++ [.smbus s.rot.stage s.power.pdraw s.power.pevent
      s.power.junction s.power.inlet s.power.flow] })) ∧
  (∀ (s : State) d, let x := s.die d
    (s.rot.debugOk = false → exec (.debugHalt d) s = .next s ∧
      ∀ v : W64, (v.getLsbD 0 = true ∨ x.halt = true → exec (.debugEnableWrite d v) s = .next s) ∧
        exec (.dbgresume d v) s = .next s) ∧
    (s.rot.debugOk = true → (∃ u, exec (.debugHalt d) s = .next u ∧ HaltsAs s u d x.dbgen true) ∧
      (∃ u, exec (.debugResume d) s = .next u ∧ HaltsAs s u d x.dbgen false) ∧
      ∀ v : W64, (∃ u, exec (.debugEnableWrite d v) s = .next u ∧ HaltsAs s u d (v.getLsbD 0) x.halt) ∧
        let i := bits v.toNat 0 8
        let t := tileOf (d.val * 144 + i)
        let k := fin8 (bits v.toNat 8 3)
        let z := s.strandAt t k
        let good : Prop := v.getLsbD 63 = true ∧ bits v.toNat 11 52 = 0 ∧ i < 144 ∧ z.run = .halted
        (¬good → exec (.dbgresume d v) s = .next s) ∧
        (good → z.r.lc[0] = 0 → z.r.lc[1] = 0 → z.r.pc.toNat < 0xFFFC → ∃ u, exec (.dbgresume d v) s = .next u ∧
          (u.strandAt t k).run = .active ∧ (u.strandAt t k).r.pc = z.r.pc + 4 ∧ (u.strandAt t k).r.g = z.r.g ∧
          (u.strandAt t k).r.issued = z.r.issued + 1 ∧ u.mem = s.mem ∧ u.hub = s.hub ∧ ∀ t', t' ≠ t → u.tile t' = s.tile t'))) ∧
  ∀ (s : State) t k,
    let d := s.die (tileDie t)
    let c := d.clusters[clusterOf (tileIdx t)]
    let x := s.tile t
    let z := s.strandAt t k
    let read (i : ChainItem) (n : Nat) : Prop :=
      exec (.jtagInstruction (.chainRead t i)) s = .next { s with fresh := s.fresh + 1, emitted := s.emitted ++ [.jtag n] }
    let write (i : ChainItem) (n : Nat) (p : Tile → Prop) : Prop := ∃ u, exec (.jtagInstruction (.chainWrite t i n)) s = .next u ∧
      p (u.tile t) ∧ (∀ t', t' ≠ t → u.tile t' = s.tile t') ∧ u.mem = s.mem ∧ u.hub = s.hub ∧ u.emitted = s.emitted
    exec (.jtagInstruction .boundaryScan) s = .next s ∧
    (s.rot.debugOk = false ∨ d.halted = false ∨ c.st = 3 → ∀ i n,
      exec (.jtagInstruction (.chainRead t i)) s = .next s ∧ exec (.jtagInstruction (.chainWrite t i n)) s = .next s) ∧
    (s.rot.debugOk = true → d.halted = true → c.st = 4 → ∀ r n,
      exec (.jtagInstruction (.chainRead t (.g k r))) s = .next { s with emitted := s.emitted ++ [.jtag 0] } ∧
      exec (.jtagInstruction (.chainWrite t (.g k r) n)) s = .next s) ∧
    (s.rot.debugOk = true → d.halted = true → c.st ≠ 3 → ∀ a, a < 0x80000 → a / 4 ∈ x.badLm →
      exec (.jtagInstruction (.chainRead t (.localMem a))) s = .next (s.failGroup t 0x13 0x0D 0 0 0)) ∧
    (s.rot.debugOk = true → d.halted = true → c.st ≠ 3 → c.st ≠ 4 →
      (∀ r : Reg, read (.g k r) (if r = 0 then 0 else z.r.g[r].toNat) ∧ read (.v k r) z.v[r].toNat ∧
        read (.engineG r) (if r = 0 then 0 else x.eng.r.g[r].toNat)) ∧
      (∀ r : Reg8, read (.m k r) z.m[r].toNat) ∧
      (∀ a, (a < 0x80000 → a / 4 ∉ x.badLm → read (.localMem a) (memGet x.lm a).toNat) ∧
        (a < 0x10000 → (a / 4 ∉ x.badAcc → read (.accumulator a) (memGet x.acc a).toNat) ∧
          read (.code a) (memGet x.imem a).toNat) ∧
        (a < 0x4000 → read (.switchCode a) (memGet x.smem a).toNat)) ∧
      read (.switchReg 0) x.sw.spc ∧ read (.switchReg 1) x.sw.rep ∧ read (.engineReg 0) x.eng.r.pc.toNat ∧
      read (.switchMode 8) x.sw.missLen ∧ (∀ l : Fin 2, read (.latchPos l 0) (x.mx.latch[l]).fwd) ∧
      read (.matrixOrder 3) x.mx.queue.length ∧ (∀ o, x.mx.queue[0]? = some o → read (.matrixOp 1 2) o.pc.toNat) ∧
      (∀ i : Fin 64, read (.engineDesc i) (x.eng.desc.getD i.val 0).toNat) ∧ read (.engineQueue 0) x.eng.queue.length ∧
      (∀ h : Held, z.r.held = some h → read (.held ⟨k.val, by omega⟩ 1) h.va.toNat) ∧
      (∀ n : Reg8, read (.handle ⟨k.val, by omega⟩ n 2) (z.r.h[n]).pb) ∧ (∀ e, x.tlb[0]? = some e → read (.tlb 0 4) e.pa) ∧
      read (.sampler 1) d.sorusQ.length ∧ read (.dieReg 2 32) d.mgmt.r.pc.toNat ∧
      (∀ j, j < 8 → read (.area (0xA00 * k.val + 0x940 + j)) (bits z.r.pc.toNat (8 * j) 8)) ∧
      ∀ n, (∀ r : Reg, write (.g k r) n fun y =>
          y = if r = 0 then x else { x with strands := x.strands.set k { z with r := { z.r with
            g := z.r.g.set r (w64 n), residue := z.r.residue.filter (· != r.val) } } }) ∧
        (∀ r : Reg, write (.v k r) n fun y =>
          y = { x with strands := x.strands.set k { z with
            v := z.v.set r (BitVec.ofNat 512 n), r := { z.r with residue := z.r.residue.filter (· != 32 + r.val) } } }) ∧
        (∀ h : Reg8, write (.handle ⟨k.val, by omega⟩ h 2) n fun y => ((y.strands[k]).r.h[h]).pb = n ∧ y.lm = x.lm) ∧
        (∀ l : Fin 2, write (.latchPos l 0) n fun y => (y.mx.latch[l]).fwd = n ∧ y.strands = x.strands) ∧
        write (.switchMode 8) n (fun y => y.sw = { x.sw with missLen := n } ∧ y.strands = x.strands) ∧
        (∀ a, a < 0x80000 → write (.localMem a) n fun y => memGet y.lm a = BitVec.ofNat 8 n ∧
          (∀ j, j ≠ a → memGet y.lm j = memGet x.lm j) ∧ y.strands = x.strands ∧ y.acc = x.acc) ∧
        (∀ a, a < 0x10000 → write (.accumulator a) n fun y => memGet y.acc a = BitVec.ofNat 8 n ∧
          (∀ j, j ≠ a → memGet y.acc j = memGet x.acc j) ∧ y.strands = x.strands ∧ y.lm = x.lm) ∧
        write (.switchReg 0) n (fun y => y = { x with sw := { x.sw with spc := n % 2048 } }) ∧
        ∀ j, j < 8 → write (.area (0xA00 * k.val + 0x940 + j)) n fun y =>
          bits (y.strands[k]).r.pc.toNat (8 * j) 8 = n % 256 ∧ (y.strands[k]).r.g = z.r.g ∧ y.lm = x.lm)

/-- Boot, measurement, keys and panel reset (R436-R438, R441), with the images and signatures of the flash left open.
Power-on measures the ROM into MR0 and the fuse state into MR3; each image extends its register before it runs, those of
stage 2 in turn up to the first that fails, and only when all are good does stage 3 come, else recovery, in which nothing but
an accepted stage-1 image is taken. The host
extends MR4-MR7 only. A report holds identity, SVN, MR0-MR7 and the nonce, and is stored at the host's address. The host
regenerates the keys of indices 1-127, and lines of such a frame then read as unrelated values; a panel reset
regenerates all, discards every launch and extends MR2 anew. What rests on the model's own choice or reading is log
entries 28, 61, 62, 63, 76, 93 and 94. -/
def Obligations.BootAndKeys : Prop :=
  let extended (m d : List Byte) : List Byte := digestOf (m ++ d)
  let allGood (n : Nat) : Prop := ∀ i ∈ [2, 3, 4, 5], Config.flashOk n i = true
  let measured (n : Nat) (m : List Byte) : List Byte :=
    ([2, 3, 4, 5].takeWhile fun i => Config.flashOk n i).foldl (fun m i => extended m (Config.flashDigest n i)) m
  (∀ s : State, (s.rot.stage ≠ 0 ∨ s.rot.recovery = true → exec .powerOnBoot s = .next s) ∧
    (s.rot.stage = 0 → s.rot.recovery = false → ∃ u, exec .powerOnBoot s = .next u ∧ u.tiles = s.tiles ∧ u.mem = s.mem ∧
      u.rot.mr[0] = extended s.rot.mr[0] Config.romDigest ∧ u.rot.mr[3] = extended s.rot.mr[3] (digestOf Config.fuseState) ∧
      u.rot.debugOk = Config.debugPolicy ∧
      (Config.flashOk s.fresh 1 = false → u.rot.stage = 0 ∧ u.rot.recovery = true ∧ u.rot.mr[1] = s.rot.mr[1]) ∧
      (Config.flashOk s.fresh 1 = true → u.rot.mr[1] = extended s.rot.mr[1] (Config.flashDigest s.fresh 1) ∧
        u.rot.mr[2] = measured s.fresh s.rot.mr[2] ∧
        (allGood s.fresh → u.rot.stage = 3 ∧ u.rot.recovery = false) ∧
        (¬allGood s.fresh → u.rot.stage = 1 ∧ u.rot.recovery = true)))) ∧
  (∀ (s : State) img, (s.rot.recovery = false ∨ imageAccepted img = false → exec (.recoveryImageLoad img) s = .next s) ∧
    (imageAccepted img = true → img.stage = 1 ∧ img.magic = 0x54425A4E ∧ img.len = img.body.length ∧
      img.header = Config.bootHeader img.magic img.stage img.svn img.len img.rsaKey img.slhKey ∧ img.rsaSig.length = 384 ∧
      img.slhSig.length = 16224 ∧ Config.fusedSvn ≤ img.svn ∧ Config.sha384 img.rsaKey = Config.fusedRsa ∧
      Config.sha384 img.slhKey = Config.fusedSlh ∧ Config.rsaVerify img.rsaKey (img.header ++ img.body) img.rsaSig = true ∧
      Config.slhVerify img.slhKey (img.header ++ img.body) img.slhSig = true) ∧
    (s.rot.recovery = true → imageAccepted img = true → ∃ u, exec (.recoveryImageLoad img) s = .next u ∧
      u.rot.mr[1] = extended s.rot.mr[1] (digestOf (img.header ++ img.body)) ∧
      u.rot.mr[2] = measured s.fresh s.rot.mr[2] ∧
      (u.rot.stage = 3 ∧ u.rot.recovery = false ↔ allGood s.fresh))) ∧
  (∀ (s : State) (i : Fin 8) d, s.rot.recovery = false → (i.val < 4 ∨ d.length ≠ 48 → exec (.mrExtend i d) s = .next s) ∧
    (4 ≤ i.val → d.length = 48 → exec (.mrExtend i d) s = .next { s with
      rot := { s.rot with mr := s.rot.mr.set i (extended s.rot.mr[i] d) } })) ∧
  (∀ (s : State) nonce h, s.rot.recovery = false →
    (nonce.length ≠ 48 → exec (.attestationRequest nonce h) s = .next s) ∧
    (nonce.length = 48 → (∀ m, m < 4 → bit s.hub.up m = false) → exec (.attestationRequest nonce h) s =
      .next { s with deferred := s.deferred ++ [.attestationRequest nonce h] }) ∧
    (nonce.length = 48 → (∀ m, m < 4 → bit s.hub.up m = true) → ∃ u sig, exec (.attestationRequest nonce h) s = .next u ∧
      let r := Config.identity ++ leBytes 8 Config.fusedSvn ++ s.rot.mr.toList.flatten ++ nonce ++ sig
      u.hostBytes h r.length = r ∧ u.emitted = s.emitted ++ [.report h r] ∧ u.rot = s.rot ∧ u.mem = s.mem)) ∧
  (∀ s : State, s.rot.recovery = true → ∀ i d nonce h n, exec (.mrExtend i d) s = .next s ∧
    exec (.attestationRequest nonce h) s = .next s ∧ exec (.keyRegenerate n) s = .next s ∧
    (∀ v, exec (.pbudgetWrite v) s = .next s ∧ exec (.cancel v) s = .next s ∧ exec (.irqenWrite v) s = .next s) ∧
    ∀ q v, exec (.doorbell q v) s = .next s ∧ exec (.qcfgWrite q v) s = .next s) ∧
  (∀ s : State, s.rot.recovery = false → exec (.keyRegenerate 0) s = .next s ∧ ∀ n : Fin 128, n ≠ 0 → ∃ u, exec (.keyRegenerate n) s = .next u ∧
    u.mem = s.mem ∧ u.hub = s.hub ∧ u.tiles = s.tiles ∧ ∀ pa,
      (s.keyOf pa ≠ n.val → u.hbmByte pa = s.hbmByte pa) ∧
      (s.keyOf pa = n.val → s.stale pa = false → u.hbmByte pa = Config.staleByte pa (u.epochOf pa))) ∧
  ∀ s : State, (s.rot.stage ≠ 3 → exec .panelReset s = .next s) ∧
    (s.rot.stage = 3 → ∃ u, exec .panelReset s = .next u ∧ u.hub.launches = [] ∧ u.tiles = [] ∧ u.dies = [] ∧
      u.hub.en = false ∧ u.hub.up = s.hub.up ∧ u.mem = s.mem ∧ u.hostMem = s.hostMem ∧ u.emitted = s.emitted ∧
      (∀ n, n < 128 → tabGet 0 n u.keyEpoch = tabGet 0 n s.keyEpoch + 1) ∧
      u.moves = [] ∧ u.revoking = [] ∧ u.rot.mr[2] = measured s.fresh s.rot.mr[2] ∧
      (allGood s.fresh → u.rot.stage = 3))
end
end

