-- ==== Sys2Proof/Laws/Encoding.lean ====
section
/-! SUPPORT. Reading back an encoded word: each code table reads back; a word of each format of R31 and R52 has the
fields it was built from, so a decoder that answers `i` on every word with those fields answers `i` on it. -/
namespace Sys2Proof

/-! ### Code tables -/

theorem VType.code_lt (t : VType) : t.code < 12 := by cases t <;> decide
@[simp] theorem VType.ofCode_code (t : VType) : VType.ofCode t.code = some t := by cases t <;> rfl
theorem Size.code_lt (z : Size) : z.code < 4 := by cases z <;> decide
@[simp] theorem Size.ofCode_code (z : Size) : Size.ofCode z.code = z := by cases z <;> rfl
theorem Cond.code_lt (c : Cond) : c.code < 6 := by cases c <;> decide
@[simp] theorem Cond.ofCode_code (c : Cond) : Cond.ofCode c.code = some c := by cases c <;> rfl
theorem ShiftKind.code_lt (k : ShiftKind) : k.code < 4 := by cases k <;> decide
@[simp] theorem ShiftKind.ofCode_code (k : ShiftKind) : ShiftKind.ofCode k.code = k := by cases k <;> rfl
theorem AmoOp.code_lt (op : AmoOp) : op.code < 11 := by cases op <;> decide
@[simp] theorem AmoOp.ofCode_code (op : AmoOp) : AmoOp.ofCode op.code = some op := by cases op <;> rfl
theorem Order.code_lt (o : Order) : o.code < 4 := by cases o <;> decide
@[simp] theorem Order.ofCode_code (o : Order) : Order.ofCode o.code = o := by cases o <;> rfl
theorem MatSel.code_lt (f : MatSel) : f.code < 5 := by cases f <;> decide
@[simp] theorem MatSel.ofCode_code (f : MatSel) : MatSel.ofCode f.code = some f := by cases f <;> rfl
theorem StFmt.code_lt (f : StFmt) : f.code < 3 := by cases f <;> decide
@[simp] theorem StFmt.ofCode_code (f : StFmt) : StFmt.ofCode f.code = some f := by cases f <;> rfl
theorem Src.code_lt (p : Src) : p.code < 11 := by cases p <;> decide
@[simp] theorem Src.ofCode_code (p : Src) : Src.ofCode p.code = some p := by cases p <;> rfl
theorem b2n_lt (b : Bool) : b2n b < 2 := by cases b <;> decide
@[simp] theorem b2n_beq_one (b : Bool) : (b2n b == 1) = b := by cases b <;> rfl
@[simp] theorem b2n_eq_one (b : Bool) : b2n b = 1 ↔ b = true := by cases b <;> decide
@[simp] theorem b2n_eq_zero (b : Bool) : b2n b = 0 ↔ b = false := by cases b <;> decide

/-! ### Fields of a word -/

theorem regAt_of {w lo : Nat} {r : Reg} (h : bits w lo 5 = r.val) : regAt w lo = r := Fin.ext h
theorem reg8At_of {w lo : Nat} {r : Reg8} (h : bits w lo 3 = r.val) : reg8At w lo = r := Fin.ext h
theorem latchAt_of {w : Nat} {l : Fin 2} (h : bits w 8 1 = l.val) : latchAt w = l := Fin.ext h
theorem accAt_of {w : Nat} {c : AccNo} (h : bits w 22 4 = c.val) : accAt w = c := Fin.ext h
theorem csrAt_of {w : Nat} {c : Fin 4096} (h : bits w 4 12 = c.val) : csrAt w = c := Fin.ext h
theorem bodyAt_of {w : Nat} {n : Fin 8192} (h : bits w 0 13 = n.val) : bodyAt w = n := by
  apply Fin.ext; simpa [bodyAt, bits] using h
theorem levelAt_of {w : Nat} {k : Fin 2} (h : bits w 25 1 = k.val) : levelAt w = k := Fin.ext h
theorem countAt_of {w : Nat} {n : Fin 4096} (h : bits w 44 12 = n.val) : countAt w = n := Fin.ext h
theorem targetAt_of {w : Nat} {n : Fin 2048} (h : bits w 32 11 = n.val) : targetAt w = n := Fin.ext h
theorem signalAt_of {w : Nat} {k : Fin 8} (h : bits w 32 3 = k.val) : signalAt w = k := Fin.ext h
theorem counterAt_of {w : Nat} {c : Fin 2} (h : bits w 56 1 = c.val) : counterAt w = c := Fin.ext h
theorem fieldAt_of {w lo n : Nat} {v : BitVec n} (h : bits w lo n = v.toNat) : fieldAt w lo n = v := by
  apply BitVec.eq_of_toNat_eq
  rw [← h]
  simp [fieldAt, bits]
theorem bit_eq (w i : Nat) : bit w i = (bits w i 1 == 1) := rfl
theorem bit_of {w i : Nat} {b : Bool} (h : bits w i 1 = b2n b) : bit w i = b := by simp [bit_eq, h]

/-- A field inside a field. -/
theorem bits_inside {w lo n v j m : Nat} (h : bits w lo n = v) (hj : j + m ≤ n) :
    bits w (lo + j) m = v / 2 ^ j % 2 ^ m := by
  subst h
  obtain ⟨c, rfl⟩ := Nat.exists_eq_add_of_le hj
  simp only [bits, Nat.pow_add, ← Nat.div_div_eq_div_mul]
  rw [Nat.mul_assoc, Nat.mod_mul_right_div_self, Nat.mod_mul_right_mod]

/-- A field made of two that touch. -/
theorem bits_join {w lo m n u v : Nat} (hu : bits w lo m = u) (hv : bits w (lo + m) n = v) :
    bits w lo (m + n) = u + 2 ^ m * v := by
  subst hu hv
  simp only [bits, Nat.pow_add, ← Nat.div_div_eq_div_mul]
  rw [Nat.mod_mul]

/-! ### Formats -/

/-- A word of format R (R31). -/
theorem of_encR {α : Type} {D : Nat → α} {y : α} {major d a b x f : Nat}
    (h : ∀ w, bits w 26 6 = major → bits w 21 5 = d → bits w 16 5 = a → bits w 11 5 = b → bits w 8 3 = x →
      bits w 0 8 = f → D w = y)
    (hm : major < 64 := by omega) (hd : d < 32 := by omega) (ha : a < 32 := by omega) (hb : b < 32 := by omega)
    (hx : x < 8 := by omega) (hf : f < 256 := by omega) : D (encR major d a b x f) = y := by
  apply h <;> unfold bits encR <;> omega

/-- A word of format R of a vector op (R33). -/
theorem of_encV {α : Type} {D : Nat → α} {y : α} {major d a b x t op : Nat}
    (h : ∀ w, bits w 26 6 = major → bits w 21 5 = d → bits w 16 5 = a → bits w 11 5 = b → bits w 8 3 = x →
      bits w 4 4 = t → bits w 0 4 = op → D w = y)
    (hm : major < 64 := by omega) (hd : d < 32 := by omega) (ha : a < 32 := by omega) (hb : b < 32 := by omega)
    (hx : x < 8 := by omega) (ht : t < 16 := by omega) (hf : op < 16 := by omega) :
    D (encV major d a b x t op) = y := by
  apply h <;> unfold bits encV encR <;> omega

/-- A word of format I (R31). -/
theorem of_encI {α : Type} {D : Nat → α} {y : α} {major d a imm : Nat}
    (h : ∀ w, bits w 26 6 = major → bits w 21 5 = d → bits w 16 5 = a → bits w 0 16 = imm → D w = y)
    (hm : major < 64 := by omega) (hd : d < 32 := by omega) (ha : a < 32 := by omega)
    (hi : imm < 65536 := by omega) : D (encI major d a imm) = y := by
  apply h <;> unfold bits encI <;> omega

/-- A word of format M (R31). -/
theorem of_encM {α : Type} {D : Nat → α} {y : α} {major d a sz f13 ord imm : Nat}
    (h : ∀ w, bits w 26 6 = major → bits w 21 5 = d → bits w 16 5 = a → bits w 14 2 = sz → bits w 13 1 = f13 →
      bits w 11 2 = ord → bits w 0 11 = imm → D w = y)
    (hm : major < 64 := by omega) (hd : d < 32 := by omega) (ha : a < 32 := by omega) (hz : sz < 4 := by omega)
    (h13 : f13 < 2 := by omega) (ho : ord < 4 := by omega) (hi : imm < 2048 := by omega) :
    D (encM major d a sz f13 ord imm) = y := by
  apply h <;> unfold bits encM <;> omega

/-- A word of format H (R31). -/
theorem of_encH {α : Type} {D : Nat → α} {y : α} {d k i sz rx ord st imm : Nat}
    (h : ∀ w, bits w 26 6 = 0x1C → bits w 21 5 = d → bits w 18 3 = k → bits w 13 5 = i → bits w 11 2 = sz →
      bits w 10 1 = rx → bits w 8 2 = ord → bits w 7 1 = st → bits w 0 7 = imm → D w = y)
    (hd : d < 32 := by omega) (hk : k < 8 := by omega) (hi : i < 32 := by omega) (hz : sz < 4 := by omega)
    (hr : rx < 2 := by omega) (ho : ord < 4 := by omega) (hs : st < 2 := by omega) (hm : imm < 128 := by omega) :
    D (encH d k i sz rx ord st imm) = y := by
  apply h <;> unfold bits encH <;> omega

/-- A word of format MX (R31). -/
theorem of_encMX {α : Type} {D : Nat → α} {y : α} {major c a fa fb l fw hd z op : Nat}
    (h : ∀ w, bits w 26 6 = major → bits w 22 4 = c → bits w 17 5 = a → bits w 13 4 = fa → bits w 9 4 = fb →
      bits w 8 1 = l → bits w 7 1 = fw → bits w 6 1 = hd → bits w 5 1 = z → bits w 0 5 = op → D w = y)
    (hm : major < 64 := by omega) (hc : c < 16 := by omega) (ha : a < 32 := by omega) (hfa : fa < 16 := by omega)
    (hfb : fb < 16 := by omega) (hl : l < 2 := by omega) (hfw : fw < 2 := by omega) (hhd : hd < 2 := by omega)
    (hz : z < 2 := by omega) (ho : op < 32 := by omega) : D (encMX major c a fa fb l fw hd z op) = y := by
  apply h <;> unfold bits encMX <;> omega

/-- A word of format S (R31). -/
theorem of_encS {α : Type} {D : Nat → α} {y : α} {major d a csr op : Nat}
    (h : ∀ w, bits w 26 6 = major → bits w 21 5 = d → bits w 16 5 = a → bits w 4 12 = csr → bits w 0 4 = op → D w = y)
    (hm : major < 64 := by omega) (hd : d < 32 := by omega) (ha : a < 32 := by omega) (hc : csr < 4096 := by omega)
    (ho : op < 16 := by omega) : D (encS major d a csr op) = y := by
  apply h <;> unfold bits encS <;> omega

/-- A switch word (R52). -/
theorem of_encSw {α : Type} {D : Nat → α} {y : α} {op flags count aux route : Nat}
    (h : ∀ w, bits w 59 5 = op → bits w 56 3 = flags → bits w 44 12 = count → bits w 32 12 = aux →
      bits w 0 32 = route → D w = y)
    (ho : op < 32 := by omega) (hf : flags < 8 := by omega) (hc : count < 4096 := by omega)
    (ha : aux < 4096 := by omega) (hr : route < 2 ^ 32 := by omega) : D (encSw op flags count aux route) = y := by
  apply h <;> unfold bits encSw <;> omega

theorem Route.code_lt (r : Route) : r.code < 2 ^ 32 := by
  have := r.n.code_lt; have := r.e.code_lt; have := r.s.code_lt; have := r.w.code_lt
  have := r.c0.code_lt; have := r.c1.code_lt; have := r.c2.code_lt; have := r.l.code_lt
  unfold Route.code; omega

/-- One source of a route field. -/
theorem route_nibble {x0 x1 x2 x3 x4 x5 x6 x7 : Nat} (h0 : x0 < 11) (h1 : x1 < 11) (h2 : x2 < 11) (h3 : x3 < 11)
    (h4 : x4 < 11) (h5 : x5 < 11) (h6 : x6 < 11) (h7 : x7 < 11) {v : Nat}
    (h : v = x0 + x1 * 2 ^ 4 + x2 * 2 ^ 8 + x3 * 2 ^ 12 + x4 * 2 ^ 16 + x5 * 2 ^ 20 + x6 * 2 ^ 24 + x7 * 2 ^ 28) :
    v / 2 ^ 0 % 2 ^ 4 = x0 ∧ v / 2 ^ 4 % 2 ^ 4 = x1 ∧ v / 2 ^ 8 % 2 ^ 4 = x2 ∧ v / 2 ^ 12 % 2 ^ 4 = x3 ∧
      v / 2 ^ 16 % 2 ^ 4 = x4 ∧ v / 2 ^ 20 % 2 ^ 4 = x5 ∧ v / 2 ^ 24 % 2 ^ 4 = x6 ∧ v / 2 ^ 28 % 2 ^ 4 = x7 := by
  refine ⟨?_, ?_, ?_, ?_, ?_, ?_, ?_, ?_⟩ <;> omega

/-- The route field reads back (R52, R53). -/
theorem routeAt_of {w : Nat} {r : Route} (h : bits w 0 32 = r.code) : routeAt w = some r := by
  obtain ⟨e0, e1, e2, e3, e4, e5, e6, e7⟩ := route_nibble r.n.code_lt r.e.code_lt r.s.code_lt r.w.code_lt
    r.c0.code_lt r.c1.code_lt r.c2.code_lt r.l.code_lt h
  have f (j : Nat) (hj : j + 4 ≤ 32) : bits w j 4 = bits w 0 32 / 2 ^ j % 2 ^ 4 := by
    simpa using bits_inside (w := w) (lo := 0) (n := 32) rfl hj
  rw [← f _ (by decide)] at e0 e1 e2 e3 e4 e5 e6 e7
  simp only [routeAt, e0, e1, e2, e3, e4, e5, e6, e7, Src.ofCode_code]
  rfl

end Sys2Proof
end

