-- ==== Sys2Proof/Laws/Memory.lean ====
section
/-! SUPPORT. Laws of sparse tables and byte memories: read after write, and that every memory operation keeps the
canonical form. -/
namespace Sys2Proof.Machine

/-! ### Tables -/

@[simp] theorem tabGet_tabSet_same {α : Type} (d x : α) (k : Nat) (t : Tab α) : tabGet d k (tabSet k x t) = x := by
  induction t with
  | nil => simp [tabSet, tabGet]
  | cons p r ih =>
    obtain ⟨j, y⟩ := p
    simp only [tabSet]
    split
    · simp [tabGet]
    · split
      · simp [tabGet]
      · rename_i h
        simp [tabGet, Ne.symm h, ih]

theorem tabGet_tabSet_other {α : Type} (d x : α) {j k : Nat} (h : j ≠ k) (t : Tab α) :
    tabGet d j (tabSet k x t) = tabGet d j t := by
  induction t with
  | nil => simp [tabSet, tabGet, Ne.symm h]
  | cons p r ih =>
    obtain ⟨i, y⟩ := p
    simp only [tabSet]
    split
    · simp [tabGet, Ne.symm h]
    · split
      · rename_i e; subst e; simp [tabGet, Ne.symm h]
      · simp [tabGet, ih]

/-! ### Reading and writing bytes -/

theorem tabGet_filter_other {α : Type} (d : α) {j k : Nat} (h : j ≠ k) (t : Tab α) :
    tabGet d j (t.filter fun c => c.1 != k) = tabGet d j t := by
  induction t with
  | nil => rfl
  | cons p r ih =>
    obtain ⟨i, y⟩ := p
    by_cases e : i = k
    · subst e; simp [tabGet, Ne.symm h, ih]
    · simp [e, tabGet, ih]

theorem tabGet_filter_same {α : Type} (d : α) (k : Nat) (t : Tab α) :
    tabGet d k (t.filter fun c => c.1 != k) = d := by
  induction t with
  | nil => rfl
  | cons p r ih =>
    obtain ⟨i, y⟩ := p
    by_cases e : i = k
    · subst e; simp [ih]
    · simp [e, tabGet, ih]

@[simp] theorem memGet_memSet_same (m : Mem) (a : Nat) (b : Byte) : memGet (memSet m a b) a = b := by
  unfold memGet memSet
  split
  · rename_i h; rw [tabGet_filter_same, h]
  · exact tabGet_tabSet_same 0 b a m

theorem memGet_memSet_other (m : Mem) {j a : Nat} (h : j ≠ a) (b : Byte) : memGet (memSet m a b) j = memGet m j := by
  unfold memGet memSet
  split
  · exact tabGet_filter_other 0 h m
  · exact tabGet_tabSet_other 0 b h m

/-- A write leaves every byte outside it alone. -/
theorem memGet_memWrite_out (m : Mem) (a : Nat) (bs : List Byte) {j : Nat} (h : j < a ∨ a + bs.length ≤ j) :
    memGet (memWrite m a bs) j = memGet m j := by
  induction bs generalizing m a with
  | nil => rfl
  | cons b bs ih =>
    simp only [memWrite, List.length_cons] at *
    rw [ih _ _ (by omega), memGet_memSet_other _ (by omega)]

/-- A byte inside a write reads as written. -/
theorem memGet_memWrite_in (m : Mem) (a : Nat) (bs : List Byte) {k : Nat} (h : k < bs.length) :
    memGet (memWrite m a bs) (a + k) = bs[k] := by
  induction bs generalizing m a k with
  | nil => simp at h
  | cons b bs ih =>
    cases k with
    | zero =>
      simp only [memWrite, Nat.add_zero, List.getElem_cons_zero]
      rw [memGet_memWrite_out _ _ _ (by omega), memGet_memSet_same]
    | succ k =>
      simp only [memWrite, List.getElem_cons_succ]
      have := ih (memSet m a b) (a + 1) (k := k) (by simpa using h)
      rwa [show a + 1 + k = a + (k + 1) by omega] at this

/-- Reading back what was written (R4). -/
theorem memBytes_memWrite (m : Mem) (a : Nat) (bs : List Byte) : memBytes (memWrite m a bs) a bs.length = bs := by
  induction bs generalizing m a with
  | nil => rfl
  | cons b bs ih =>
    simp only [memWrite, List.length_cons, memBytes, ih, List.cons.injEq, and_true]
    rw [memGet_memWrite_out _ _ _ (by omega), memGet_memSet_same]

theorem leBytes_length (n v : Nat) : (leBytes n v).length = n := by
  induction n generalizing v with
  | zero => rfl
  | succ n ih => simp [leBytes, ih]

theorem leVal_leBytes (n v : Nat) : leVal (leBytes n v) = v % 256 ^ n := by
  induction n generalizing v with
  | zero => simp [leBytes, leVal, Nat.mod_one]
  | succ n ih =>
    simp only [leBytes, leVal, ih, BitVec.toNat_ofNat]
    rw [show (256 : Nat) ^ (n + 1) = 256 * 256 ^ n by rw [Nat.pow_succ, Nat.mul_comm], Nat.mod_mul]

/-- A value written little-endian reads back modulo its width (R4). -/
theorem memRead_memWrite (m : Mem) (a n v : Nat) : memRead (memWrite m a (leBytes n v)) a n = v % 256 ^ n := by
  have := memBytes_memWrite m a (leBytes n v)
  rw [leBytes_length] at this
  rw [memRead, this, leVal_leBytes]

theorem memGet_memZero (m : Mem) (a n j : Nat) :
    memGet (memZero m a n) j = if a ≤ j ∧ j < a + n then 0 else memGet m j := by
  unfold memGet memZero
  induction m with
  | nil => simp [tabGet]
  | cons p r ih =>
    obtain ⟨i, y⟩ := p
    by_cases e : a ≤ i ∧ i < a + n
    · have hd : (!(decide (a ≤ i) && decide (i < a + n))) = false := by simp [e.1, e.2]
      rw [List.filter_cons]
      simp only [hd, Bool.false_eq_true, if_false, ih]
      by_cases q : i = j
      · subst q; simp [e]
      · simp [tabGet, q]
    · have hd : (!(decide (a ≤ i) && decide (i < a + n))) = true := by
        simp only [Bool.not_eq_true', Bool.and_eq_false_iff, decide_eq_false_iff_not]
        omega
      rw [List.filter_cons]
      simp only [hd, if_true, tabGet]
      by_cases q : i = j
      · subst q; simp [e]
      · rw [if_neg q, if_neg q]; exact ih

/-! ### The canonical form -/

/-- Canonical: strictly rising addresses, no zero byte. -/
theorem Mem.wf_iff (m : Mem) :
    Mem.wf m = true ↔ m.Pairwise (fun c d => c.1 < d.1) ∧ ∀ c ∈ m, c.2 ≠ 0 := by
  induction m with
  | nil => simp [Mem.wf]
  | cons c r ih =>
    cases r with
    | nil => simp [Mem.wf]
    | cons d r =>
      simp only [Mem.wf, Bool.and_eq_true, bne_iff_ne, ne_eq, decide_eq_true_eq, ih]
      constructor
      · rintro ⟨⟨hc, hlt⟩, hp, hz⟩
        refine ⟨List.Pairwise.cons (fun e he => ?_) hp, fun e he => ?_⟩
        · rcases List.mem_cons.mp he with rfl | he
          · exact hlt
          · exact Nat.lt_trans hlt ((List.pairwise_cons.mp hp).1 e he)
        · rcases List.mem_cons.mp he with rfl | he
          · exact hc
          · exact hz e he
      · rintro ⟨hp, hz⟩
        have hp' := List.pairwise_cons.mp hp
        exact ⟨⟨hz c (by simp), hp'.1 d (by simp)⟩, hp'.2, fun e he => hz e (List.mem_cons_of_mem _ he)⟩

theorem Mem.wf_filter (m : Mem) (p : Host.Cell → Bool) (h : Mem.wf m = true) : Mem.wf (m.filter p) = true := by
  rw [Mem.wf_iff] at *
  exact ⟨h.1.filter p, fun c hc => h.2 c (List.mem_filter.mp hc).1⟩

theorem tabSet_mem {α : Type} {k : Nat} {x : α} {t : Tab α} {c : Nat × α} (h : c ∈ tabSet k x t) :
    c = (k, x) ∨ c ∈ t := by
  induction t with
  | nil => simpa [tabSet] using h
  | cons p r ih =>
    obtain ⟨j, y⟩ := p
    simp only [tabSet] at h
    split at h
    · rcases List.mem_cons.mp h with h | h
      · exact .inl h
      · exact .inr h
    · split at h
      · rcases List.mem_cons.mp h with h | h
        · exact .inl h
        · exact .inr (List.mem_cons_of_mem _ h)
      · rcases List.mem_cons.mp h with h | h
        · exact .inr (by rw [h]; exact List.mem_cons_self)
        · rcases ih h with h | h
          · exact .inl h
          · exact .inr (List.mem_cons_of_mem _ h)

theorem tabSet_rising {α : Type} (k : Nat) (x : α) (t : Tab α) (h : t.Pairwise (fun c d => c.1 < d.1)) :
    (tabSet k x t).Pairwise (fun c d => c.1 < d.1) := by
  induction t with
  | nil => exact List.pairwise_singleton _ _
  | cons p r ih =>
    obtain ⟨j, y⟩ := p
    have hp := List.pairwise_cons.mp h
    simp only [tabSet]
    split
    · rename_i hk
      refine List.Pairwise.cons (fun e he => ?_) h
      rcases List.mem_cons.mp he with rfl | he
      · exact hk
      · exact Nat.lt_trans hk (hp.1 e he)
    · split
      · rename_i e; subst e
        exact List.Pairwise.cons hp.1 hp.2
      · refine List.Pairwise.cons (fun e he => ?_) (ih hp.2)
        rcases tabSet_mem he with rfl | he
        · show j < k
          omega
        · exact hp.1 e he

theorem memSet_wf {m : Mem} (a : Nat) (b : Byte) (h : Mem.wf m = true) : Mem.wf (memSet m a b) = true := by
  unfold memSet
  split
  · exact Mem.wf_filter m _ h
  · rename_i hb
    rw [Mem.wf_iff] at *
    refine ⟨tabSet_rising a b m h.1, fun c hc => ?_⟩
    rcases tabSet_mem hc with rfl | hc
    · exact hb
    · exact h.2 c hc

theorem memWrite_wf {m : Mem} (a : Nat) (bs : List Byte) (h : Mem.wf m = true) : Mem.wf (memWrite m a bs) = true := by
  induction bs generalizing m a with
  | nil => exact h
  | cons b bs ih => exact ih _ (memSet_wf a b h)

theorem memZero_wf {m : Mem} (a n : Nat) (h : Mem.wf m = true) : Mem.wf (memZero m a n) = true :=
  Mem.wf_filter m _ h

end Sys2Proof.Machine
end

