-- ==== Sys2Proof/Laws/State.lean ====
section
/-! SUPPORT. What each named update of the state leaves alone, field by field, and what the accessors read after it. -/
namespace Sys2Proof.Machine

/-! ### setTile -/

@[simp] theorem State.setTile_hart (s : State) (t : TileNo) (x : Tile) : (s.setTile t x).hart = s.hart := rfl
@[simp] theorem State.setTile_swTile (s : State) (t : TileNo) (x : Tile) : (s.setTile t x).swTile = s.swTile := rfl
@[simp] theorem State.setTile_inputs (s : State) (t : TileNo) (x : Tile) : (s.setTile t x).inputs = s.inputs := rfl
@[simp] theorem State.setTile_deferred (s : State) (t : TileNo) (x : Tile) : (s.setTile t x).deferred = s.deferred := rfl
@[simp] theorem State.setTile_todo (s : State) (t : TileNo) (x : Tile) : (s.setTile t x).todo = s.todo := rfl
@[simp] theorem State.setTile_now (s : State) (t : TileNo) (x : Tile) : (s.setTile t x).now = s.now := rfl
@[simp] theorem State.setTile_fresh (s : State) (t : TileNo) (x : Tile) : (s.setTile t x).fresh = s.fresh := rfl
@[simp] theorem State.setTile_emitted (s : State) (t : TileNo) (x : Tile) : (s.setTile t x).emitted = s.emitted := rfl
@[simp] theorem State.setTile_mem (s : State) (t : TileNo) (x : Tile) : (s.setTile t x).mem = s.mem := rfl
@[simp] theorem State.setTile_hostMem (s : State) (t : TileNo) (x : Tile) : (s.setTile t x).hostMem = s.hostMem := rfl
@[simp] theorem State.setTile_lineEpoch (s : State) (t : TileNo) (x : Tile) : (s.setTile t x).lineEpoch = s.lineEpoch := rfl
@[simp] theorem State.setTile_keyEpoch (s : State) (t : TileNo) (x : Tile) : (s.setTile t x).keyEpoch = s.keyEpoch := rfl
@[simp] theorem State.setTile_failedLines (s : State) (t : TileNo) (x : Tile) : (s.setTile t x).failedLines = s.failedLines := rfl
@[simp] theorem State.setTile_revoking (s : State) (t : TileNo) (x : Tile) : (s.setTile t x).revoking = s.revoking := rfl
@[simp] theorem State.setTile_moves (s : State) (t : TileNo) (x : Tile) : (s.setTile t x).moves = s.moves := rfl
@[simp] theorem State.setTile_keyMap (s : State) (t : TileNo) (x : Tile) : (s.setTile t x).keyMap = s.keyMap := rfl
@[simp] theorem State.setTile_dies (s : State) (t : TileNo) (x : Tile) : (s.setTile t x).dies = s.dies := rfl
@[simp] theorem State.setTile_caches (s : State) (t : TileNo) (x : Tile) : (s.setTile t x).caches = s.caches := rfl
@[simp] theorem State.setTile_ports (s : State) (t : TileNo) (x : Tile) : (s.setTile t x).ports = s.ports := rfl
@[simp] theorem State.setTile_hub (s : State) (t : TileNo) (x : Tile) : (s.setTile t x).hub = s.hub := rfl
@[simp] theorem State.setTile_power (s : State) (t : TileNo) (x : Tile) : (s.setTile t x).power = s.power := rfl
@[simp] theorem State.setTile_rot (s : State) (t : TileNo) (x : Tile) : (s.setTile t x).rot = s.rot := rfl

/-! ### modTile -/

@[simp] theorem State.modTile_hart (s : State) (t : TileNo) (f : Tile → Tile) : (s.modTile t f).hart = s.hart := rfl
@[simp] theorem State.modTile_swTile (s : State) (t : TileNo) (f : Tile → Tile) : (s.modTile t f).swTile = s.swTile := rfl
@[simp] theorem State.modTile_inputs (s : State) (t : TileNo) (f : Tile → Tile) : (s.modTile t f).inputs = s.inputs := rfl
@[simp] theorem State.modTile_deferred (s : State) (t : TileNo) (f : Tile → Tile) : (s.modTile t f).deferred = s.deferred := rfl
@[simp] theorem State.modTile_todo (s : State) (t : TileNo) (f : Tile → Tile) : (s.modTile t f).todo = s.todo := rfl
@[simp] theorem State.modTile_now (s : State) (t : TileNo) (f : Tile → Tile) : (s.modTile t f).now = s.now := rfl
@[simp] theorem State.modTile_fresh (s : State) (t : TileNo) (f : Tile → Tile) : (s.modTile t f).fresh = s.fresh := rfl
@[simp] theorem State.modTile_emitted (s : State) (t : TileNo) (f : Tile → Tile) : (s.modTile t f).emitted = s.emitted := rfl
@[simp] theorem State.modTile_mem (s : State) (t : TileNo) (f : Tile → Tile) : (s.modTile t f).mem = s.mem := rfl
@[simp] theorem State.modTile_hostMem (s : State) (t : TileNo) (f : Tile → Tile) : (s.modTile t f).hostMem = s.hostMem := rfl
@[simp] theorem State.modTile_lineEpoch (s : State) (t : TileNo) (f : Tile → Tile) : (s.modTile t f).lineEpoch = s.lineEpoch := rfl
@[simp] theorem State.modTile_keyEpoch (s : State) (t : TileNo) (f : Tile → Tile) : (s.modTile t f).keyEpoch = s.keyEpoch := rfl
@[simp] theorem State.modTile_failedLines (s : State) (t : TileNo) (f : Tile → Tile) : (s.modTile t f).failedLines = s.failedLines := rfl
@[simp] theorem State.modTile_revoking (s : State) (t : TileNo) (f : Tile → Tile) : (s.modTile t f).revoking = s.revoking := rfl
@[simp] theorem State.modTile_moves (s : State) (t : TileNo) (f : Tile → Tile) : (s.modTile t f).moves = s.moves := rfl
@[simp] theorem State.modTile_keyMap (s : State) (t : TileNo) (f : Tile → Tile) : (s.modTile t f).keyMap = s.keyMap := rfl
@[simp] theorem State.modTile_dies (s : State) (t : TileNo) (f : Tile → Tile) : (s.modTile t f).dies = s.dies := rfl
@[simp] theorem State.modTile_caches (s : State) (t : TileNo) (f : Tile → Tile) : (s.modTile t f).caches = s.caches := rfl
@[simp] theorem State.modTile_ports (s : State) (t : TileNo) (f : Tile → Tile) : (s.modTile t f).ports = s.ports := rfl
@[simp] theorem State.modTile_hub (s : State) (t : TileNo) (f : Tile → Tile) : (s.modTile t f).hub = s.hub := rfl
@[simp] theorem State.modTile_power (s : State) (t : TileNo) (f : Tile → Tile) : (s.modTile t f).power = s.power := rfl
@[simp] theorem State.modTile_rot (s : State) (t : TileNo) (f : Tile → Tile) : (s.modTile t f).rot = s.rot := rfl

/-! ### setDie -/

@[simp] theorem State.setDie_hart (s : State) (d : DieNo) (x : Die) : (s.setDie d x).hart = s.hart := rfl
@[simp] theorem State.setDie_swTile (s : State) (d : DieNo) (x : Die) : (s.setDie d x).swTile = s.swTile := rfl
@[simp] theorem State.setDie_inputs (s : State) (d : DieNo) (x : Die) : (s.setDie d x).inputs = s.inputs := rfl
@[simp] theorem State.setDie_deferred (s : State) (d : DieNo) (x : Die) : (s.setDie d x).deferred = s.deferred := rfl
@[simp] theorem State.setDie_todo (s : State) (d : DieNo) (x : Die) : (s.setDie d x).todo = s.todo := rfl
@[simp] theorem State.setDie_now (s : State) (d : DieNo) (x : Die) : (s.setDie d x).now = s.now := rfl
@[simp] theorem State.setDie_fresh (s : State) (d : DieNo) (x : Die) : (s.setDie d x).fresh = s.fresh := rfl
@[simp] theorem State.setDie_emitted (s : State) (d : DieNo) (x : Die) : (s.setDie d x).emitted = s.emitted := rfl
@[simp] theorem State.setDie_mem (s : State) (d : DieNo) (x : Die) : (s.setDie d x).mem = s.mem := rfl
@[simp] theorem State.setDie_hostMem (s : State) (d : DieNo) (x : Die) : (s.setDie d x).hostMem = s.hostMem := rfl
@[simp] theorem State.setDie_lineEpoch (s : State) (d : DieNo) (x : Die) : (s.setDie d x).lineEpoch = s.lineEpoch := rfl
@[simp] theorem State.setDie_keyEpoch (s : State) (d : DieNo) (x : Die) : (s.setDie d x).keyEpoch = s.keyEpoch := rfl
@[simp] theorem State.setDie_failedLines (s : State) (d : DieNo) (x : Die) : (s.setDie d x).failedLines = s.failedLines := rfl
@[simp] theorem State.setDie_revoking (s : State) (d : DieNo) (x : Die) : (s.setDie d x).revoking = s.revoking := rfl
@[simp] theorem State.setDie_moves (s : State) (d : DieNo) (x : Die) : (s.setDie d x).moves = s.moves := rfl
@[simp] theorem State.setDie_keyMap (s : State) (d : DieNo) (x : Die) : (s.setDie d x).keyMap = s.keyMap := rfl
@[simp] theorem State.setDie_tiles (s : State) (d : DieNo) (x : Die) : (s.setDie d x).tiles = s.tiles := rfl
@[simp] theorem State.setDie_caches (s : State) (d : DieNo) (x : Die) : (s.setDie d x).caches = s.caches := rfl
@[simp] theorem State.setDie_ports (s : State) (d : DieNo) (x : Die) : (s.setDie d x).ports = s.ports := rfl
@[simp] theorem State.setDie_hub (s : State) (d : DieNo) (x : Die) : (s.setDie d x).hub = s.hub := rfl
@[simp] theorem State.setDie_power (s : State) (d : DieNo) (x : Die) : (s.setDie d x).power = s.power := rfl
@[simp] theorem State.setDie_rot (s : State) (d : DieNo) (x : Die) : (s.setDie d x).rot = s.rot := rfl

/-! ### modDie -/

@[simp] theorem State.modDie_hart (s : State) (d : DieNo) (f : Die → Die) : (s.modDie d f).hart = s.hart := rfl
@[simp] theorem State.modDie_swTile (s : State) (d : DieNo) (f : Die → Die) : (s.modDie d f).swTile = s.swTile := rfl
@[simp] theorem State.modDie_inputs (s : State) (d : DieNo) (f : Die → Die) : (s.modDie d f).inputs = s.inputs := rfl
@[simp] theorem State.modDie_deferred (s : State) (d : DieNo) (f : Die → Die) : (s.modDie d f).deferred = s.deferred := rfl
@[simp] theorem State.modDie_todo (s : State) (d : DieNo) (f : Die → Die) : (s.modDie d f).todo = s.todo := rfl
@[simp] theorem State.modDie_now (s : State) (d : DieNo) (f : Die → Die) : (s.modDie d f).now = s.now := rfl
@[simp] theorem State.modDie_fresh (s : State) (d : DieNo) (f : Die → Die) : (s.modDie d f).fresh = s.fresh := rfl
@[simp] theorem State.modDie_emitted (s : State) (d : DieNo) (f : Die → Die) : (s.modDie d f).emitted = s.emitted := rfl
@[simp] theorem State.modDie_mem (s : State) (d : DieNo) (f : Die → Die) : (s.modDie d f).mem = s.mem := rfl
@[simp] theorem State.modDie_hostMem (s : State) (d : DieNo) (f : Die → Die) : (s.modDie d f).hostMem = s.hostMem := rfl
@[simp] theorem State.modDie_lineEpoch (s : State) (d : DieNo) (f : Die → Die) : (s.modDie d f).lineEpoch = s.lineEpoch := rfl
@[simp] theorem State.modDie_keyEpoch (s : State) (d : DieNo) (f : Die → Die) : (s.modDie d f).keyEpoch = s.keyEpoch := rfl
@[simp] theorem State.modDie_failedLines (s : State) (d : DieNo) (f : Die → Die) : (s.modDie d f).failedLines = s.failedLines := rfl
@[simp] theorem State.modDie_revoking (s : State) (d : DieNo) (f : Die → Die) : (s.modDie d f).revoking = s.revoking := rfl
@[simp] theorem State.modDie_moves (s : State) (d : DieNo) (f : Die → Die) : (s.modDie d f).moves = s.moves := rfl
@[simp] theorem State.modDie_keyMap (s : State) (d : DieNo) (f : Die → Die) : (s.modDie d f).keyMap = s.keyMap := rfl
@[simp] theorem State.modDie_tiles (s : State) (d : DieNo) (f : Die → Die) : (s.modDie d f).tiles = s.tiles := rfl
@[simp] theorem State.modDie_caches (s : State) (d : DieNo) (f : Die → Die) : (s.modDie d f).caches = s.caches := rfl
@[simp] theorem State.modDie_ports (s : State) (d : DieNo) (f : Die → Die) : (s.modDie d f).ports = s.ports := rfl
@[simp] theorem State.modDie_hub (s : State) (d : DieNo) (f : Die → Die) : (s.modDie d f).hub = s.hub := rfl
@[simp] theorem State.modDie_power (s : State) (d : DieNo) (f : Die → Die) : (s.modDie d f).power = s.power := rfl
@[simp] theorem State.modDie_rot (s : State) (d : DieNo) (f : Die → Die) : (s.modDie d f).rot = s.rot := rfl

/-! ### setCache -/

@[simp] theorem State.setCache_hart (s : State) (c : DieNo) (x : CacheDie) : (s.setCache c x).hart = s.hart := rfl
@[simp] theorem State.setCache_swTile (s : State) (c : DieNo) (x : CacheDie) : (s.setCache c x).swTile = s.swTile := rfl
@[simp] theorem State.setCache_inputs (s : State) (c : DieNo) (x : CacheDie) : (s.setCache c x).inputs = s.inputs := rfl
@[simp] theorem State.setCache_deferred (s : State) (c : DieNo) (x : CacheDie) : (s.setCache c x).deferred = s.deferred := rfl
@[simp] theorem State.setCache_todo (s : State) (c : DieNo) (x : CacheDie) : (s.setCache c x).todo = s.todo := rfl
@[simp] theorem State.setCache_now (s : State) (c : DieNo) (x : CacheDie) : (s.setCache c x).now = s.now := rfl
@[simp] theorem State.setCache_fresh (s : State) (c : DieNo) (x : CacheDie) : (s.setCache c x).fresh = s.fresh := rfl
@[simp] theorem State.setCache_emitted (s : State) (c : DieNo) (x : CacheDie) : (s.setCache c x).emitted = s.emitted := rfl
@[simp] theorem State.setCache_mem (s : State) (c : DieNo) (x : CacheDie) : (s.setCache c x).mem = s.mem := rfl
@[simp] theorem State.setCache_hostMem (s : State) (c : DieNo) (x : CacheDie) : (s.setCache c x).hostMem = s.hostMem := rfl
@[simp] theorem State.setCache_lineEpoch (s : State) (c : DieNo) (x : CacheDie) : (s.setCache c x).lineEpoch = s.lineEpoch := rfl
@[simp] theorem State.setCache_keyEpoch (s : State) (c : DieNo) (x : CacheDie) : (s.setCache c x).keyEpoch = s.keyEpoch := rfl
@[simp] theorem State.setCache_failedLines (s : State) (c : DieNo) (x : CacheDie) : (s.setCache c x).failedLines = s.failedLines := rfl
@[simp] theorem State.setCache_revoking (s : State) (c : DieNo) (x : CacheDie) : (s.setCache c x).revoking = s.revoking := rfl
@[simp] theorem State.setCache_moves (s : State) (c : DieNo) (x : CacheDie) : (s.setCache c x).moves = s.moves := rfl
@[simp] theorem State.setCache_keyMap (s : State) (c : DieNo) (x : CacheDie) : (s.setCache c x).keyMap = s.keyMap := rfl
@[simp] theorem State.setCache_tiles (s : State) (c : DieNo) (x : CacheDie) : (s.setCache c x).tiles = s.tiles := rfl
@[simp] theorem State.setCache_dies (s : State) (c : DieNo) (x : CacheDie) : (s.setCache c x).dies = s.dies := rfl
@[simp] theorem State.setCache_ports (s : State) (c : DieNo) (x : CacheDie) : (s.setCache c x).ports = s.ports := rfl
@[simp] theorem State.setCache_hub (s : State) (c : DieNo) (x : CacheDie) : (s.setCache c x).hub = s.hub := rfl
@[simp] theorem State.setCache_power (s : State) (c : DieNo) (x : CacheDie) : (s.setCache c x).power = s.power := rfl
@[simp] theorem State.setCache_rot (s : State) (c : DieNo) (x : CacheDie) : (s.setCache c x).rot = s.rot := rfl

/-! ### modCache -/

@[simp] theorem State.modCache_hart (s : State) (c : DieNo) (f : CacheDie → CacheDie) : (s.modCache c f).hart = s.hart := rfl
@[simp] theorem State.modCache_swTile (s : State) (c : DieNo) (f : CacheDie → CacheDie) : (s.modCache c f).swTile = s.swTile := rfl
@[simp] theorem State.modCache_inputs (s : State) (c : DieNo) (f : CacheDie → CacheDie) : (s.modCache c f).inputs = s.inputs := rfl
@[simp] theorem State.modCache_deferred (s : State) (c : DieNo) (f : CacheDie → CacheDie) : (s.modCache c f).deferred = s.deferred := rfl
@[simp] theorem State.modCache_todo (s : State) (c : DieNo) (f : CacheDie → CacheDie) : (s.modCache c f).todo = s.todo := rfl
@[simp] theorem State.modCache_now (s : State) (c : DieNo) (f : CacheDie → CacheDie) : (s.modCache c f).now = s.now := rfl
@[simp] theorem State.modCache_fresh (s : State) (c : DieNo) (f : CacheDie → CacheDie) : (s.modCache c f).fresh = s.fresh := rfl
@[simp] theorem State.modCache_emitted (s : State) (c : DieNo) (f : CacheDie → CacheDie) : (s.modCache c f).emitted = s.emitted := rfl
@[simp] theorem State.modCache_mem (s : State) (c : DieNo) (f : CacheDie → CacheDie) : (s.modCache c f).mem = s.mem := rfl
@[simp] theorem State.modCache_hostMem (s : State) (c : DieNo) (f : CacheDie → CacheDie) : (s.modCache c f).hostMem = s.hostMem := rfl
@[simp] theorem State.modCache_lineEpoch (s : State) (c : DieNo) (f : CacheDie → CacheDie) : (s.modCache c f).lineEpoch = s.lineEpoch := rfl
@[simp] theorem State.modCache_keyEpoch (s : State) (c : DieNo) (f : CacheDie → CacheDie) : (s.modCache c f).keyEpoch = s.keyEpoch := rfl
@[simp] theorem State.modCache_failedLines (s : State) (c : DieNo) (f : CacheDie → CacheDie) : (s.modCache c f).failedLines = s.failedLines := rfl
@[simp] theorem State.modCache_revoking (s : State) (c : DieNo) (f : CacheDie → CacheDie) : (s.modCache c f).revoking = s.revoking := rfl
@[simp] theorem State.modCache_moves (s : State) (c : DieNo) (f : CacheDie → CacheDie) : (s.modCache c f).moves = s.moves := rfl
@[simp] theorem State.modCache_keyMap (s : State) (c : DieNo) (f : CacheDie → CacheDie) : (s.modCache c f).keyMap = s.keyMap := rfl
@[simp] theorem State.modCache_tiles (s : State) (c : DieNo) (f : CacheDie → CacheDie) : (s.modCache c f).tiles = s.tiles := rfl
@[simp] theorem State.modCache_dies (s : State) (c : DieNo) (f : CacheDie → CacheDie) : (s.modCache c f).dies = s.dies := rfl
@[simp] theorem State.modCache_ports (s : State) (c : DieNo) (f : CacheDie → CacheDie) : (s.modCache c f).ports = s.ports := rfl
@[simp] theorem State.modCache_hub (s : State) (c : DieNo) (f : CacheDie → CacheDie) : (s.modCache c f).hub = s.hub := rfl
@[simp] theorem State.modCache_power (s : State) (c : DieNo) (f : CacheDie → CacheDie) : (s.modCache c f).power = s.power := rfl
@[simp] theorem State.modCache_rot (s : State) (c : DieNo) (f : CacheDie → CacheDie) : (s.modCache c f).rot = s.rot := rfl

/-! ### modPort -/

@[simp] theorem State.modPort_hart (s : State) (p : Nat) (f : Port → Port) : (s.modPort p f).hart = s.hart := rfl
@[simp] theorem State.modPort_swTile (s : State) (p : Nat) (f : Port → Port) : (s.modPort p f).swTile = s.swTile := rfl
@[simp] theorem State.modPort_inputs (s : State) (p : Nat) (f : Port → Port) : (s.modPort p f).inputs = s.inputs := rfl
@[simp] theorem State.modPort_deferred (s : State) (p : Nat) (f : Port → Port) : (s.modPort p f).deferred = s.deferred := rfl
@[simp] theorem State.modPort_todo (s : State) (p : Nat) (f : Port → Port) : (s.modPort p f).todo = s.todo := rfl
@[simp] theorem State.modPort_now (s : State) (p : Nat) (f : Port → Port) : (s.modPort p f).now = s.now := rfl
@[simp] theorem State.modPort_fresh (s : State) (p : Nat) (f : Port → Port) : (s.modPort p f).fresh = s.fresh := rfl
@[simp] theorem State.modPort_emitted (s : State) (p : Nat) (f : Port → Port) : (s.modPort p f).emitted = s.emitted := rfl
@[simp] theorem State.modPort_mem (s : State) (p : Nat) (f : Port → Port) : (s.modPort p f).mem = s.mem := rfl
@[simp] theorem State.modPort_hostMem (s : State) (p : Nat) (f : Port → Port) : (s.modPort p f).hostMem = s.hostMem := rfl
@[simp] theorem State.modPort_lineEpoch (s : State) (p : Nat) (f : Port → Port) : (s.modPort p f).lineEpoch = s.lineEpoch := rfl
@[simp] theorem State.modPort_keyEpoch (s : State) (p : Nat) (f : Port → Port) : (s.modPort p f).keyEpoch = s.keyEpoch := rfl
@[simp] theorem State.modPort_failedLines (s : State) (p : Nat) (f : Port → Port) : (s.modPort p f).failedLines = s.failedLines := rfl
@[simp] theorem State.modPort_revoking (s : State) (p : Nat) (f : Port → Port) : (s.modPort p f).revoking = s.revoking := rfl
@[simp] theorem State.modPort_moves (s : State) (p : Nat) (f : Port → Port) : (s.modPort p f).moves = s.moves := rfl
@[simp] theorem State.modPort_keyMap (s : State) (p : Nat) (f : Port → Port) : (s.modPort p f).keyMap = s.keyMap := rfl
@[simp] theorem State.modPort_tiles (s : State) (p : Nat) (f : Port → Port) : (s.modPort p f).tiles = s.tiles := rfl
@[simp] theorem State.modPort_dies (s : State) (p : Nat) (f : Port → Port) : (s.modPort p f).dies = s.dies := rfl
@[simp] theorem State.modPort_caches (s : State) (p : Nat) (f : Port → Port) : (s.modPort p f).caches = s.caches := rfl
@[simp] theorem State.modPort_hub (s : State) (p : Nat) (f : Port → Port) : (s.modPort p f).hub = s.hub := rfl
@[simp] theorem State.modPort_power (s : State) (p : Nat) (f : Port → Port) : (s.modPort p f).power = s.power := rfl
@[simp] theorem State.modPort_rot (s : State) (p : Nat) (f : Port → Port) : (s.modPort p f).rot = s.rot := rfl

/-! ### modHub -/

@[simp] theorem State.modHub_hart (s : State) (f : Hub → Hub) : (s.modHub f).hart = s.hart := rfl
@[simp] theorem State.modHub_swTile (s : State) (f : Hub → Hub) : (s.modHub f).swTile = s.swTile := rfl
@[simp] theorem State.modHub_inputs (s : State) (f : Hub → Hub) : (s.modHub f).inputs = s.inputs := rfl
@[simp] theorem State.modHub_deferred (s : State) (f : Hub → Hub) : (s.modHub f).deferred = s.deferred := rfl
@[simp] theorem State.modHub_todo (s : State) (f : Hub → Hub) : (s.modHub f).todo = s.todo := rfl
@[simp] theorem State.modHub_now (s : State) (f : Hub → Hub) : (s.modHub f).now = s.now := rfl
@[simp] theorem State.modHub_fresh (s : State) (f : Hub → Hub) : (s.modHub f).fresh = s.fresh := rfl
@[simp] theorem State.modHub_emitted (s : State) (f : Hub → Hub) : (s.modHub f).emitted = s.emitted := rfl
@[simp] theorem State.modHub_mem (s : State) (f : Hub → Hub) : (s.modHub f).mem = s.mem := rfl
@[simp] theorem State.modHub_hostMem (s : State) (f : Hub → Hub) : (s.modHub f).hostMem = s.hostMem := rfl
@[simp] theorem State.modHub_lineEpoch (s : State) (f : Hub → Hub) : (s.modHub f).lineEpoch = s.lineEpoch := rfl
@[simp] theorem State.modHub_keyEpoch (s : State) (f : Hub → Hub) : (s.modHub f).keyEpoch = s.keyEpoch := rfl
@[simp] theorem State.modHub_failedLines (s : State) (f : Hub → Hub) : (s.modHub f).failedLines = s.failedLines := rfl
@[simp] theorem State.modHub_revoking (s : State) (f : Hub → Hub) : (s.modHub f).revoking = s.revoking := rfl
@[simp] theorem State.modHub_moves (s : State) (f : Hub → Hub) : (s.modHub f).moves = s.moves := rfl
@[simp] theorem State.modHub_keyMap (s : State) (f : Hub → Hub) : (s.modHub f).keyMap = s.keyMap := rfl
@[simp] theorem State.modHub_tiles (s : State) (f : Hub → Hub) : (s.modHub f).tiles = s.tiles := rfl
@[simp] theorem State.modHub_dies (s : State) (f : Hub → Hub) : (s.modHub f).dies = s.dies := rfl
@[simp] theorem State.modHub_caches (s : State) (f : Hub → Hub) : (s.modHub f).caches = s.caches := rfl
@[simp] theorem State.modHub_ports (s : State) (f : Hub → Hub) : (s.modHub f).ports = s.ports := rfl
@[simp] theorem State.modHub_power (s : State) (f : Hub → Hub) : (s.modHub f).power = s.power := rfl
@[simp] theorem State.modHub_rot (s : State) (f : Hub → Hub) : (s.modHub f).rot = s.rot := rfl

/-! ### modStrand -/

@[simp] theorem State.modStrand_hart (s : State) (t : TileNo) (k : Fin 8) (f : Strand → Strand) : (s.modStrand t k f).hart = s.hart := rfl
@[simp] theorem State.modStrand_swTile (s : State) (t : TileNo) (k : Fin 8) (f : Strand → Strand) : (s.modStrand t k f).swTile = s.swTile := rfl
@[simp] theorem State.modStrand_inputs (s : State) (t : TileNo) (k : Fin 8) (f : Strand → Strand) : (s.modStrand t k f).inputs = s.inputs := rfl
@[simp] theorem State.modStrand_deferred (s : State) (t : TileNo) (k : Fin 8) (f : Strand → Strand) : (s.modStrand t k f).deferred = s.deferred := rfl
@[simp] theorem State.modStrand_todo (s : State) (t : TileNo) (k : Fin 8) (f : Strand → Strand) : (s.modStrand t k f).todo = s.todo := rfl
@[simp] theorem State.modStrand_now (s : State) (t : TileNo) (k : Fin 8) (f : Strand → Strand) : (s.modStrand t k f).now = s.now := rfl
@[simp] theorem State.modStrand_fresh (s : State) (t : TileNo) (k : Fin 8) (f : Strand → Strand) : (s.modStrand t k f).fresh = s.fresh := rfl
@[simp] theorem State.modStrand_emitted (s : State) (t : TileNo) (k : Fin 8) (f : Strand → Strand) : (s.modStrand t k f).emitted = s.emitted := rfl
@[simp] theorem State.modStrand_mem (s : State) (t : TileNo) (k : Fin 8) (f : Strand → Strand) : (s.modStrand t k f).mem = s.mem := rfl
@[simp] theorem State.modStrand_hostMem (s : State) (t : TileNo) (k : Fin 8) (f : Strand → Strand) : (s.modStrand t k f).hostMem = s.hostMem := rfl
@[simp] theorem State.modStrand_lineEpoch (s : State) (t : TileNo) (k : Fin 8) (f : Strand → Strand) : (s.modStrand t k f).lineEpoch = s.lineEpoch := rfl
@[simp] theorem State.modStrand_keyEpoch (s : State) (t : TileNo) (k : Fin 8) (f : Strand → Strand) : (s.modStrand t k f).keyEpoch = s.keyEpoch := rfl
@[simp] theorem State.modStrand_failedLines (s : State) (t : TileNo) (k : Fin 8) (f : Strand → Strand) : (s.modStrand t k f).failedLines = s.failedLines := rfl
@[simp] theorem State.modStrand_revoking (s : State) (t : TileNo) (k : Fin 8) (f : Strand → Strand) : (s.modStrand t k f).revoking = s.revoking := rfl
@[simp] theorem State.modStrand_moves (s : State) (t : TileNo) (k : Fin 8) (f : Strand → Strand) : (s.modStrand t k f).moves = s.moves := rfl
@[simp] theorem State.modStrand_keyMap (s : State) (t : TileNo) (k : Fin 8) (f : Strand → Strand) : (s.modStrand t k f).keyMap = s.keyMap := rfl
@[simp] theorem State.modStrand_dies (s : State) (t : TileNo) (k : Fin 8) (f : Strand → Strand) : (s.modStrand t k f).dies = s.dies := rfl
@[simp] theorem State.modStrand_caches (s : State) (t : TileNo) (k : Fin 8) (f : Strand → Strand) : (s.modStrand t k f).caches = s.caches := rfl
@[simp] theorem State.modStrand_ports (s : State) (t : TileNo) (k : Fin 8) (f : Strand → Strand) : (s.modStrand t k f).ports = s.ports := rfl
@[simp] theorem State.modStrand_hub (s : State) (t : TileNo) (k : Fin 8) (f : Strand → Strand) : (s.modStrand t k f).hub = s.hub := rfl
@[simp] theorem State.modStrand_power (s : State) (t : TileNo) (k : Fin 8) (f : Strand → Strand) : (s.modStrand t k f).power = s.power := rfl
@[simp] theorem State.modStrand_rot (s : State) (t : TileNo) (k : Fin 8) (f : Strand → Strand) : (s.modStrand t k f).rot = s.rot := rfl

/-! ### draw -/

@[simp] theorem State.draw_hart (s : State) : (s.draw.2).hart = s.hart := rfl
@[simp] theorem State.draw_swTile (s : State) : (s.draw.2).swTile = s.swTile := rfl
@[simp] theorem State.draw_inputs (s : State) : (s.draw.2).inputs = s.inputs := rfl
@[simp] theorem State.draw_deferred (s : State) : (s.draw.2).deferred = s.deferred := rfl
@[simp] theorem State.draw_todo (s : State) : (s.draw.2).todo = s.todo := rfl
@[simp] theorem State.draw_now (s : State) : (s.draw.2).now = s.now := rfl
@[simp] theorem State.draw_emitted (s : State) : (s.draw.2).emitted = s.emitted := rfl
@[simp] theorem State.draw_mem (s : State) : (s.draw.2).mem = s.mem := rfl
@[simp] theorem State.draw_hostMem (s : State) : (s.draw.2).hostMem = s.hostMem := rfl
@[simp] theorem State.draw_lineEpoch (s : State) : (s.draw.2).lineEpoch = s.lineEpoch := rfl
@[simp] theorem State.draw_keyEpoch (s : State) : (s.draw.2).keyEpoch = s.keyEpoch := rfl
@[simp] theorem State.draw_failedLines (s : State) : (s.draw.2).failedLines = s.failedLines := rfl
@[simp] theorem State.draw_revoking (s : State) : (s.draw.2).revoking = s.revoking := rfl
@[simp] theorem State.draw_moves (s : State) : (s.draw.2).moves = s.moves := rfl
@[simp] theorem State.draw_keyMap (s : State) : (s.draw.2).keyMap = s.keyMap := rfl
@[simp] theorem State.draw_tiles (s : State) : (s.draw.2).tiles = s.tiles := rfl
@[simp] theorem State.draw_dies (s : State) : (s.draw.2).dies = s.dies := rfl
@[simp] theorem State.draw_caches (s : State) : (s.draw.2).caches = s.caches := rfl
@[simp] theorem State.draw_ports (s : State) : (s.draw.2).ports = s.ports := rfl
@[simp] theorem State.draw_hub (s : State) : (s.draw.2).hub = s.hub := rfl
@[simp] theorem State.draw_power (s : State) : (s.draw.2).power = s.power := rfl
@[simp] theorem State.draw_rot (s : State) : (s.draw.2).rot = s.rot := rfl

/-! ### push -/

@[simp] theorem State.push_hart (s : State) (i : Instr) : (s.push i).hart = s.hart := rfl
@[simp] theorem State.push_swTile (s : State) (i : Instr) : (s.push i).swTile = s.swTile := rfl
@[simp] theorem State.push_deferred (s : State) (i : Instr) : (s.push i).deferred = s.deferred := rfl
@[simp] theorem State.push_todo (s : State) (i : Instr) : (s.push i).todo = s.todo := rfl
@[simp] theorem State.push_now (s : State) (i : Instr) : (s.push i).now = s.now := rfl
@[simp] theorem State.push_fresh (s : State) (i : Instr) : (s.push i).fresh = s.fresh := rfl
@[simp] theorem State.push_emitted (s : State) (i : Instr) : (s.push i).emitted = s.emitted := rfl
@[simp] theorem State.push_mem (s : State) (i : Instr) : (s.push i).mem = s.mem := rfl
@[simp] theorem State.push_hostMem (s : State) (i : Instr) : (s.push i).hostMem = s.hostMem := rfl
@[simp] theorem State.push_lineEpoch (s : State) (i : Instr) : (s.push i).lineEpoch = s.lineEpoch := rfl
@[simp] theorem State.push_keyEpoch (s : State) (i : Instr) : (s.push i).keyEpoch = s.keyEpoch := rfl
@[simp] theorem State.push_failedLines (s : State) (i : Instr) : (s.push i).failedLines = s.failedLines := rfl
@[simp] theorem State.push_revoking (s : State) (i : Instr) : (s.push i).revoking = s.revoking := rfl
@[simp] theorem State.push_moves (s : State) (i : Instr) : (s.push i).moves = s.moves := rfl
@[simp] theorem State.push_keyMap (s : State) (i : Instr) : (s.push i).keyMap = s.keyMap := rfl
@[simp] theorem State.push_tiles (s : State) (i : Instr) : (s.push i).tiles = s.tiles := rfl
@[simp] theorem State.push_dies (s : State) (i : Instr) : (s.push i).dies = s.dies := rfl
@[simp] theorem State.push_caches (s : State) (i : Instr) : (s.push i).caches = s.caches := rfl
@[simp] theorem State.push_ports (s : State) (i : Instr) : (s.push i).ports = s.ports := rfl
@[simp] theorem State.push_hub (s : State) (i : Instr) : (s.push i).hub = s.hub := rfl
@[simp] theorem State.push_power (s : State) (i : Instr) : (s.push i).power = s.power := rfl
@[simp] theorem State.push_rot (s : State) (i : Instr) : (s.push i).rot = s.rot := rfl

/-! ### defer -/

@[simp] theorem State.defer_hart (s : State) (i : Instr) : (s.defer i).hart = s.hart := rfl
@[simp] theorem State.defer_swTile (s : State) (i : Instr) : (s.defer i).swTile = s.swTile := rfl
@[simp] theorem State.defer_inputs (s : State) (i : Instr) : (s.defer i).inputs = s.inputs := rfl
@[simp] theorem State.defer_todo (s : State) (i : Instr) : (s.defer i).todo = s.todo := rfl
@[simp] theorem State.defer_now (s : State) (i : Instr) : (s.defer i).now = s.now := rfl
@[simp] theorem State.defer_fresh (s : State) (i : Instr) : (s.defer i).fresh = s.fresh := rfl
@[simp] theorem State.defer_emitted (s : State) (i : Instr) : (s.defer i).emitted = s.emitted := rfl
@[simp] theorem State.defer_mem (s : State) (i : Instr) : (s.defer i).mem = s.mem := rfl
@[simp] theorem State.defer_hostMem (s : State) (i : Instr) : (s.defer i).hostMem = s.hostMem := rfl
@[simp] theorem State.defer_lineEpoch (s : State) (i : Instr) : (s.defer i).lineEpoch = s.lineEpoch := rfl
@[simp] theorem State.defer_keyEpoch (s : State) (i : Instr) : (s.defer i).keyEpoch = s.keyEpoch := rfl
@[simp] theorem State.defer_failedLines (s : State) (i : Instr) : (s.defer i).failedLines = s.failedLines := rfl
@[simp] theorem State.defer_revoking (s : State) (i : Instr) : (s.defer i).revoking = s.revoking := rfl
@[simp] theorem State.defer_moves (s : State) (i : Instr) : (s.defer i).moves = s.moves := rfl
@[simp] theorem State.defer_keyMap (s : State) (i : Instr) : (s.defer i).keyMap = s.keyMap := rfl
@[simp] theorem State.defer_tiles (s : State) (i : Instr) : (s.defer i).tiles = s.tiles := rfl
@[simp] theorem State.defer_dies (s : State) (i : Instr) : (s.defer i).dies = s.dies := rfl
@[simp] theorem State.defer_caches (s : State) (i : Instr) : (s.defer i).caches = s.caches := rfl
@[simp] theorem State.defer_ports (s : State) (i : Instr) : (s.defer i).ports = s.ports := rfl
@[simp] theorem State.defer_hub (s : State) (i : Instr) : (s.defer i).hub = s.hub := rfl
@[simp] theorem State.defer_power (s : State) (i : Instr) : (s.defer i).power = s.power := rfl
@[simp] theorem State.defer_rot (s : State) (i : Instr) : (s.defer i).rot = s.rot := rfl

/-! ### emit -/

@[simp] theorem State.emit_hart (s : State) (e : Emit) : (s.emit e).hart = s.hart := rfl
@[simp] theorem State.emit_swTile (s : State) (e : Emit) : (s.emit e).swTile = s.swTile := rfl
@[simp] theorem State.emit_inputs (s : State) (e : Emit) : (s.emit e).inputs = s.inputs := rfl
@[simp] theorem State.emit_deferred (s : State) (e : Emit) : (s.emit e).deferred = s.deferred := rfl
@[simp] theorem State.emit_todo (s : State) (e : Emit) : (s.emit e).todo = s.todo := rfl
@[simp] theorem State.emit_now (s : State) (e : Emit) : (s.emit e).now = s.now := rfl
@[simp] theorem State.emit_fresh (s : State) (e : Emit) : (s.emit e).fresh = s.fresh := rfl
@[simp] theorem State.emit_mem (s : State) (e : Emit) : (s.emit e).mem = s.mem := rfl
@[simp] theorem State.emit_hostMem (s : State) (e : Emit) : (s.emit e).hostMem = s.hostMem := rfl
@[simp] theorem State.emit_lineEpoch (s : State) (e : Emit) : (s.emit e).lineEpoch = s.lineEpoch := rfl
@[simp] theorem State.emit_keyEpoch (s : State) (e : Emit) : (s.emit e).keyEpoch = s.keyEpoch := rfl
@[simp] theorem State.emit_failedLines (s : State) (e : Emit) : (s.emit e).failedLines = s.failedLines := rfl
@[simp] theorem State.emit_revoking (s : State) (e : Emit) : (s.emit e).revoking = s.revoking := rfl
@[simp] theorem State.emit_moves (s : State) (e : Emit) : (s.emit e).moves = s.moves := rfl
@[simp] theorem State.emit_keyMap (s : State) (e : Emit) : (s.emit e).keyMap = s.keyMap := rfl
@[simp] theorem State.emit_tiles (s : State) (e : Emit) : (s.emit e).tiles = s.tiles := rfl
@[simp] theorem State.emit_dies (s : State) (e : Emit) : (s.emit e).dies = s.dies := rfl
@[simp] theorem State.emit_caches (s : State) (e : Emit) : (s.emit e).caches = s.caches := rfl
@[simp] theorem State.emit_ports (s : State) (e : Emit) : (s.emit e).ports = s.ports := rfl
@[simp] theorem State.emit_hub (s : State) (e : Emit) : (s.emit e).hub = s.hub := rfl
@[simp] theorem State.emit_power (s : State) (e : Emit) : (s.emit e).power = s.power := rfl
@[simp] theorem State.emit_rot (s : State) (e : Emit) : (s.emit e).rot = s.rot := rfl

/-! ### Updates of the running hart -/

@[simp] theorem State.modRegsOf_hart (s : State) (h : HartId) (f : Regs → Regs) : (s.modRegsOf h f).hart = s.hart := by
  cases h <;> rfl
@[simp] theorem State.modRegs_hart (s : State) (f : Regs → Regs) : (s.modRegs f).hart = s.hart := s.modRegsOf_hart s.hart f
@[simp] theorem State.modMe_hart (s : State) (f : Strand → Strand) : (s.modMe f).hart = s.hart := by
  unfold State.modMe; split <;> rfl
@[simp] theorem State.modMyTile_hart (s : State) (f : Tile → Tile) : (s.modMyTile f).hart = s.hart := rfl
@[simp] theorem State.modRegsOf_swTile (s : State) (h : HartId) (f : Regs → Regs) : (s.modRegsOf h f).swTile = s.swTile := by
  cases h <;> rfl
@[simp] theorem State.modRegs_swTile (s : State) (f : Regs → Regs) : (s.modRegs f).swTile = s.swTile := s.modRegsOf_swTile s.hart f
@[simp] theorem State.modMe_swTile (s : State) (f : Strand → Strand) : (s.modMe f).swTile = s.swTile := by
  unfold State.modMe; split <;> rfl
@[simp] theorem State.modMyTile_swTile (s : State) (f : Tile → Tile) : (s.modMyTile f).swTile = s.swTile := rfl
@[simp] theorem State.modRegsOf_inputs (s : State) (h : HartId) (f : Regs → Regs) : (s.modRegsOf h f).inputs = s.inputs := by
  cases h <;> rfl
@[simp] theorem State.modRegs_inputs (s : State) (f : Regs → Regs) : (s.modRegs f).inputs = s.inputs := s.modRegsOf_inputs s.hart f
@[simp] theorem State.modMe_inputs (s : State) (f : Strand → Strand) : (s.modMe f).inputs = s.inputs := by
  unfold State.modMe; split <;> rfl
@[simp] theorem State.modMyTile_inputs (s : State) (f : Tile → Tile) : (s.modMyTile f).inputs = s.inputs := rfl
@[simp] theorem State.modRegsOf_deferred (s : State) (h : HartId) (f : Regs → Regs) : (s.modRegsOf h f).deferred = s.deferred := by
  cases h <;> rfl
@[simp] theorem State.modRegs_deferred (s : State) (f : Regs → Regs) : (s.modRegs f).deferred = s.deferred := s.modRegsOf_deferred s.hart f
@[simp] theorem State.modMe_deferred (s : State) (f : Strand → Strand) : (s.modMe f).deferred = s.deferred := by
  unfold State.modMe; split <;> rfl
@[simp] theorem State.modMyTile_deferred (s : State) (f : Tile → Tile) : (s.modMyTile f).deferred = s.deferred := rfl
@[simp] theorem State.modRegsOf_todo (s : State) (h : HartId) (f : Regs → Regs) : (s.modRegsOf h f).todo = s.todo := by
  cases h <;> rfl
@[simp] theorem State.modRegs_todo (s : State) (f : Regs → Regs) : (s.modRegs f).todo = s.todo := s.modRegsOf_todo s.hart f
@[simp] theorem State.modMe_todo (s : State) (f : Strand → Strand) : (s.modMe f).todo = s.todo := by
  unfold State.modMe; split <;> rfl
@[simp] theorem State.modMyTile_todo (s : State) (f : Tile → Tile) : (s.modMyTile f).todo = s.todo := rfl
@[simp] theorem State.modRegsOf_now (s : State) (h : HartId) (f : Regs → Regs) : (s.modRegsOf h f).now = s.now := by
  cases h <;> rfl
@[simp] theorem State.modRegs_now (s : State) (f : Regs → Regs) : (s.modRegs f).now = s.now := s.modRegsOf_now s.hart f
@[simp] theorem State.modMe_now (s : State) (f : Strand → Strand) : (s.modMe f).now = s.now := by
  unfold State.modMe; split <;> rfl
@[simp] theorem State.modMyTile_now (s : State) (f : Tile → Tile) : (s.modMyTile f).now = s.now := rfl
@[simp] theorem State.modRegsOf_fresh (s : State) (h : HartId) (f : Regs → Regs) : (s.modRegsOf h f).fresh = s.fresh := by
  cases h <;> rfl
@[simp] theorem State.modRegs_fresh (s : State) (f : Regs → Regs) : (s.modRegs f).fresh = s.fresh := s.modRegsOf_fresh s.hart f
@[simp] theorem State.modMe_fresh (s : State) (f : Strand → Strand) : (s.modMe f).fresh = s.fresh := by
  unfold State.modMe; split <;> rfl
@[simp] theorem State.modMyTile_fresh (s : State) (f : Tile → Tile) : (s.modMyTile f).fresh = s.fresh := rfl
@[simp] theorem State.modRegsOf_emitted (s : State) (h : HartId) (f : Regs → Regs) : (s.modRegsOf h f).emitted = s.emitted := by
  cases h <;> rfl
@[simp] theorem State.modRegs_emitted (s : State) (f : Regs → Regs) : (s.modRegs f).emitted = s.emitted := s.modRegsOf_emitted s.hart f
@[simp] theorem State.modMe_emitted (s : State) (f : Strand → Strand) : (s.modMe f).emitted = s.emitted := by
  unfold State.modMe; split <;> rfl
@[simp] theorem State.modMyTile_emitted (s : State) (f : Tile → Tile) : (s.modMyTile f).emitted = s.emitted := rfl
@[simp] theorem State.modRegsOf_mem (s : State) (h : HartId) (f : Regs → Regs) : (s.modRegsOf h f).mem = s.mem := by
  cases h <;> rfl
@[simp] theorem State.modRegs_mem (s : State) (f : Regs → Regs) : (s.modRegs f).mem = s.mem := s.modRegsOf_mem s.hart f
@[simp] theorem State.modMe_mem (s : State) (f : Strand → Strand) : (s.modMe f).mem = s.mem := by
  unfold State.modMe; split <;> rfl
@[simp] theorem State.modMyTile_mem (s : State) (f : Tile → Tile) : (s.modMyTile f).mem = s.mem := rfl
@[simp] theorem State.modRegsOf_hostMem (s : State) (h : HartId) (f : Regs → Regs) : (s.modRegsOf h f).hostMem = s.hostMem := by
  cases h <;> rfl
@[simp] theorem State.modRegs_hostMem (s : State) (f : Regs → Regs) : (s.modRegs f).hostMem = s.hostMem := s.modRegsOf_hostMem s.hart f
@[simp] theorem State.modMe_hostMem (s : State) (f : Strand → Strand) : (s.modMe f).hostMem = s.hostMem := by
  unfold State.modMe; split <;> rfl
@[simp] theorem State.modMyTile_hostMem (s : State) (f : Tile → Tile) : (s.modMyTile f).hostMem = s.hostMem := rfl
@[simp] theorem State.modRegsOf_lineEpoch (s : State) (h : HartId) (f : Regs → Regs) : (s.modRegsOf h f).lineEpoch = s.lineEpoch := by
  cases h <;> rfl
@[simp] theorem State.modRegs_lineEpoch (s : State) (f : Regs → Regs) : (s.modRegs f).lineEpoch = s.lineEpoch := s.modRegsOf_lineEpoch s.hart f
@[simp] theorem State.modMe_lineEpoch (s : State) (f : Strand → Strand) : (s.modMe f).lineEpoch = s.lineEpoch := by
  unfold State.modMe; split <;> rfl
@[simp] theorem State.modMyTile_lineEpoch (s : State) (f : Tile → Tile) : (s.modMyTile f).lineEpoch = s.lineEpoch := rfl
@[simp] theorem State.modRegsOf_keyEpoch (s : State) (h : HartId) (f : Regs → Regs) : (s.modRegsOf h f).keyEpoch = s.keyEpoch := by
  cases h <;> rfl
@[simp] theorem State.modRegs_keyEpoch (s : State) (f : Regs → Regs) : (s.modRegs f).keyEpoch = s.keyEpoch := s.modRegsOf_keyEpoch s.hart f
@[simp] theorem State.modMe_keyEpoch (s : State) (f : Strand → Strand) : (s.modMe f).keyEpoch = s.keyEpoch := by
  unfold State.modMe; split <;> rfl
@[simp] theorem State.modMyTile_keyEpoch (s : State) (f : Tile → Tile) : (s.modMyTile f).keyEpoch = s.keyEpoch := rfl
@[simp] theorem State.modRegsOf_failedLines (s : State) (h : HartId) (f : Regs → Regs) : (s.modRegsOf h f).failedLines = s.failedLines := by
  cases h <;> rfl
@[simp] theorem State.modRegsOf_revoking (s : State) (h : HartId) (f : Regs → Regs) : (s.modRegsOf h f).revoking = s.revoking := by
  cases h <;> rfl
@[simp] theorem State.modRegsOf_moves (s : State) (h : HartId) (f : Regs → Regs) : (s.modRegsOf h f).moves = s.moves := by
  cases h <;> rfl
@[simp] theorem State.modRegs_failedLines (s : State) (f : Regs → Regs) : (s.modRegs f).failedLines = s.failedLines := s.modRegsOf_failedLines s.hart f
@[simp] theorem State.modRegs_revoking (s : State) (f : Regs → Regs) : (s.modRegs f).revoking = s.revoking := s.modRegsOf_revoking s.hart f
@[simp] theorem State.modRegs_moves (s : State) (f : Regs → Regs) : (s.modRegs f).moves = s.moves := s.modRegsOf_moves s.hart f
@[simp] theorem State.modMe_failedLines (s : State) (f : Strand → Strand) : (s.modMe f).failedLines = s.failedLines := by
  unfold State.modMe; split <;> rfl
@[simp] theorem State.modMe_revoking (s : State) (f : Strand → Strand) : (s.modMe f).revoking = s.revoking := by
  unfold State.modMe; split <;> rfl
@[simp] theorem State.modMe_moves (s : State) (f : Strand → Strand) : (s.modMe f).moves = s.moves := by
  unfold State.modMe; split <;> rfl
@[simp] theorem State.modMyTile_failedLines (s : State) (f : Tile → Tile) : (s.modMyTile f).failedLines = s.failedLines := rfl
@[simp] theorem State.modMyTile_revoking (s : State) (f : Tile → Tile) : (s.modMyTile f).revoking = s.revoking := rfl
@[simp] theorem State.modMyTile_moves (s : State) (f : Tile → Tile) : (s.modMyTile f).moves = s.moves := rfl
@[simp] theorem State.modRegsOf_keyMap (s : State) (h : HartId) (f : Regs → Regs) : (s.modRegsOf h f).keyMap = s.keyMap := by
  cases h <;> rfl
@[simp] theorem State.modRegs_keyMap (s : State) (f : Regs → Regs) : (s.modRegs f).keyMap = s.keyMap := s.modRegsOf_keyMap s.hart f
@[simp] theorem State.modMe_keyMap (s : State) (f : Strand → Strand) : (s.modMe f).keyMap = s.keyMap := by
  unfold State.modMe; split <;> rfl
@[simp] theorem State.modMyTile_keyMap (s : State) (f : Tile → Tile) : (s.modMyTile f).keyMap = s.keyMap := rfl
@[simp] theorem State.modRegsOf_caches (s : State) (h : HartId) (f : Regs → Regs) : (s.modRegsOf h f).caches = s.caches := by
  cases h <;> rfl
@[simp] theorem State.modRegs_caches (s : State) (f : Regs → Regs) : (s.modRegs f).caches = s.caches := s.modRegsOf_caches s.hart f
@[simp] theorem State.modMe_caches (s : State) (f : Strand → Strand) : (s.modMe f).caches = s.caches := by
  unfold State.modMe; split <;> rfl
@[simp] theorem State.modMyTile_caches (s : State) (f : Tile → Tile) : (s.modMyTile f).caches = s.caches := rfl
@[simp] theorem State.modRegsOf_ports (s : State) (h : HartId) (f : Regs → Regs) : (s.modRegsOf h f).ports = s.ports := by
  cases h <;> rfl
@[simp] theorem State.modRegs_ports (s : State) (f : Regs → Regs) : (s.modRegs f).ports = s.ports := s.modRegsOf_ports s.hart f
@[simp] theorem State.modMe_ports (s : State) (f : Strand → Strand) : (s.modMe f).ports = s.ports := by
  unfold State.modMe; split <;> rfl
@[simp] theorem State.modMyTile_ports (s : State) (f : Tile → Tile) : (s.modMyTile f).ports = s.ports := rfl
@[simp] theorem State.modRegsOf_hub (s : State) (h : HartId) (f : Regs → Regs) : (s.modRegsOf h f).hub = s.hub := by
  cases h <;> rfl
@[simp] theorem State.modRegs_hub (s : State) (f : Regs → Regs) : (s.modRegs f).hub = s.hub := s.modRegsOf_hub s.hart f
@[simp] theorem State.modMe_hub (s : State) (f : Strand → Strand) : (s.modMe f).hub = s.hub := by
  unfold State.modMe; split <;> rfl
@[simp] theorem State.modMyTile_hub (s : State) (f : Tile → Tile) : (s.modMyTile f).hub = s.hub := rfl
@[simp] theorem State.modRegsOf_power (s : State) (h : HartId) (f : Regs → Regs) : (s.modRegsOf h f).power = s.power := by
  cases h <;> rfl
@[simp] theorem State.modRegs_power (s : State) (f : Regs → Regs) : (s.modRegs f).power = s.power := s.modRegsOf_power s.hart f
@[simp] theorem State.modMe_power (s : State) (f : Strand → Strand) : (s.modMe f).power = s.power := by
  unfold State.modMe; split <;> rfl
@[simp] theorem State.modMyTile_power (s : State) (f : Tile → Tile) : (s.modMyTile f).power = s.power := rfl
@[simp] theorem State.modRegsOf_rot (s : State) (h : HartId) (f : Regs → Regs) : (s.modRegsOf h f).rot = s.rot := by
  cases h <;> rfl
@[simp] theorem State.modRegs_rot (s : State) (f : Regs → Regs) : (s.modRegs f).rot = s.rot := s.modRegsOf_rot s.hart f
@[simp] theorem State.modMe_rot (s : State) (f : Strand → Strand) : (s.modMe f).rot = s.rot := by
  unfold State.modMe; split <;> rfl
@[simp] theorem State.modMyTile_rot (s : State) (f : Tile → Tile) : (s.modMyTile f).rot = s.rot := rfl

/-! ### Reading after an update -/

@[simp] theorem State.tile_setTile_same (s : State) (t : TileNo) (x : Tile) : (s.setTile t x).tile t = x :=
  tabGet_tabSet_same ({} : Tile) x t.val s.tiles
theorem State.tile_setTile_other (s : State) {t u : TileNo} (h : u ≠ t) (x : Tile) : (s.setTile t x).tile u = s.tile u :=
  tabGet_tabSet_other ({} : Tile) x (fun e => h (Fin.ext e)) s.tiles
@[simp] theorem State.tile_modTile_same (s : State) (t : TileNo) (f : Tile → Tile) : (s.modTile t f).tile t = f (s.tile t) :=
  s.tile_setTile_same t _
theorem State.tile_modTile_other (s : State) {t u : TileNo} (h : u ≠ t) (f : Tile → Tile) :
    (s.modTile t f).tile u = s.tile u := s.tile_setTile_other h _
@[simp] theorem State.die_setDie_same (s : State) (d : DieNo) (x : Die) : (s.setDie d x).die d = x :=
  tabGet_tabSet_same ({} : Die) x d.val s.dies
theorem State.die_setDie_other (s : State) {d e : DieNo} (h : e ≠ d) (x : Die) : (s.setDie d x).die e = s.die e :=
  tabGet_tabSet_other ({} : Die) x (fun q => h (Fin.ext q)) s.dies
@[simp] theorem State.die_modDie_same (s : State) (d : DieNo) (f : Die → Die) : (s.modDie d f).die d = f (s.die d) :=
  s.die_setDie_same d _
theorem State.die_modDie_other (s : State) {d e : DieNo} (h : e ≠ d) (f : Die → Die) :
    (s.modDie d f).die e = s.die e := s.die_setDie_other h _
@[simp] theorem State.cache_setCache_same (s : State) (c : DieNo) (x : CacheDie) : (s.setCache c x).cache c = x :=
  tabGet_tabSet_same ({} : CacheDie) x c.val s.caches
theorem State.cache_setCache_other (s : State) {c e : DieNo} (h : e ≠ c) (x : CacheDie) :
    (s.setCache c x).cache e = s.cache e := tabGet_tabSet_other ({} : CacheDie) x (fun q => h (Fin.ext q)) s.caches
@[simp] theorem State.cache_modCache_same (s : State) (c : DieNo) (f : CacheDie → CacheDie) :
    (s.modCache c f).cache c = f (s.cache c) := s.cache_setCache_same c _
@[simp] theorem State.port_modPort_same (s : State) (p : Nat) (f : Port → Port) : (s.modPort p f).port p = f (s.port p) :=
  tabGet_tabSet_same ({} : Port) _ p s.ports
theorem State.port_modPort_other (s : State) {p q : Nat} (h : q ≠ p) (f : Port → Port) :
    (s.modPort p f).port q = s.port q := tabGet_tabSet_other ({} : Port) _ h s.ports
@[simp] theorem State.hub_modHub (s : State) (f : Hub → Hub) : (s.modHub f).hub = f s.hub := rfl

@[simp] theorem State.tile_modHub (s : State) (f : Hub → Hub) (t : TileNo) : (s.modHub f).tile t = s.tile t := rfl
@[simp] theorem State.tile_modDie (s : State) (d : DieNo) (f : Die → Die) (t : TileNo) : (s.modDie d f).tile t = s.tile t :=
  rfl
@[simp] theorem State.die_modTile (s : State) (t : TileNo) (f : Tile → Tile) (d : DieNo) : (s.modTile t f).die d = s.die d :=
  rfl
@[simp] theorem State.die_modHub (s : State) (f : Hub → Hub) (d : DieNo) : (s.modHub f).die d = s.die d := rfl

/-- A strand after a change of it. -/
@[simp] theorem State.strandAt_modStrand_same (s : State) (t : TileNo) (k : Fin 8) (f : Strand → Strand) :
    (s.modStrand t k f).strandAt t k = f (s.strandAt t k) := by
  simp [State.modStrand, State.strandAt]
/-- Another strand of the same tile. -/
theorem State.strandAt_modStrand_other (s : State) (t : TileNo) {k j : Fin 8} (h : j ≠ k) (f : Strand → Strand) :
    (s.modStrand t k f).strandAt t j = s.strandAt t j := by
  simp only [State.modStrand, State.strandAt, State.tile_modTile_same]
  exact Vector.getElem_set_ne _ _ (fun e => h (Fin.ext e.symm))
/-- A strand of another tile. -/
theorem State.strandAt_modStrand_tile (s : State) {t u : TileNo} (h : u ≠ t) (k j : Fin 8) (f : Strand → Strand) :
    (s.modStrand t k f).strandAt u j = s.strandAt u j := by
  simp only [State.modStrand, State.strandAt, State.tile_modTile_other s h]
/-- The tile of a changed strand: nothing but the strand changes. -/
theorem State.tile_modStrand_same (s : State) (t : TileNo) (k : Fin 8) (f : Strand → Strand) :
    (s.modStrand t k f).tile t = { s.tile t with strands := (s.tile t).strands.set k (f (s.strandAt t k)) } := by
  simp [State.modStrand, State.strandAt]
theorem State.tile_modStrand_other (s : State) {t u : TileNo} (h : u ≠ t) (k : Fin 8) (f : Strand → Strand) :
    (s.modStrand t k f).tile u = s.tile u := s.tile_modTile_other h _

/-- The registers of a hart after a change of them. -/
@[simp] theorem State.regsOf_modRegsOf_same (s : State) (h : HartId) (f : Regs → Regs) :
    (s.modRegsOf h f).regsOf h = f (s.regsOf h) := by
  cases h <;> simp [State.modRegsOf, State.regsOf]
@[simp] theorem State.regs_modRegs (s : State) (f : Regs → Regs) : (s.modRegs f).regs = f s.regs := by
  simp only [State.regs, State.modRegs, State.modRegsOf_hart, State.regsOf_modRegsOf_same]
@[simp] theorem State.cycleOf_modRegsOf (s : State) (h g : HartId) (f : Regs → Regs) :
    (s.modRegsOf h f).cycleOf g = s.cycleOf g := by
  have tile (t : TileNo) (F : Tile → Tile) (hF : ∀ x, (F x).cycle = x.cycle) (u : TileNo) :
      ((s.modTile t F).tile u).cycle = (s.tile u).cycle := by
    by_cases e : u = t
    · subst e; rw [State.tile_modTile_same, hF]
    · rw [State.tile_modTile_other s e]
  have die (d : DieNo) (F : Die → Die) (hF : ∀ x, (F x).mgmt.cycle = x.mgmt.cycle) (e : DieNo) :
      ((s.modDie d F).die e).mgmt.cycle = (s.die e).mgmt.cycle := by
    by_cases q : e = d
    · subst q; rw [State.die_modDie_same, hF]
    · rw [State.die_modDie_other s q]
  cases h <;> cases g <;> simp only [State.modRegsOf, State.cycleOf, State.modStrand] <;> first
    | rfl
    | (refine tile _ _ ?_ _; intro x; rfl)
    | (refine die _ _ ?_ _; intro x; rfl)
@[simp] theorem State.cyc_modRegs (s : State) (f : Regs → Regs) : (s.modRegs f).cyc = s.cyc := by
  simp only [State.cyc, State.modRegs, State.modRegsOf_hart, State.cycleOf_modRegsOf]

theorem tabSet_tabSet {α : Type} (k : Nat) (x y : α) (t : Tab α) : tabSet k x (tabSet k y t) = tabSet k x t := by
  induction t with
  | nil => simp [tabSet]
  | cons p r ih =>
    obtain ⟨j, z⟩ := p
    simp only [tabSet]
    split
    · simp [tabSet]
    · split
      · simp [tabSet]
      · rename_i h1 h2; simp [tabSet, h1, h2, ih]

theorem State.modTile_modTile (s : State) (t : TileNo) (f g : Tile → Tile) :
    (s.modTile t f).modTile t g = s.modTile t (g ∘ f) := by
  simp only [State.modTile, State.setTile, State.tile, tabGet_tabSet_same, tabSet_tabSet, Function.comp]
theorem State.modDie_modDie (s : State) (d : DieNo) (f g : Die → Die) :
    (s.modDie d f).modDie d g = s.modDie d (g ∘ f) := by
  simp only [State.modDie, State.setDie, State.die, tabGet_tabSet_same, tabSet_tabSet, Function.comp]
theorem State.modStrand_modStrand (s : State) (t : TileNo) (k : Fin 8) (f g : Strand → Strand) :
    (s.modStrand t k f).modStrand t k g = s.modStrand t k (g ∘ f) := by
  simp [State.modStrand, State.modTile_modTile, Function.comp_def]
/-- Two changes of a hart's registers are one. -/
theorem State.modRegsOf_modRegsOf (s : State) (h : HartId) (f g : Regs → Regs) :
    (s.modRegsOf h f).modRegsOf h g = s.modRegsOf h (g ∘ f) := by
  cases h <;> simp [State.modRegsOf, State.modStrand_modStrand, State.modTile_modTile, State.modDie_modDie,
    Function.comp_def]
theorem State.modRegs_modRegs (s : State) (f g : Regs → Regs) : (s.modRegs f).modRegs g = s.modRegs (g ∘ f) := by
  simp only [State.modRegs, State.modRegsOf_hart, State.modRegsOf_modRegsOf]

/-- The running strand's own registers are the running hart's. -/
theorem State.me_r (s : State) {t : TileNo} {k : Fin 8} (h : s.hart = .strand t k) : s.me.r = s.regs := by
  simp [State.me, State.regs, State.regsOf, h]
@[simp] theorem State.me_modMe (s : State) {t : TileNo} {k : Fin 8} (h : s.hart = .strand t k) (f : Strand → Strand) :
    (s.modMe f).me = f s.me := by
  simp [State.me, State.modMe, h]

end Sys2Proof.Machine
end

