-- ==== Sys2Proof/Laws/Ops.lean ====
section
/-! SUPPORT. What the shared operations of a core hart can do: issue, operands, results, completion, exceptions and
stores to local memory, each said once. -/
namespace Sys2Proof.Machine

/-! ### What an operation of one hart leaves alone -/

/-- Every memory, every other hart and everything beyond the tiles is as before. -/
structure Local (s u : State) : Prop where
  hart : u.hart = s.hart
  mem : u.mem = s.mem
  hostMem : u.hostMem = s.hostMem
  caches : u.caches = s.caches
  ports : u.ports = s.ports
  hub : u.hub = s.hub
  power : u.power = s.power
  rot : u.rot = s.rot
  lm : ∀ t, (u.tile t).lm = (s.tile t).lm
  acc : ∀ t, (u.tile t).acc = (s.tile t).acc
  imem : ∀ t, (u.tile t).imem = (s.tile t).imem
  smem : ∀ t, (u.tile t).smem = (s.tile t).smem
  strand : ∀ t k, HartId.strand t k ≠ s.hart → u.strandAt t k = s.strandAt t k
  engine : ∀ t, HartId.engine t ≠ s.hart → (u.tile t).eng = (s.tile t).eng
  mgmt : ∀ d, HartId.mgmt d ≠ s.hart → u.die d = s.die d

theorem Local.refl (s : State) : Local s s := by
  constructor <;> intros <;> rfl

theorem Local.trans {s u v : State} (a : Local s u) (b : Local u v) : Local s v where
  hart := b.hart.trans a.hart
  mem := b.mem.trans a.mem
  hostMem := b.hostMem.trans a.hostMem
  caches := b.caches.trans a.caches
  ports := b.ports.trans a.ports
  hub := b.hub.trans a.hub
  power := b.power.trans a.power
  rot := b.rot.trans a.rot
  lm t := (b.lm t).trans (a.lm t)
  acc t := (b.acc t).trans (a.acc t)
  imem t := (b.imem t).trans (a.imem t)
  smem t := (b.smem t).trans (a.smem t)
  strand t k h := (b.strand t k (by rwa [a.hart])).trans (a.strand t k h)
  engine t h := (b.engine t (by rwa [a.hart])).trans (a.engine t h)
  mgmt d h := (b.mgmt d (by rwa [a.hart])).trans (a.mgmt d h)

/-- What holds of every tile after one is changed. -/
theorem tile_modTile_all {α : Type} (s : State) (t u : TileNo) (f : Tile → Tile) (p : Tile → α)
    (h : p (f (s.tile t)) = p (s.tile t)) : p ((s.modTile t f).tile u) = p (s.tile u) := by
  by_cases e : u = t
  · subst e; rw [State.tile_modTile_same, h]
  · rw [State.tile_modTile_other s e]

/-- A change of a tile that keeps its memories and harts. -/
theorem Local.modTile (s : State) (t : TileNo) (f : Tile → Tile)
    (h : ∀ x, (f x).lm = x.lm ∧ (f x).acc = x.acc ∧ (f x).imem = x.imem ∧ (f x).smem = x.smem ∧
      (f x).strands = x.strands ∧ (f x).eng = x.eng) : Local s (s.modTile t f) where
  hart := rfl
  mem := rfl
  hostMem := rfl
  caches := rfl
  ports := rfl
  hub := rfl
  power := rfl
  rot := rfl
  lm u := tile_modTile_all s t u f Tile.lm (h _).1
  acc u := tile_modTile_all s t u f Tile.acc (h _).2.1
  imem u := tile_modTile_all s t u f Tile.imem (h _).2.2.1
  smem u := tile_modTile_all s t u f Tile.smem (h _).2.2.2.1
  strand u k _ := by
    have := tile_modTile_all s t u f Tile.strands (h _).2.2.2.2.1
    simp only [State.strandAt, this]
  engine u _ := tile_modTile_all s t u f Tile.eng (h _).2.2.2.2.2
  mgmt _ _ := rfl

theorem Local.modMyTile (s : State) (f : Tile → Tile)
    (h : ∀ x, (f x).lm = x.lm ∧ (f x).acc = x.acc ∧ (f x).imem = x.imem ∧ (f x).smem = x.smem ∧
      (f x).strands = x.strands ∧ (f x).eng = x.eng) : Local s (s.modMyTile f) :=
  Local.modTile s _ f h

/-- A change of the running strand. -/
theorem Local.modStrand (s : State) {t : TileNo} {k : Fin 8} (e : s.hart = .strand t k) (f : Strand → Strand) :
    Local s (s.modStrand t k f) where
  hart := rfl
  mem := rfl
  hostMem := rfl
  caches := rfl
  ports := rfl
  hub := rfl
  power := rfl
  rot := rfl
  lm u := tile_modTile_all s t u _ Tile.lm rfl
  acc u := tile_modTile_all s t u _ Tile.acc rfl
  imem u := tile_modTile_all s t u _ Tile.imem rfl
  smem u := tile_modTile_all s t u _ Tile.smem rfl
  strand u j h := by
    rw [e] at h
    by_cases q : u = t
    · subst q
      exact State.strandAt_modStrand_other s u (fun w => h (by rw [w])) f
    · exact State.strandAt_modStrand_tile s q k j f
  engine u _ := tile_modTile_all s t u _ Tile.eng rfl
  mgmt _ _ := rfl

theorem Local.modMe (s : State) (f : Strand → Strand) : Local s (s.modMe f) := by
  unfold State.modMe
  split
  · exact Local.modStrand s ‹_› f
  · exact Local.refl s

/-- A change of the running hart's registers. -/
theorem Local.modRegs (s : State) (f : Regs → Regs) : Local s (s.modRegs f) := by
  unfold State.modRegs State.modRegsOf
  cases e : s.hart with
  | strand t k => exact Local.modStrand s e _
  | engine t =>
    constructor
    case lm => exact fun u => tile_modTile_all s t u _ Tile.lm rfl
    case acc => exact fun u => tile_modTile_all s t u _ Tile.acc rfl
    case imem => exact fun u => tile_modTile_all s t u _ Tile.imem rfl
    case smem => exact fun u => tile_modTile_all s t u _ Tile.smem rfl
    case strand => exact fun u k _ => congrArg (·[k]) (tile_modTile_all s t u _ Tile.strands rfl)
    case engine =>
      intro u h
      have q : u ≠ t := fun w => h (by rw [w, e])
      exact congrArg Tile.eng (State.tile_modTile_other s q _)
    all_goals intros; rfl
  | mgmt d =>
    constructor
    case mgmt =>
      intro c h
      have q : c ≠ d := fun w => h (by rw [w, e])
      exact State.die_modDie_other s q _
    all_goals intros; rfl

/-! ### Operands and results -/

theorem popWords_local (s : State) (seen vec : Bool) (q : Fin 8) (n : Nat) : Local s (popWords s seen vec q n).2 :=
  (Local.modMyTile s (fun x => { x with inQ := x.inQ.set q (x.inQ[q].drop n) })
    (fun _ => ⟨rfl, rfl, rfl, rfl, rfl, rfl⟩)).trans (Local.modMe _ _)

theorem popG_local (seen : Bool) (a : Reg) (s : State) : Local s (popG seen a s).2.2 := by
  unfold popG
  split
  · exact popWords_local s _ _ _ _
  · exact Local.refl s

theorem popV_local (seen : Bool) (a : Reg) (s : State) : Local s (popV seen a s).2.2 := by
  unfold popV
  split
  · exact popWords_local s _ _ _ _
  · exact Local.refl s

theorem src1_local (a : Reg) (s : State) : Local s (src1 a s).2 := popG_local false a s

theorem src2_local (a b : Reg) (s : State) : Local s (src2 a b s).2.2 :=
  (popG_local false a s).trans (popG_local _ b _)

theorem src3_local (a b d : Reg) (s : State) : Local s (src3 a b d s).2.2.2 :=
  ((popG_local false a s).trans (popG_local _ b _)).trans (popG_local _ d _)

/-- An operand whose register is not bound is the register, and nothing is taken. -/
theorem src1_unbound {a : Reg} {s : State} (h : boundTo s false a = none) : src1 a s = (plainG s.regs a, s) := by
  simp [src1, popG, h]

theorem src2_unbound {a b : Reg} {s : State} (ha : boundTo s false a = none) (hb : boundTo s false b = none) :
    src2 a b s = (plainG s.regs a, plainG s.regs b, s) := by
  simp [src2, popG, ha, hb]

theorem src3_unbound {a b d : Reg} {s : State} (ha : boundTo s false a = none) (hb : boundTo s false b = none)
    (hd : boundTo s false d = none) : src3 a b d s = (plainG s.regs a, plainG s.regs b, plainG s.regs d, s) := by
  simp [src3, popG, ha, hb, hd]

@[simp] theorem plainG_zero (r : Regs) : plainG r 0 = 0 := rfl

theorem plainG_of_ne {r : Regs} {a : Reg} (h : a ≠ 0) : plainG r a = r.g[a] := by simp [plainG, h]

@[simp] theorem setG_zero (r : Regs) (v : W64) (c : Nat) : setG r 0 v c = r := rfl

@[simp] theorem setG_pc (r : Regs) (d : Reg) (v : W64) (c : Nat) : (setG r d v c).pc = r.pc := by
  unfold setG; split <;> rfl

/-- A written register reads as what was written; g0 stays 0 (R14, R99). -/
theorem plainG_setG_same (r : Regs) {d : Reg} (v : W64) (c : Nat) : plainG (setG r d v c) d = if d = 0 then 0 else v := by
  by_cases h : d = 0
  · simp [h]
  · simp [plainG, setG, h]

/-- Another register reads as before. -/
theorem plainG_setG_other (r : Regs) {d a : Reg} (h : a ≠ d) (v : W64) (c : Nat) :
    plainG (setG r d v c) a = plainG r a := by
  unfold plainG setG
  split
  · rfl
  · split
    · rfl
    · exact Vector.getElem_set_ne d.isLt a.isLt (fun e => h (Fin.ext e.symm))

theorem noteResult_local (c : Nat) (s : State) : Local s (noteResult c s) := Local.modRegs s _

theorem writeG_local (d : Reg) (v : W64) (lat : Nat) (s : State) : Local s (writeG d v lat s) := by
  refine Local.trans ?_ (noteResult_local _ _)
  split
  · exact Local.modMyTile s _ (fun _ => ⟨rfl, rfl, rfl, rfl, rfl, rfl⟩)
  · exact Local.modRegs s _

theorem writeV_local (d : Reg) (v : V512) (lat : Nat) (s : State) : Local s (writeV d v lat s) := by
  refine Local.trans ?_ (noteResult_local _ _)
  split
  · exact Local.modMyTile s _ (fun _ => ⟨rfl, rfl, rfl, rfl, rfl, rfl⟩)
  · exact Local.modMe s _

theorem writeM_local (d : Reg8) (v : W64) (lat : Nat) (s : State) : Local s (writeM d v lat s) := by
  refine Local.trans ?_ (noteResult_local _ _)
  split
  · exact Local.refl s
  · exact Local.modMe s _

/-! ### Completion -/

/-- Two register files that differ at most in the loop counts and the PC. -/
def LoopOnly (r q : Regs) : Prop :=
  q.g = r.g ∧ q.gReady = r.gReady ∧ q.lb = r.lb ∧ q.le = r.le ∧ q.h = r.h ∧ q.accesses = r.accesses ∧ q.issued = r.issued

theorem LoopOnly.trans {a b c : Regs} (x : LoopOnly a b) (y : LoopOnly b c) : LoopOnly a c := by
  obtain ⟨x1, x2, x3, x4, x5, x6, x7⟩ := x
  obtain ⟨y1, y2, y3, y4, y5, y6, y7⟩ := y
  exact ⟨y1.trans x1, y2.trans x2, y3.trans x3, y4.trans x4, y5.trans x5, y6.trans x6, y7.trans x7⟩

theorem backLevel_some {k : Fin 2} {r q : Regs} (h : backLevel k r = some q) :
    q = { r with lc := r.lc.set k (r.lc[k] - 1), pc := r.lb[k] } := by
  unfold backLevel at h
  split at h
  · exact (Option.some.inj h).symm
  · exact nomatch h

theorem endLevel_keeps (k : Fin 2) (r : Regs) : LoopOnly r (endLevel k r) ∧ (endLevel k r).pc = r.pc := by
  unfold endLevel
  split <;> exact ⟨⟨rfl, rfl, rfl, rfl, rfl, rfl, rfl⟩, rfl⟩

/-- The loop part of a completion writes the loop counts and the PC only, and not the PC when no back edge is taken. -/
theorem backEdge_keeps (r : Regs) : LoopOnly r (backEdge r).1 ∧ ((backEdge r).2 = false → (backEdge r).1.pc = r.pc) := by
  have e1 := endLevel_keeps 1 r
  have e0 := endLevel_keeps 0 (endLevel 1 r)
  unfold backEdge
  split
  · rename_i h
    rw [backLevel_some h]
    exact ⟨⟨rfl, rfl, rfl, rfl, rfl, rfl, rfl⟩, nofun⟩
  · dsimp only
    split
    · rename_i h
      rw [backLevel_some h]
      exact ⟨e1.1.trans ⟨rfl, rfl, rfl, rfl, rfl, rfl, rfl⟩, nofun⟩
    · exact ⟨e1.1.trans e0.1, fun _ => e0.2.trans e1.2⟩

/-- A step inside instruction memory moves the PC and nothing else. -/
theorem stepOn_inside {s : State} (h : (s.regs.pc + 4).toNat ≤ pcLimit s.hart) :
    stepOn s = s.modRegs fun r => { r with pc := s.regs.pc + 4 } := by
  unfold stepOn
  exact if_neg (by omega)

/-- A completion that stays inside instruction memory changes the running hart's registers only. -/
theorem complete_local {s : State} (h : (s.regs.pc + 4).toNat ≤ pcLimit s.hart) : Local s (complete s) := by
  unfold complete
  dsimp only
  split
  · exact Local.modRegs s _
  · rename_i q
    have a := Local.modRegs s fun _ => (backEdge { s.regs with issued := s.regs.issued + 1 }).1
    refine a.trans ?_
    rw [stepOn_inside]
    · exact Local.modRegs _ _
    · rw [State.regs_modRegs, a.hart, (backEdge_keeps _).2 (by simpa using q)]
      exact h

/-! ### Issue -/

/-- A hart that is not free leaves the state as it is. -/
theorem issue_waits {i : Instr} {n : Need} {k : State → State} {s : State} (h : hartFree s = false) :
    issue i n k s = .next s := by simp [issue, h]

/-- A word the hart does not take is illegal. -/
theorem issue_illegal {i : Instr} {n : Need} {k : State → State} {s : State} (h : hartFree s = true)
    (ha : admits s i = false) : issue i n k s = .next (raise .illegal (w64 (encode i)) s) := by simp [issue, h, ha]

/-- An operand that is not ready holds the instruction back. -/
theorem issue_held {i : Instr} {n : Need} {k : State → State} {s : State} (h : hartFree s = true)
    (ha : admits s i = true) (ho : operandsReady s n = false) : issue i n k s = .next s := by simp [issue, h, ha, ho]

/-- An instruction that may issue has its effect. -/
theorem issue_ready {i : Instr} {n : Need} {k : State → State} {s : State} (h : hartFree s = true)
    (ha : admits s i = true) (ho : operandsReady s n = true) (hr : unsound s n = none) :
    issue i n k s = .next (k s) := by simp [issue, h, ha, ho, hr]

/-- A register whose residue does not match raises the machine check (R122, R153). -/
theorem issue_unsound {i : Instr} {n : Need} {k : State → State} {s : State} {r : Nat} (h : hartFree s = true)
    (ha : admits s i = true) (ho : operandsReady s n = true) (hr : unsound s n = some r) :
    issue i n k s = .next (raise .machineCheck (residueEval r) s) := by simp [issue, h, ha, ho, hr]

/-- All that issuing can do. -/
theorem issue_cases (i : Instr) (n : Need) (k : State → State) (s : State) :
    issue i n k s = .next s ∨ issue i n k s = .next (raise .illegal (w64 (encode i)) s) ∨
      (∃ r, issue i n k s = .next (raise .machineCheck (residueEval r) s)) ∨
      (hartFree s = true ∧ admits s i = true ∧ operandsReady s n = true ∧ issue i n k s = .next (k s)) := by
  cases h : hartFree s with
  | false => exact .inl (issue_waits h)
  | true =>
    cases ha : admits s i with
    | false => exact .inr (.inl (issue_illegal h ha))
    | true =>
      cases ho : operandsReady s n with
      | false => exact .inl (issue_held h ha ho)
      | true =>
        cases hr : unsound s n with
        | some r => exact .inr (.inr (.inl ⟨r, issue_unsound h ha ho hr⟩))
        | none => exact .inr (.inr (.inr ⟨rfl, rfl, rfl, issue_ready h ha ho hr⟩))

/-! ### Exceptions -/

/-- A trap with a usable handler writes the trap registers, sets INH and goes to the handler (R358). -/
theorem takeTrap_vectored {s : State} {t : TileNo} {k : Fin 8} {c : Cause} (eval : W64) (async : Bool) (at_ : W64)
    (hc : c ≠ .machineCheck) (hu : unhandled (s.strandAt t k) = false) :
    takeTrap s t k c eval async at_ =
      ((s.modStrand t k fun x => trapRegs x c eval async at_).modTile t (leaveBanks k)).modStrand t k fun x =>
        { x with inh := true, r := { x.r with pc := x.etvec } } := by
  simp only [takeTrap, hc, hu, if_false, Bool.false_eq_true]

/-- The running strand's trap. -/
theorem raiseAt_strand {s : State} {t : TileNo} {k : Fin 8} (h : s.hart = .strand t k) (c : Cause) (eval at_ : W64) :
    raiseAt c eval at_ s = takeTrap s t k c eval false at_ := by simp [raiseAt, h]

/-- The engine's condition ends its job. -/
theorem raiseAt_engine {s : State} {t : TileNo} (h : s.hart = .engine t) (c : Cause) (eval at_ : W64) :
    raiseAt c eval at_ s = endJob s t (errCode c) (errValue c at_ eval (jobDesc (s.tile t))) := by simp [raiseAt, h]

/-- The management hart's condition stops it. -/
theorem raiseAt_mgmt {s : State} {d : DieNo} (h : s.hart = .mgmt d) (c : Cause) (eval at_ : W64) :
    raiseAt c eval at_ s = stopMgmt s d (errCode c) (errValue c at_ eval 0) at_ := by simp [raiseAt, h]

/-! ### Local memory -/

@[simp] theorem sideDrop_lm (p : Fin 64 → Bool) (x : Tile) : (sideDrop p x).lm = x.lm := rfl
@[simp] theorem sideClear_lm (a n : Nat) (x : Tile) : (sideClear a n x).lm = x.lm := rfl
@[simp] theorem tileStore_lm (a : Nat) (bs : List Byte) (x : Tile) : (tileStore a bs x).lm = memWrite x.lm a bs := rfl
@[simp] theorem tileStore_acc (a : Nat) (bs : List Byte) (x : Tile) : (tileStore a bs x).acc = x.acc := rfl
@[simp] theorem tileStore_strands (a : Nat) (bs : List Byte) (x : Tile) : (tileStore a bs x).strands = x.strands := rfl
@[simp] theorem tileStore_eng (a : Nat) (bs : List Byte) (x : Tile) : (tileStore a bs x).eng = x.eng := rfl
@[simp] theorem holdBank_lm (a c : Nat) (x : Tile) : (holdBank a c x).lm = x.lm := rfl

/-- A stored value reads back, modulo its width. -/
theorem tileLoad_tileStore (a n v : Nat) (x : Tile) : tileLoad (tileStore a (leBytes n v) x) a n = v % 256 ^ n :=
  memRead_memWrite x.lm a n v

/-- A byte outside the store reads as before. -/
theorem tileStore_out (a : Nat) (bs : List Byte) (x : Tile) {j : Nat} (h : j < a ∨ a + bs.length ≤ j) :
    memGet (tileStore a bs x).lm j = memGet x.lm j := memGet_memWrite_out x.lm a bs h

/-- A side entry after a store: it loses VALID exactly where its range meets the store (R182). -/
theorem tileStore_side (a : Nat) (bs : List Byte) (x : Tile) (i : Fin 64) :
    (tileStore a bs x).side[i] =
      if sideTouched a bs.length x.side[i] then { x.side[i] with valid := false } else x.side[i] := by
  simp [tileStore, tileWrite, sideClear, sideDrop]

end Sys2Proof.Machine
end

