-- ==== Sys2Proof/Laws/PerInstr.lean ====
section
/-! SUPPORT. Per-instruction lemmas. Family `RoundTrip`: the decoder reads back the word of every well-formed core and
switch instruction, one lemma per constructor. -/
namespace Sys2Proof.Laws

section
set_option Elab.async false

/-! ### Fields derived from fields -/

theorem bits_zero {w lo m n : Nat} (hu : bits w lo m = 0) (hv : bits w (lo + m) n = 0) : bits w lo (m + n) = 0 := by
  rw [bits_join hu hv, Nat.mul_zero]
theorem low3_of {w lo v : Nat} (h : bits w lo 5 = v) : bits w lo 3 = v % 8 := by
  simpa using bits_inside (j := 0) (m := 3) h (by decide)
theorem reg8At_of5 {w lo : Nat} {r : Reg8} (h : bits w lo 5 = r.val) : reg8At w lo = r :=
  reg8At_of ((low3_of h).trans (Nat.mod_eq_of_lt r.isLt))
theorem high2_of {w lo : Nat} {r : Reg8} (h : bits w lo 5 = r.val) : bits w (lo + 3) 2 = 0 := by
  rw [bits_inside (j := 3) (m := 2) h (by decide)]; omega
theorem bit_of5 {w lo : Nat} {b : Bool} (h : bits w lo 5 = b2n b) : bit w lo = b := by
  apply bit_of
  have := b2n_lt b
  have e := bits_inside (j := 0) (m := 1) h (by decide)
  simp only [Nat.add_zero] at e
  rw [e]; omega
theorem high4_of {w lo : Nat} {b : Bool} (h : bits w lo 5 = b2n b) : bits w (lo + 1) 4 = 0 := by
  have := b2n_lt b
  rw [bits_inside (j := 1) (m := 4) h (by decide)]; omega
theorem bit_of3 {w lo : Nat} {b : Bool} (h : bits w lo 3 = b2n b) : bit w lo = b := by
  apply bit_of
  have := b2n_lt b
  have e := bits_inside (j := 0) (m := 1) h (by decide)
  simp only [Nat.add_zero] at e
  rw [e]; omega
theorem high2_of3 {w : Nat} {b : Bool} (h : bits w 8 3 = b2n b) : bits w 9 2 = 0 := by
  have := b2n_lt b
  rw [bits_inside (w := w) (lo := 8) (j := 1) (m := 2) h (by decide)]; omega
theorem low4_of {w v : Nat} (h : bits w 0 8 = v) : bits w 0 4 = v % 16 := by
  simpa using bits_inside (j := 0) (m := 4) h (by decide)
theorem high4_of8 {w v : Nat} (h : bits w 0 8 = v) : bits w 4 4 = v / 16 % 16 := by
  simpa using bits_inside (lo := 0) (j := 4) (m := 4) h (by decide)
theorem zero8 {w : Nat} (hb : bits w 11 5 = 0) (hx : bits w 8 3 = 0) : bits w 8 8 = 0 := by
  exact bits_zero (m := 3) (n := 5) hx hb
theorem zero13 {w : Nat} (ha : bits w 16 5 = 0) (hb : bits w 11 5 = 0) (hx : bits w 8 3 = 0) : bits w 8 13 = 0 := by
  exact bits_zero (m := 8) (n := 5) (zero8 hb hx) ha
theorem zero18 {w : Nat} (hd : bits w 21 5 = 0) (ha : bits w 16 5 = 0) (hb : bits w 11 5 = 0) (hx : bits w 8 3 = 0) :
    bits w 8 18 = 0 := by
  exact bits_zero (m := 13) (n := 5) (zero13 ha hb hx) hd
theorem zero16 {w : Nat} (hd : bits w 21 5 = 0) (ha : bits w 16 5 = 0) : bits w 16 10 = 0 := by
  exact bits_zero (m := 5) (n := 5) ha hd
theorem zero4 {w : Nat} (hd : bits w 21 5 = 0) (ha : bits w 16 5 = 0) (hc : bits w 4 12 = 0) : bits w 4 22 = 0 := by
  exact bits_zero (m := 12) (n := 10) hc (zero16 hd ha)
theorem shi_fields {w : Nat} {k : ShiftKind} {n : Fin 64} (h : bits w 0 16 = k.code * 2 ^ 8 + n.val) :
    bits w 10 6 = 0 ∧ bits w 6 2 = 0 ∧ bits w 8 2 = k.code ∧
      (⟨w % 64, Nat.mod_lt _ (by decide)⟩ : Fin 64) = n := by
  have := k.code_lt
  have e (j m : Nat) (hj : j + m ≤ 16) : bits w j m = (k.code * 2 ^ 8 + n.val) / 2 ^ j % 2 ^ m := by
    simpa using bits_inside (lo := 0) h hj
  refine ⟨by rw [e _ _ (by decide)]; omega, by rw [e _ _ (by decide)]; omega, by rw [e _ _ (by decide)]; omega, ?_⟩
  apply Fin.ext
  have e0 := e 0 6 (by decide)
  simp only [bits, Nat.pow_zero, Nat.div_one] at e0
  show w % 64 = _
  omega
theorem imm10_of {w : Nat} {v : BitVec 10} (hl : bits w 11 5 = v.toNat % 32) (hh : bits w 16 5 = v.toNat / 32) :
    bits w 11 10 = v.toNat := by
  rw [bits_join (m := 5) (n := 5) hl hh]; omega
theorem amo_func {w l o p : Nat} (hl : l < 2) (ho : o < 4) (hp : p < 32) (h : bits w 0 8 = l * 2 ^ 7 + o * 2 ^ 5 +
    p) :
    bits w 0 5 = p ∧ bits w 5 2 = o ∧ bits w 7 1 = l := by
  have e (j m : Nat) (hj : j + m ≤ 8) : bits w j m = (l * 2 ^ 7 + o * 2 ^ 5 + p) / 2 ^ j % 2 ^ m := by
    simpa using bits_inside (lo := 0) h hj
  refine ⟨by rw [e _ _ (by decide)]; omega, by rw [e _ _ (by decide)]; omega, by rw [e _ _ (by decide)]; omega⟩
theorem acq_low {w : Nat} {b : Bool} (h : bits w 11 2 = b2n b) : bit w 11 = b := by
  apply bit_of; have := b2n_lt b
  have e := bits_inside (j := 0) (m := 1) h (by decide)
  simp only [Nat.add_zero] at e
  rw [e]; omega
theorem acq_high {w : Nat} {b : Bool} (h : bits w 11 2 = b2n b) : bit w 12 = false := by
  apply bit_of; have := b2n_lt b
  rw [bits_inside (w := w) (lo := 11) (j := 1) (m := 1) h (by decide)]; show _ = 0; omega
theorem rel_low {w : Nat} {b : Bool} (h : bits w 11 2 = b2n b * 2) : bit w 11 = false := by
  apply bit_of; have := b2n_lt b
  have e := bits_inside (j := 0) (m := 1) h (by decide)
  simp only [Nat.add_zero] at e
  rw [e]; cases b <;> rfl
theorem rel_high {w : Nat} {b : Bool} (h : bits w 11 2 = b2n b * 2) : bit w 12 = b := by
  apply bit_of; have := b2n_lt b
  rw [bits_inside (w := w) (lo := 11) (j := 1) (m := 1) h (by decide)]; omega
theorem acq_low8 {w : Nat} {b : Bool} (h : bits w 8 2 = b2n b) : bit w 8 = b := by
  apply bit_of; have := b2n_lt b
  have e := bits_inside (j := 0) (m := 1) h (by decide)
  simp only [Nat.add_zero] at e
  rw [e]; omega
theorem acq_high9 {w : Nat} {b : Bool} (h : bits w 8 2 = b2n b) : bit w 9 = false := by
  apply bit_of; have := b2n_lt b
  rw [bits_inside (w := w) (lo := 8) (j := 1) (m := 1) h (by decide)]; show _ = 0; omega
theorem rel_low8 {w : Nat} {b : Bool} (h : bits w 8 2 = b2n b * 2) : bit w 8 = false := by
  apply bit_of; have := b2n_lt b
  have e := bits_inside (j := 0) (m := 1) h (by decide)
  simp only [Nat.add_zero] at e
  rw [e]; cases b <;> rfl
theorem rel_high9 {w : Nat} {b : Bool} (h : bits w 8 2 = b2n b * 2) : bit w 9 = b := by
  apply bit_of; have := b2n_lt b
  rw [bits_inside (w := w) (lo := 8) (j := 1) (m := 1) h (by decide)]; omega
theorem ord3 {w : Nat} (ho : bits w 11 2 = 0) (hf : bits w 13 1 = 0) : bits w 11 3 = 0 := by
  exact bits_zero (m := 2) (n := 1) ho hf
theorem mid8 {w : Nat} (hfb : bits w 9 4 = 0) (hfa : bits w 13 4 = 0) : bits w 9 8 = 0 := by
  exact bits_zero (m := 4) (n := 4) hfb hfa
theorem pair5 {w : Nat} (hz : bits w 5 1 = 0) (hh : bits w 6 1 = 0) : bits w 5 2 = 0 := by
  exact bits_zero (m := 1) (n := 1) hz hh
theorem triple5 {w : Nat} (hz : bits w 5 1 = 0) (hh : bits w 6 1 = 0) (hf : bits w 7 1 = 0) : bits w 5 3 = 0 := by
  exact bits_zero (m := 2) (n := 1) (pair5 hz hh) hf
theorem mst_zero {w : Nat} (hz : bits w 5 1 = 0) (hh : bits w 6 1 = 0) (hf : bits w 7 1 = 0) (hl : bits w 8 1 = 0)
    (hb : bits w 9 4 = 0) : bits w 5 8 = 0 := by
  exact bits_zero (m := 4) (n := 4) (bits_zero (m := 3) (n := 1) (triple5 hz hh hf) hl) hb
theorem mtag_zero {w : Nat} (hz : bits w 5 1 = 0) (hh : bits w 6 1 = 0) (hf : bits w 7 1 = 0) (hl : bits w 8 1 = 0)
    (hb : bits w 9 4 = 0) (ha : bits w 13 4 = 0) : bits w 5 12 = 0 := by
  exact bits_zero (m := 8) (n := 4) (mst_zero hz hh hf hl hb) ha
theorem mzero_zero {w : Nat} (hz : bits w 5 1 = 0) (hh : bits w 6 1 = 0) (hf : bits w 7 1 = 0) (hl : bits w 8 1 = 0)
    (hb : bits w 9 4 = 0) (ha : bits w 13 4 = 0) (hr : bits w 17 5 = 0) : bits w 5 17 = 0 := by
  exact bits_zero (m := 12) (n := 5) (mtag_zero hz hh hf hl hb ha) hr
theorem mwait_zero {w : Nat} (hz : bits w 5 1 = 0) (hh : bits w 6 1 = 0) (hf : bits w 7 1 = 0) (hl : bits w 8 1 = 0)
    (hb : bits w 9 4 = 0) (ha : bits w 13 4 = 0) (hr : bits w 17 5 = 0) (hc : bits w 22 4 = 0) : bits w 5 21 = 0 := by
  exact bits_zero (m := 17) (n := 4) (mzero_zero hz hh hf hl hb ha hr) hc
theorem sw_flag {w : Nat} {b : Bool} (h : bits w 56 3 = b2n b) : bits w 57 2 = 0 ∧ bit w 56 = b := by
  have := b2n_lt b
  refine ⟨by rw [bits_inside (w := w) (lo := 56) (j := 1) (m := 2) h (by decide)]; omega, bit_of ?_⟩
  have e := bits_inside (j := 0) (m := 1) h (by decide)
  simp only [Nat.add_zero] at e
  rw [e]; omega
theorem sw_counter {w : Nat} {c : Fin 2} (h : bits w 56 3 = c.val) : bits w 57 2 = 0 ∧ counterAt w = c := by
  refine ⟨by rw [bits_inside (w := w) (lo := 56) (j := 1) (m := 2) h (by decide)]; omega, counterAt_of ?_⟩
  have e := bits_inside (j := 0) (m := 1) h (by decide)
  simp only [Nat.add_zero] at e
  rw [e]; omega
theorem aux_part {w v : Nat} (h : bits w 32 12 = v) (j m : Nat) (hj : j + m ≤ 12) :
    bits w (32 + j) m = v / 2 ^ j % 2 ^ m := bits_inside h hj
theorem signal_aux {w : Nat} {k : Fin 8} (h : bits w 32 12 = k.val) : bits w 35 9 = 0 ∧ signalAt w = k := by
  have e3 := aux_part h 3 9 (by decide)
  have e0 := aux_part h 0 3 (by decide)
  exact ⟨by rw [e3]; omega, signalAt_of (by rw [e0]; omega)⟩
theorem target_aux {w : Nat} {t : Fin 2048} (h : bits w 32 12 = t.val) : bits w 43 1 = 0 ∧ targetAt w = t := by
  have e3 := aux_part h 11 1 (by decide)
  have e0 := aux_part h 0 11 (by decide)
  exact ⟨by rw [e3]; omega, targetAt_of (by rw [e0]; omega)⟩
theorem port_aux {w a : Nat} (ha : a < 11) (h : bits w 32 12 = a) : bits w 32 4 = a ∧ bits w 36 8 = 0 := by
  have e0 := aux_part h 0 4 (by decide)
  have e4 := aux_part h 4 8 (by decide)
  exact ⟨by rw [e0]; omega, by rw [e4]; omega⟩
theorem sxor_aux {w a b : Nat} (ha : a < 11) (hb : b < 11) (h : bits w 32 12 = a + b * 16) :
    bits w 32 4 = a ∧ bits w 36 4 = b ∧ bits w 40 4 = 0 := by
  have e0 := aux_part h 0 4 (by decide)
  have e4 := aux_part h 4 4 (by decide)
  have e8 := aux_part h 8 4 (by decide)
  exact ⟨by rw [e0]; omega, by rw [e4]; omega, by rw [e8]; omega⟩

/-! ### Shapes of encodings -/

/-- A word by a name of its own. -/
theorem of_word {α : Type} {D : Nat → α} {y : α} {v : Nat} (h : ∀ w, w = v → D w = y) : D v = y := h v rfl

theorem rt_alu2 {f : Nat} {c : Reg → Reg → Reg → Instr} (h : aluBinary f = some c) (hf : f < 256) (d a b : Reg) :
    decodeCore (encR 0x01 d.val a.val b.val 0 f) = .ok (c d a b) :=
  of_encR fun w f0 f1 f2 f3 f4 f5 => by
    simp [decodeCore, f0, decodeAlu, f4, f5, h, need, regAt_of f1, regAt_of f2, regAt_of f3]
theorem rt_alu1 {f : Nat} {c : Reg → Reg → Instr} (h : aluBinary f = none) (h' : aluUnary f = some c) (hf : f < 256)
    (d a : Reg) : decodeCore (encR 0x01 d.val a.val 0 0 f) = .ok (c d a) :=
  of_encR fun w f0 f1 f2 f3 f4 f5 => by
    simp [decodeCore, f0, decodeAlu, f3, f4, f5, h, h', need, orBad, regAt_of f1, regAt_of f2]
theorem rt_engine {f : Nat} {c : Reg → Reg → Instr} (h : engineOnly f = some c) (hf : f < 256) (d a : Reg) :
    decodeCore (encR 0x3E d.val a.val 0 0 f) = .ok (c d a) :=
  of_encR fun w f0 f1 f2 f3 f4 f5 => by
    simp [decodeCore, f0, decodeEngine, zero8 f3 f4, f5, h, need, orBad, regAt_of f1, regAt_of f2]
theorem rt_imm {m : Nat} {c : Reg → Reg → BitVec 16 → Instr} (hm : m < 64)
    (h : ∀ w, bits w 26 6 = m → decodeCore w = .ok (c (regAt w 21) (regAt w 16) (fieldAt w 0 16))) (d a : Reg)
    (imm : BitVec 16) : decodeCore (encI m d.val a.val imm.toNat) = .ok (c d a imm) :=
  of_encI fun w f0 f1 f2 f3 => by rw [h w f0, regAt_of f1, regAt_of f2, fieldAt_of f3]
theorem rt_gather {f : Nat} {c : Reg → Reg → Reg → Reg8 → Instr} (h : gatherScatter f = some c) (hf : f < 16)
    (d a b : Reg) (x : Reg8) : decodeCore (encV 0x2A d.val a.val b.val x.val 0 f) = .ok (c d a b x) :=
  of_encV fun w f0 f1 f2 f3 f4 f5 f6 => by
    simp [decodeCore, f0, decodeGather, f5, f6, h, need, orBad, regAt_of f1, regAt_of f2, regAt_of f3, reg8At_of f4]
theorem rt_special {f : Nat} {c : Reg → Reg → Reg8 → Instr} (h : vecSpecial f = some c) (hf : f < 16)
    (d a : Reg) (x : Reg8) : decodeCore (encV 0x27 d.val a.val 0 x.val 0 f) = .ok (c d a x) :=
  of_encV fun w f0 f1 f2 f3 f4 f5 f6 => by
    simp [decodeCore, f0, decodeSpecial, f3, f5, f6, h, need, orBad, regAt_of f1, regAt_of f2, reg8At_of f4]
theorem rt_convert {f : Nat} {c : VType → VType → Reg → Reg → Reg8 → Instr} (h : vecConvert f = some c) (hf : f < 16)
    (dt st : VType) (d a : Reg) (x : Reg8) :
    decodeCore (encV 0x26 d.val a.val st.code x.val dt.code f) = .ok (c dt st d a x) := by
  have := dt.code_lt; have hs := st.code_lt
  exact of_encV fun w f0 f1 f2 f3 f4 f5 f6 => by
    have g0 : bits w 11 4 = st.code := by
      have e := bits_inside (j := 0) (m := 4) f3 (by decide)
      simp only [Nat.add_zero] at e
      rw [e]; omega
    have g1 : bit w 15 = false := bit_of (by
      rw [bits_inside (w := w) (lo := 11) (j := 4) (m := 1) f3 (by decide)]; show _ = 0; omega)
    simp [decodeCore, f0, decodeConvert, f5, f6, g0, g1, h, need, orBad, regAt_of f1, regAt_of f2, reg8At_of f4]
theorem rt_compare {f : Nat} {c : VType → Reg8 → Reg → Reg → Reg8 → Instr} {t : VType} (h : vecCompare f = some c)
    (hf : f < 16) (ht : f = 4 → t.isFpOp = true) (md : Reg8) (a b : Reg) (x : Reg8) :
    decodeCore (encV 0x23 md.val a.val b.val x.val t.code f) = .ok (c t md a b x) := by
  have := t.code_lt
  have ht' : (f != 4 || t.isFpOp) = true := by
    by_cases e : f = 4
    · simp [ht e]
    · simp [e]
  exact of_encV fun w f0 f1 f2 f3 f4 f5 f6 => by
    simp only [decodeCore, f0, decodeCompare, f5, f6, h, need, orBad, VType.ofCode_code, ht',
      (high2_of f1 : bits w 24 2 = 0), reg8At_of5 f1, regAt_of f2, regAt_of f3, reg8At_of f4]
    rfl
theorem rt_reduce {f : Nat} {c : VType → Reg → Reg → Reg8 → Instr} {t : VType} (h : vec25Unary f = some c)
    (hf : f < 16) (ht : (if f == 0 then t.isFpOp else if f == 3 then t.isIntOp else true) = true) (d a : Reg)
    (x : Reg8) : decodeCore (encV 0x25 d.val a.val 0 x.val t.code f) = .ok (c t d a x) := by
  have := t.code_lt
  exact of_encV fun w f0 f1 f2 f3 f4 f5 f6 => by
    simp only [decodeCore, f0, decodeReduce, decodeVUn, f3, f5, f6, h, ht, need, orBad, VType.ofCode_code,
        regAt_of f1,
      regAt_of f2, reg8At_of f4]
    rfl

theorem vbin_of {tbl : Nat → Option (VType → Reg → Reg → Reg → Reg8 → Instr)} {ok : VType → Bool} {w f : Nat}
    {c : VType → Reg → Reg → Reg → Reg8 → Instr} {other : Except DecodeError Instr} {t : VType} {d a b : Reg}
    {x : Reg8} (h : tbl f = some c) (ht : ok t = true) (f1 : bits w 21 5 = d.val) (f2 : bits w 16 5 = a.val)
    (f3 : bits w 11 5 = b.val) (f4 : bits w 8 3 = x.val) (f5 : bits w 4 4 = t.code) (f6 : bits w 0 4 = f) :
    decodeVBin tbl ok w other = .ok (c t d a b x) := by
  simp [decodeVBin, f5, f6, h, ht, need, orBad, regAt_of f1, regAt_of f2, regAt_of f3, reg8At_of f4]
theorem vun_of {tbl' : Nat → Option (VType → Reg → Reg → Reg → Reg8 → Instr)}
    {tbl : Nat → Option (VType → Reg → Reg → Reg8 → Instr)} {ok : VType → Bool} {w f : Nat}
    {c : VType → Reg → Reg → Reg8 → Instr} {t : VType} {d a : Reg} {x : Reg8} (h' : tbl' f = none)
    (h : tbl f = some c) (ht : ok t = true) (f1 : bits w 21 5 = d.val) (f2 : bits w 16 5 = a.val)
    (f3 : bits w 11 5 = 0) (f4 : bits w 8 3 = x.val) (f5 : bits w 4 4 = t.code) (f6 : bits w 0 4 = f) :
    decodeVBin tbl' ok w (decodeVUn tbl ok w) = .ok (c t d a x) := by
  simp [decodeVBin, decodeVUn, f3, f5, f6, h, h', ht, need, orBad, regAt_of f1, regAt_of f2, reg8At_of f4]
theorem rt_vbin20 {f : Nat} {c : VType → Reg → Reg → Reg → Reg8 → Instr} {t : VType} (h : vec20Binary f = some c)
    (hf : f < 16) (ht : VType.isFpOp t = true) (d a b : Reg) (x : Reg8) :
    decodeCore (encV 0x20 d.val a.val b.val x.val t.code f) = .ok (c t d a b x) := by
  have := t.code_lt
  exact of_encV fun w f0 f1 f2 f3 f4 f5 f6 => by
    simp only [decodeCore, f0]
    exact vbin_of h ht f1 f2 f3 f4 f5 f6
theorem rt_vun20 {f : Nat} {c : VType → Reg → Reg → Reg8 → Instr} {t : VType} (h' : vec20Binary f = none)
    (h : vec20Unary f = some c) (hf : f < 16) (ht : VType.isFpOp t = true) (d a : Reg) (x : Reg8) :
    decodeCore (encV 0x20 d.val a.val 0 x.val t.code f) = .ok (c t d a x) := by
  have := t.code_lt
  exact of_encV fun w f0 f1 f2 f3 f4 f5 f6 => by
    simp only [decodeCore, f0]
    exact vun_of h' h ht f1 f2 f3 f4 f5 f6
theorem rt_vbin21 {f : Nat} {c : VType → Reg → Reg → Reg → Reg8 → Instr} {t : VType} (h : vec21Binary f = some c)
    (hf : f < 16) (ht : VType.isFpOp t = true) (d a b : Reg) (x : Reg8) :
    decodeCore (encV 0x21 d.val a.val b.val x.val t.code f) = .ok (c t d a b x) := by
  have := t.code_lt
  exact of_encV fun w f0 f1 f2 f3 f4 f5 f6 => by
    simp only [decodeCore, f0]
    exact vbin_of h ht f1 f2 f3 f4 f5 f6
theorem rt_vbin22 {f : Nat} {c : VType → Reg → Reg → Reg → Reg8 → Instr} {t : VType} (h : vec22Binary f = some c)
    (hf : f < 16) (ht : VType.isIntOp t = true) (d a b : Reg) (x : Reg8) :
    decodeCore (encV 0x22 d.val a.val b.val x.val t.code f) = .ok (c t d a b x) := by
  have := t.code_lt
  exact of_encV fun w f0 f1 f2 f3 f4 f5 f6 => by
    simp only [decodeCore, f0]
    exact vbin_of h ht f1 f2 f3 f4 f5 f6
theorem rt_vun22 {f : Nat} {c : VType → Reg → Reg → Reg8 → Instr} {t : VType} (h' : vec22Binary f = none)
    (h : vec22Unary f = some c) (hf : f < 16) (ht : VType.isIntOp t = true) (d a : Reg) (x : Reg8) :
    decodeCore (encV 0x22 d.val a.val 0 x.val t.code f) = .ok (c t d a x) := by
  have := t.code_lt
  exact of_encV fun w f0 f1 f2 f3 f4 f5 f6 => by
    simp only [decodeCore, f0]
    exact vun_of h' h ht f1 f2 f3 f4 f5 f6
theorem rt_vbin24 {f : Nat} {c : VType → Reg → Reg → Reg → Reg8 → Instr} (h : vec24Binary f = some c)
    (hf : f < 16) (t : VType) (d a b : Reg) (x : Reg8) :
    decodeCore (encV 0x24 d.val a.val b.val x.val t.code f) = .ok (c t d a b x) := by
  have := t.code_lt
  exact of_encV fun w f0 f1 f2 f3 f4 f5 f6 => by
    simp only [decodeCore, f0]
    exact vbin_of h rfl f1 f2 f3 f4 f5 f6
theorem rt_vun24 {f : Nat} {c : VType → Reg → Reg → Reg8 → Instr} (h' : vec24Binary f = none)
    (h : vec24Unary f = some c) (hf : f < 16) (t : VType) (d a : Reg) (x : Reg8) :
    decodeCore (encV 0x24 d.val a.val 0 x.val t.code f) = .ok (c t d a x) := by
  have := t.code_lt
  exact of_encV fun w f0 f1 f2 f3 f4 f5 f6 => by
    simp only [decodeCore, f0]
    exact vun_of h' h rfl f1 f2 f3 f4 f5 f6

theorem rt_row {op : Nat} {c : AccNo → Reg → Fin 32 → Bool → Instr} (hop : op < 2)
    (h : ∀ w, bits w 26 6 = 0x32 → bits w 0 5 = op → bits w 5 6 = 0 →
      decodeCore w = .ok (c (accAt w) (regAt w 17) (regAt w 12) (bit w 11))) (k : AccNo) (v : Reg) (row : Fin 32)
    (half : Bool) :
    decodeCore (0x32 * 2 ^ 26 + k.val * 2 ^ 22 + v.val * 2 ^ 17 + row.val * 2 ^ 12 + b2n half * 2 ^ 11 + op) =
      .ok (c k v row half) := by
  have := b2n_lt half
  refine of_word fun w hw => ?_
  rw [h w (by unfold bits; omega) (by unfold bits; omega) (by unfold bits; omega),
    accAt_of (c := k) (by unfold bits; omega), regAt_of (lo := 17) (r := v) (by unfold bits; omega),
    regAt_of (lo := 12) (r := row) (by unfold bits; omega), bit_of (b := half) (by unfold bits; omega)]
theorem rt_jump {m : Nat} {c : BitVec 26 → Instr} (hm : m < 64)
    (h : ∀ w, bits w 26 6 = m → decodeCore w = .ok (c (fieldAt w 0 26))) (off : BitVec 26) :
    decodeCore (m * 2 ^ 26 + off.toNat) = .ok (c off) := by
  refine of_word fun w hw => ?_
  rw [h w (by unfold bits; omega), fieldAt_of (n := 26) (v := off) (by unfold bits; omega)]
theorem rt_branch (c : Cond) (a b : Reg) (off : BitVec 13) :
    decodeCore (0x12 * 2 ^ 26 + a.val * 2 ^ 21 + b.val * 2 ^ 16 + c.code * 2 ^ 13 + off.toNat) = .ok (.b c a b off)
        := by
  have := c.code_lt
  refine of_word fun w hw => ?_
  have f0 : bits w 26 6 = 0x12 := by unfold bits; omega
  have f1 : bits w 21 5 = a.val := by unfold bits; omega
  have f2 : bits w 16 5 = b.val := by unfold bits; omega
  have f3 : bits w 13 3 = c.code := by unfold bits; omega
  have f4 : bits w 0 13 = off.toNat := by unfold bits; omega
  simp [decodeCore, f0, f3, orBad, regAt_of f1, regAt_of f2, fieldAt_of f4]
theorem rt_loop (k : Fin 2) (a : Reg) (body : Fin 8192) (h : (body.val != 0) = true) :
    decodeCore (0x15 * 2 ^ 26 + k.val * 2 ^ 25 + a.val * 2 ^ 16 + body.val) = .ok (.loop k a body) := by
  refine of_word fun w hw => ?_
  have f0 : bits w 26 6 = 0x15 := by unfold bits; omega
  have f1 : bits w 21 4 = 0 := by unfold bits; omega
  have f2 : bits w 16 5 = a.val := by unfold bits; omega
  have f3 : bits w 13 3 = 0 := by unfold bits; omega
  have f4 : bits w 0 13 = body.val := by unfold bits; omega
  have f5 : bits w 25 1 = k.val := by unfold bits; omega
  simp only [decodeCore, f0, f1, f3, f4, h, need, levelAt_of f5, regAt_of f2, bodyAt_of f4]
  rfl
theorem rt_loopi (k : Fin 2) (n : Fin 4096) (body : Fin 8192) (h : (body.val != 0) = true) :
    decodeCore (0x16 * 2 ^ 26 + k.val * 2 ^ 25 + n.val * 2 ^ 13 + body.val) = .ok (.loopi k n body) := by
  refine of_word fun w hw => ?_
  have f0 : bits w 26 6 = 0x16 := by unfold bits; omega
  have f1 : bits w 13 12 = n.val := by unfold bits; omega
  have f4 : bits w 0 13 = body.val := by unfold bits; omega
  have f5 : bits w 25 1 = k.val := by unfold bits; omega
  have f6 : (⟨w / 2 ^ 13 % 4096, Nat.mod_lt _ (by decide)⟩ : Fin 4096) = n := Fin.ext f1
  simp only [decodeCore, f0, f4, h, need, levelAt_of f5, bodyAt_of f4, f6]
  rfl

/-! ### The family -/

/-- A well-formed core or switch instruction is what the decoder reads from its word. -/
def RoundTrip.Statement (i : Instr) : Prop :=
  i.wf = true → (i.isCore = true → decodeCore (encode i) = .ok i) ∧
    (i.isSwitch = true → decodeSwitch (encode i) = .ok i)

theorem RoundTrip.Statement.core {i : Instr} (hs : i.isSwitch = false)
    (h : i.wf = true → decodeCore (encode i) = .ok i) : RoundTrip.Statement i :=
  fun hw => ⟨fun _ => h hw, fun e => absurd (hs.symm.trans e) (by decide)⟩
theorem RoundTrip.Statement.switch {i : Instr} (hs : i.isCore = false)
    (h : i.wf = true → decodeSwitch (encode i) = .ok i) : RoundTrip.Statement i :=
  fun hw => ⟨fun e => absurd (hs.symm.trans e) (by decide), fun _ => h hw⟩

theorem RoundTrip.add (d a b : Reg) : RoundTrip.Statement (.add d a b) :=
  .core rfl fun _ => rt_alu2 rfl (by decide) d a b
theorem RoundTrip.sub (d a b : Reg) : RoundTrip.Statement (.sub d a b) :=
  .core rfl fun _ => rt_alu2 rfl (by decide) d a b
theorem RoundTrip.and (d a b : Reg) : RoundTrip.Statement (.and d a b) :=
  .core rfl fun _ => rt_alu2 rfl (by decide) d a b
theorem RoundTrip.or (d a b : Reg) : RoundTrip.Statement (.or d a b) :=
  .core rfl fun _ => rt_alu2 rfl (by decide) d a b
theorem RoundTrip.xor (d a b : Reg) : RoundTrip.Statement (.xor d a b) :=
  .core rfl fun _ => rt_alu2 rfl (by decide) d a b
theorem RoundTrip.andn (d a b : Reg) : RoundTrip.Statement (.andn d a b) :=
  .core rfl fun _ => rt_alu2 rfl (by decide) d a b
theorem RoundTrip.shl (d a b : Reg) : RoundTrip.Statement (.shl d a b) :=
  .core rfl fun _ => rt_alu2 rfl (by decide) d a b
theorem RoundTrip.shr (d a b : Reg) : RoundTrip.Statement (.shr d a b) :=
  .core rfl fun _ => rt_alu2 rfl (by decide) d a b
theorem RoundTrip.sra (d a b : Reg) : RoundTrip.Statement (.sra d a b) :=
  .core rfl fun _ => rt_alu2 rfl (by decide) d a b
theorem RoundTrip.rot (d a b : Reg) : RoundTrip.Statement (.rot d a b) :=
  .core rfl fun _ => rt_alu2 rfl (by decide) d a b
theorem RoundTrip.min (d a b : Reg) : RoundTrip.Statement (.min d a b) :=
  .core rfl fun _ => rt_alu2 rfl (by decide) d a b
theorem RoundTrip.max (d a b : Reg) : RoundTrip.Statement (.max d a b) :=
  .core rfl fun _ => rt_alu2 rfl (by decide) d a b
theorem RoundTrip.minN (d a b : Reg) : RoundTrip.Statement (.minN d a b) :=
  .core rfl fun _ => rt_alu2 rfl (by decide) d a b
theorem RoundTrip.maxN (d a b : Reg) : RoundTrip.Statement (.maxN d a b) :=
  .core rfl fun _ => rt_alu2 rfl (by decide) d a b
theorem RoundTrip.addw (d a b : Reg) : RoundTrip.Statement (.addw d a b) :=
  .core rfl fun _ => rt_alu2 rfl (by decide) d a b
theorem RoundTrip.subw (d a b : Reg) : RoundTrip.Statement (.subw d a b) :=
  .core rfl fun _ => rt_alu2 rfl (by decide) d a b
theorem RoundTrip.clz (d a : Reg) : RoundTrip.Statement (.clz d a) :=
  .core rfl fun _ => rt_alu1 rfl rfl (by decide) d a
theorem RoundTrip.ctz (d a : Reg) : RoundTrip.Statement (.ctz d a) :=
  .core rfl fun _ => rt_alu1 rfl rfl (by decide) d a
theorem RoundTrip.popc (d a : Reg) : RoundTrip.Statement (.popc d a) :=
  .core rfl fun _ => rt_alu1 rfl rfl (by decide) d a
theorem RoundTrip.sextB (d a : Reg) : RoundTrip.Statement (.sextB d a) :=
  .core rfl fun _ => rt_alu1 rfl rfl (by decide) d a
theorem RoundTrip.sextH (d a : Reg) : RoundTrip.Statement (.sextH d a) :=
  .core rfl fun _ => rt_alu1 rfl rfl (by decide) d a
theorem RoundTrip.sextW (d a : Reg) : RoundTrip.Statement (.sextW d a) :=
  .core rfl fun _ => rt_alu1 rfl rfl (by decide) d a
theorem RoundTrip.zextB (d a : Reg) : RoundTrip.Statement (.zextB d a) :=
  .core rfl fun _ => rt_alu1 rfl rfl (by decide) d a
theorem RoundTrip.zextH (d a : Reg) : RoundTrip.Statement (.zextH d a) :=
  .core rfl fun _ => rt_alu1 rfl rfl (by decide) d a
theorem RoundTrip.zextW (d a : Reg) : RoundTrip.Statement (.zextW d a) :=
  .core rfl fun _ => rt_alu1 rfl rfl (by decide) d a
theorem RoundTrip.bfx (d a b : Reg) : RoundTrip.Statement (.bfx d a b) :=
  .core rfl fun _ => rt_alu2 rfl (by decide) d a b
theorem RoundTrip.bfi (d a b : Reg) : RoundTrip.Statement (.bfi d a b) :=
  .core rfl fun _ => rt_alu2 rfl (by decide) d a b
theorem RoundTrip.sel (d a b : Reg) : RoundTrip.Statement (.sel d a b) :=
  .core rfl fun _ => rt_alu2 rfl (by decide) d a b
theorem RoundTrip.mul (d a b : Reg) : RoundTrip.Statement (.mul d a b) :=
  .core rfl fun _ => rt_alu2 rfl (by decide) d a b
theorem RoundTrip.mulh (d a b : Reg) : RoundTrip.Statement (.mulh d a b) :=
  .core rfl fun _ => rt_alu2 rfl (by decide) d a b
theorem RoundTrip.mulhN (d a b : Reg) : RoundTrip.Statement (.mulhN d a b) :=
  .core rfl fun _ => rt_alu2 rfl (by decide) d a b
theorem RoundTrip.div (d a b : Reg) : RoundTrip.Statement (.div d a b) :=
  .core rfl fun _ => rt_alu2 rfl (by decide) d a b
theorem RoundTrip.divN (d a b : Reg) : RoundTrip.Statement (.divN d a b) :=
  .core rfl fun _ => rt_alu2 rfl (by decide) d a b
theorem RoundTrip.rem (d a b : Reg) : RoundTrip.Statement (.rem d a b) :=
  .core rfl fun _ => rt_alu2 rfl (by decide) d a b
theorem RoundTrip.remN (d a b : Reg) : RoundTrip.Statement (.remN d a b) :=
  .core rfl fun _ => rt_alu2 rfl (by decide) d a b
theorem RoundTrip.seq (d a b : Reg) : RoundTrip.Statement (.seq d a b) :=
  .core rfl fun _ => rt_alu2 rfl (by decide) d a b
theorem RoundTrip.sne (d a b : Reg) : RoundTrip.Statement (.sne d a b) :=
  .core rfl fun _ => rt_alu2 rfl (by decide) d a b
theorem RoundTrip.slt (d a b : Reg) : RoundTrip.Statement (.slt d a b) :=
  .core rfl fun _ => rt_alu2 rfl (by decide) d a b
theorem RoundTrip.sltN (d a b : Reg) : RoundTrip.Statement (.sltN d a b) :=
  .core rfl fun _ => rt_alu2 rfl (by decide) d a b
theorem RoundTrip.sle (d a b : Reg) : RoundTrip.Statement (.sle d a b) :=
  .core rfl fun _ => rt_alu2 rfl (by decide) d a b
theorem RoundTrip.sleN (d a b : Reg) : RoundTrip.Statement (.sleN d a b) :=
  .core rfl fun _ => rt_alu2 rfl (by decide) d a b
theorem RoundTrip.addi (d a : Reg) (imm : BitVec 16) : RoundTrip.Statement (.addi d a imm) :=
  .core rfl fun _ => rt_imm (by decide) (fun w h => by simp [decodeCore, h]) d a imm
theorem RoundTrip.andi (d a : Reg) (imm : BitVec 16) : RoundTrip.Statement (.andi d a imm) :=
  .core rfl fun _ => rt_imm (by decide) (fun w h => by simp [decodeCore, h]) d a imm
theorem RoundTrip.ori (d a : Reg) (imm : BitVec 16) : RoundTrip.Statement (.ori d a imm) :=
  .core rfl fun _ => rt_imm (by decide) (fun w h => by simp [decodeCore, h]) d a imm
theorem RoundTrip.xori (d a : Reg) (imm : BitVec 16) : RoundTrip.Statement (.xori d a imm) :=
  .core rfl fun _ => rt_imm (by decide) (fun w h => by simp [decodeCore, h]) d a imm
theorem RoundTrip.shi (k : ShiftKind) (d a : Reg) (n : Fin 64) : RoundTrip.Statement (.shi k d a n) :=
  .core rfl fun _ => by
    have := k.code_lt
    exact of_encI fun w f0 f1 f2 f3 => by
      simp [decodeCore, f0, decodeShi, shi_fields f3, regAt_of f1, regAt_of f2, need]
theorem RoundTrip.ldi (d : Reg) (imm : BitVec 16) : RoundTrip.Statement (.ldi d imm) :=
  .core rfl fun _ => of_encI fun w f0 f1 f2 f3 => by
    simp [decodeCore, f0, f2, regAt_of f1, fieldAt_of f3, need]
theorem RoundTrip.ldih (d a : Reg) (imm : BitVec 16) : RoundTrip.Statement (.ldih d a imm) :=
  .core rfl fun _ => rt_imm (by decide) (fun w h => by simp [decodeCore, h]) d a imm
theorem RoundTrip.slti (d a : Reg) (imm : BitVec 16) : RoundTrip.Statement (.slti d a imm) :=
  .core rfl fun _ => rt_imm (by decide) (fun w h => by simp [decodeCore, h]) d a imm
theorem RoundTrip.sltiN (d a : Reg) (imm : BitVec 16) : RoundTrip.Statement (.sltiN d a imm) :=
  .core rfl fun _ => rt_imm (by decide) (fun w h => by simp [decodeCore, h]) d a imm
theorem RoundTrip.j (off : BitVec 26) : RoundTrip.Statement (.j off) :=
  .core rfl fun _ => rt_jump (by decide) (fun w h => by simp [decodeCore, h]) off
theorem RoundTrip.jal (off : BitVec 26) : RoundTrip.Statement (.jal off) :=
  .core rfl fun _ => rt_jump (by decide) (fun w h => by simp [decodeCore, h]) off
theorem RoundTrip.b (c : Cond) (a b : Reg) (off : BitVec 13) : RoundTrip.Statement (.b c a b off) :=
  .core rfl fun _ => rt_branch c a b off
theorem RoundTrip.jalr (d a : Reg) (imm : BitVec 16) : RoundTrip.Statement (.jalr d a imm) :=
  .core rfl fun _ => rt_imm (by decide) (fun w h => by simp [decodeCore, h]) d a imm
theorem RoundTrip.loop (k : Fin 2) (a : Reg) (body : Fin 8192) : RoundTrip.Statement (.loop k a body) :=
  .core rfl fun h => rt_loop k a body h
theorem RoundTrip.loopi (k : Fin 2) (n : Fin 4096) (body : Fin 8192) : RoundTrip.Statement (.loopi k n body) :=
  .core rfl fun h => rt_loopi k n body h
theorem RoundTrip.ldl (z : Size) (sx : Bool) (d a : Reg) (imm : BitVec 11) : RoundTrip.Statement (.ldl z sx d a
    imm) :=
  .core rfl fun h => by
    have := z.code_lt; have := b2n_lt sx; have h2 : (!(z == .d && sx)) = true := h
    exact of_encM fun w f0 f1 f2 f3 f4 f5 f6 => by
      simp [decodeCore, f0, decodeMem, regAt_of f1, regAt_of f2, f3, fieldAt_of f6, bit_of f4, f5, need]
      cases z <;> cases sx <;> simp_all
theorem RoundTrip.stl (z : Size) (d a : Reg) (imm : BitVec 11) : RoundTrip.Statement (.stl z d a imm) :=
  .core rfl fun _ => by
    have := z.code_lt
    exact of_encM fun w f0 f1 f2 f3 f4 f5 f6 => by
      simp [decodeCore, f0, decodeMem, regAt_of f1, regAt_of f2, f3, fieldAt_of f6, bit_of (b := false) f4, f5, need]
theorem RoundTrip.ld (z : Size) (rx acq : Bool) (d a : Reg) (imm : BitVec 11) : RoundTrip.Statement (.ld z rx acq d
    a imm) :=
  .core rfl fun _ => by
    have := z.code_lt; have := b2n_lt rx; have := b2n_lt acq
    exact of_encM fun w f0 f1 f2 f3 f4 f5 f6 => by
      simp [decodeCore, f0, decodeMem, regAt_of f1, regAt_of f2, f3, fieldAt_of f6, bit_of f4, acq_low f5,
          acq_high f5, need]
theorem RoundTrip.st (z : Size) (rx rel : Bool) (d a : Reg) (imm : BitVec 11) : RoundTrip.Statement (.st z rx rel d
    a imm) :=
  .core rfl fun _ => by
    have := z.code_lt; have := b2n_lt rx; have := b2n_lt rel
    exact of_encM fun w f0 f1 f2 f3 f4 f5 f6 => by
      simp [decodeCore, f0, decodeMem, regAt_of f1, regAt_of f2, f3, fieldAt_of f6, bit_of f4, rel_low f5,
          rel_high f5, need]
theorem RoundTrip.ldh (z : Size) (rx acq : Bool) (d : Reg) (h : Reg8) (i : Reg) (imm : BitVec 7) :
    RoundTrip.Statement (.ldh z rx acq d h i imm) :=
  .core rfl fun _ => by
    have := z.code_lt; have := b2n_lt rx; have := b2n_lt acq
    exact of_encH fun w f0 f1 f2 f3 f4 f5 f6 f7 f8 => by
      simp [decodeCore, f0, decodeHandle, regAt_of f1, reg8At_of f2, regAt_of f3, f4, bit_of f5, acq_low8 f6,
          acq_high9 f6, bit_of (b := false) f7, fieldAt_of f8, need]
theorem RoundTrip.sth (z : Size) (rx rel : Bool) (d : Reg) (h : Reg8) (i : Reg) (imm : BitVec 7) :
    RoundTrip.Statement (.sth z rx rel d h i imm) :=
  .core rfl fun _ => by
    have := z.code_lt; have := b2n_lt rx; have := b2n_lt rel
    exact of_encH fun w f0 f1 f2 f3 f4 f5 f6 f7 f8 => by
      simp [decodeCore, f0, decodeHandle, regAt_of f1, reg8At_of f2, regAt_of f3, f4, bit_of f5, rel_low8 f6,
          rel_high9 f6, bit_of (b := true) f7, fieldAt_of f8, need]
theorem RoundTrip.amo (op : AmoOp) (dbl loc : Bool) (ord : Order) (d a b : Reg) : RoundTrip.Statement (.amo op dbl
    loc ord d a b) :=
  .core rfl fun h => by
    have := op.code_lt; have := ord.code_lt; have := b2n_lt loc; have := b2n_lt dbl
    exact of_encR fun w f0 f1 f2 f3 f4 f5 => by
      obtain ⟨g0, g1, g2⟩ := amo_func (by omega) (by omega) (by omega) f5
      simp_all [decodeCore, decodeAmo, need, orBad, bit_of3 f4, high2_of3 f4, bit_of g2, regAt_of f1, regAt_of f2,
          regAt_of f3, Instr.wf]
theorem RoundTrip.xlat (h : Reg8) (a b : Reg) : RoundTrip.Statement (.xlat h a b) :=
  .core rfl fun _ => of_encR fun w f0 f1 f2 f3 f4 f5 => by
    simp [decodeCore, f0, decodeSync, need, reg8At_of5 f1, (high2_of f1 : bits w 24 2 = 0), regAt_of f2,
        regAt_of f3, f4, f5]
theorem RoundTrip.xrel (h : Reg8) : RoundTrip.Statement (.xrel h) :=
  .core rfl fun _ => of_encR fun w f0 f1 f2 f3 f4 f5 => by
    simp [decodeCore, f0, decodeSync, need, reg8At_of5 f1, (high2_of f1 : bits w 24 2 = 0), f5, zero13 f2 f3 f4]
theorem RoundTrip.vaddFp (t : VType) (d a b : Reg) (x : Reg8) : RoundTrip.Statement (.vaddFp t d a b x) :=
  .core rfl fun h => rt_vbin20 rfl (by decide) h d a b x
theorem RoundTrip.vsubFp (t : VType) (d a b : Reg) (x : Reg8) : RoundTrip.Statement (.vsubFp t d a b x) :=
  .core rfl fun h => rt_vbin20 rfl (by decide) h d a b x
theorem RoundTrip.vmulFp (t : VType) (d a b : Reg) (x : Reg8) : RoundTrip.Statement (.vmulFp t d a b x) :=
  .core rfl fun h => rt_vbin20 rfl (by decide) h d a b x
theorem RoundTrip.vminFp (t : VType) (d a b : Reg) (x : Reg8) : RoundTrip.Statement (.vminFp t d a b x) :=
  .core rfl fun h => rt_vbin20 rfl (by decide) h d a b x
theorem RoundTrip.vmaxFp (t : VType) (d a b : Reg) (x : Reg8) : RoundTrip.Statement (.vmaxFp t d a b x) :=
  .core rfl fun h => rt_vbin20 rfl (by decide) h d a b x
theorem RoundTrip.vabsFp (t : VType) (d a : Reg) (x : Reg8) : RoundTrip.Statement (.vabsFp t d a x) :=
  .core rfl fun h => rt_vun20 rfl rfl (by decide) h d a x
theorem RoundTrip.vneg (t : VType) (d a : Reg) (x : Reg8) : RoundTrip.Statement (.vneg t d a x) :=
  .core rfl fun h => rt_vun20 rfl rfl (by decide) h d a x
theorem RoundTrip.vcpysgn (t : VType) (d a b : Reg) (x : Reg8) : RoundTrip.Statement (.vcpysgn t d a b x) :=
  .core rfl fun h => rt_vbin20 rfl (by decide) h d a b x
theorem RoundTrip.vfma (t : VType) (d a b : Reg) (x : Reg8) : RoundTrip.Statement (.vfma t d a b x) :=
  .core rfl fun h => rt_vbin21 rfl (by decide) h d a b x
theorem RoundTrip.vfms (t : VType) (d a b : Reg) (x : Reg8) : RoundTrip.Statement (.vfms t d a b x) :=
  .core rfl fun h => rt_vbin21 rfl (by decide) h d a b x
theorem RoundTrip.vfnma (t : VType) (d a b : Reg) (x : Reg8) : RoundTrip.Statement (.vfnma t d a b x) :=
  .core rfl fun h => rt_vbin21 rfl (by decide) h d a b x
theorem RoundTrip.vfnms (t : VType) (d a b : Reg) (x : Reg8) : RoundTrip.Statement (.vfnms t d a b x) :=
  .core rfl fun h => rt_vbin21 rfl (by decide) h d a b x
theorem RoundTrip.vaddInt (t : VType) (d a b : Reg) (x : Reg8) : RoundTrip.Statement (.vaddInt t d a b x) :=
  .core rfl fun h => rt_vbin22 rfl (by decide) h d a b x
theorem RoundTrip.vsubInt (t : VType) (d a b : Reg) (x : Reg8) : RoundTrip.Statement (.vsubInt t d a b x) :=
  .core rfl fun h => rt_vbin22 rfl (by decide) h d a b x
theorem RoundTrip.vmulInt (t : VType) (d a b : Reg) (x : Reg8) : RoundTrip.Statement (.vmulInt t d a b x) :=
  .core rfl fun h => rt_vbin22 rfl (by decide) h d a b x
theorem RoundTrip.vmulh (t : VType) (d a b : Reg) (x : Reg8) : RoundTrip.Statement (.vmulh t d a b x) :=
  .core rfl fun h => rt_vbin22 rfl (by decide) h d a b x
theorem RoundTrip.vminInt (t : VType) (d a b : Reg) (x : Reg8) : RoundTrip.Statement (.vminInt t d a b x) :=
  .core rfl fun h => rt_vbin22 rfl (by decide) h d a b x
theorem RoundTrip.vmaxInt (t : VType) (d a b : Reg) (x : Reg8) : RoundTrip.Statement (.vmaxInt t d a b x) :=
  .core rfl fun h => rt_vbin22 rfl (by decide) h d a b x
theorem RoundTrip.vand (t : VType) (d a b : Reg) (x : Reg8) : RoundTrip.Statement (.vand t d a b x) :=
  .core rfl fun h => rt_vbin22 rfl (by decide) h d a b x
theorem RoundTrip.vor (t : VType) (d a b : Reg) (x : Reg8) : RoundTrip.Statement (.vor t d a b x) :=
  .core rfl fun h => rt_vbin22 rfl (by decide) h d a b x
theorem RoundTrip.vxor (t : VType) (d a b : Reg) (x : Reg8) : RoundTrip.Statement (.vxor t d a b x) :=
  .core rfl fun h => rt_vbin22 rfl (by decide) h d a b x
theorem RoundTrip.vshl (t : VType) (d a b : Reg) (x : Reg8) : RoundTrip.Statement (.vshl t d a b x) :=
  .core rfl fun h => rt_vbin22 rfl (by decide) h d a b x
theorem RoundTrip.vshr (t : VType) (d a b : Reg) (x : Reg8) : RoundTrip.Statement (.vshr t d a b x) :=
  .core rfl fun h => rt_vbin22 rfl (by decide) h d a b x
theorem RoundTrip.vsra (t : VType) (d a b : Reg) (x : Reg8) : RoundTrip.Statement (.vsra t d a b x) :=
  .core rfl fun h => rt_vbin22 rfl (by decide) h d a b x
theorem RoundTrip.vabsInt (t : VType) (d a : Reg) (x : Reg8) : RoundTrip.Statement (.vabsInt t d a x) :=
  .core rfl fun h => rt_vun22 rfl rfl (by decide) h d a x
theorem RoundTrip.veq (t : VType) (md : Reg8) (a b : Reg) (x : Reg8) : RoundTrip.Statement (.veq t md a b x) :=
  .core rfl fun h => rt_compare rfl (by decide) (fun e => absurd e (by decide))
      md a b x
theorem RoundTrip.vne (t : VType) (md : Reg8) (a b : Reg) (x : Reg8) : RoundTrip.Statement (.vne t md a b x) :=
  .core rfl fun h => rt_compare rfl (by decide) (fun e => absurd e (by decide))
      md a b x
theorem RoundTrip.vlt (t : VType) (md : Reg8) (a b : Reg) (x : Reg8) : RoundTrip.Statement (.vlt t md a b x) :=
  .core rfl fun h => rt_compare rfl (by decide) (fun e => absurd e (by decide))
      md a b x
theorem RoundTrip.vle (t : VType) (md : Reg8) (a b : Reg) (x : Reg8) : RoundTrip.Statement (.vle t md a b x) :=
  .core rfl fun h => rt_compare rfl (by decide) (fun e => absurd e (by decide))
      md a b x
theorem RoundTrip.vunord (t : VType) (md : Reg8) (a b : Reg) (x : Reg8) : RoundTrip.Statement (.vunord t md a b x) :=
  .core rfl fun h => rt_compare rfl (by decide) (fun _ => h)
      md a b x
theorem RoundTrip.vsel (t : VType) (d a b : Reg) (x : Reg8) : RoundTrip.Statement (.vsel t d a b x) :=
  .core rfl fun _ => rt_vbin24 rfl (by decide) t d a b x
theorem RoundTrip.vswp (t : VType) (d a : Reg) (x : Reg8) : RoundTrip.Statement (.vswp t d a x) :=
  .core rfl fun _ => rt_vun24 rfl rfl (by decide) t d a x
theorem RoundTrip.vperm (t : VType) (d a b : Reg) (x : Reg8) : RoundTrip.Statement (.vperm t d a b x) :=
  .core rfl fun _ => rt_vbin24 rfl (by decide) t d a b x
theorem RoundTrip.vslup (t : VType) (d a b : Reg) (x : Reg8) : RoundTrip.Statement (.vslup t d a b x) :=
  .core rfl fun _ => rt_vbin24 rfl (by decide) t d a b x
theorem RoundTrip.vsldn (t : VType) (d a b : Reg) (x : Reg8) : RoundTrip.Statement (.vsldn t d a b x) :=
  .core rfl fun _ => rt_vbin24 rfl (by decide) t d a b x
theorem RoundTrip.vzipl (t : VType) (d a b : Reg) (x : Reg8) : RoundTrip.Statement (.vzipl t d a b x) :=
  .core rfl fun _ => rt_vbin24 rfl (by decide) t d a b x
theorem RoundTrip.vziph (t : VType) (d a b : Reg) (x : Reg8) : RoundTrip.Statement (.vziph t d a b x) :=
  .core rfl fun _ => rt_vbin24 rfl (by decide) t d a b x
theorem RoundTrip.vuzpe (t : VType) (d a b : Reg) (x : Reg8) : RoundTrip.Statement (.vuzpe t d a b x) :=
  .core rfl fun _ => rt_vbin24 rfl (by decide) t d a b x
theorem RoundTrip.vuzpo (t : VType) (d a b : Reg) (x : Reg8) : RoundTrip.Statement (.vuzpo t d a b x) :=
  .core rfl fun _ => rt_vbin24 rfl (by decide) t d a b x
theorem RoundTrip.vbcast (t : VType) (d a b : Reg) (x : Reg8) : RoundTrip.Statement (.vbcast t d a b x) :=
  .core rfl fun _ => rt_vbin24 rfl (by decide) t d a b x
theorem RoundTrip.vrsum (t : VType) (d a : Reg) (x : Reg8) : RoundTrip.Statement (.vrsum t d a x) :=
  .core rfl fun h => rt_reduce (f := 0) rfl (by decide) (show t.isFpOp = true from h) d a x
theorem RoundTrip.vrmax (t : VType) (d a : Reg) (x : Reg8) : RoundTrip.Statement (.vrmax t d a x) :=
  .core rfl fun _ => rt_reduce rfl (by decide) rfl d a x
theorem RoundTrip.vrmin (t : VType) (d a : Reg) (x : Reg8) : RoundTrip.Statement (.vrmin t d a x) :=
  .core rfl fun _ => rt_reduce rfl (by decide) rfl d a x
theorem RoundTrip.vrsumi (t : VType) (d a : Reg) (x : Reg8) : RoundTrip.Statement (.vrsumi t d a x) :=
  .core rfl fun h => rt_reduce (f := 3) rfl (by decide) (show t.isIntOp = true from h) d a x
theorem RoundTrip.vcvt (dt st : VType) (d a : Reg) (x : Reg8) : RoundTrip.Statement (.vcvt dt st d a x) :=
  .core rfl fun _ => rt_convert rfl (by decide) dt st d a x
theorem RoundTrip.vcvtSat (dt st : VType) (d a : Reg) (x : Reg8) : RoundTrip.Statement (.vcvtSat dt st d a x) :=
  .core rfl fun _ => rt_convert rfl (by decide) dt st d a x
theorem RoundTrip.vcvtRtz (dt st : VType) (d a : Reg) (x : Reg8) : RoundTrip.Statement (.vcvtRtz dt st d a x) :=
  .core rfl fun _ => rt_convert rfl (by decide) dt st d a x
theorem RoundTrip.vrsq (d a : Reg) (x : Reg8) : RoundTrip.Statement (.vrsq d a x) :=
  .core rfl fun _ => rt_special rfl (by decide) d a x
theorem RoundTrip.vrcp (d a : Reg) (x : Reg8) : RoundTrip.Statement (.vrcp d a x) :=
  .core rfl fun _ => rt_special rfl (by decide) d a x
theorem RoundTrip.vredh (d a : Reg) (x : Reg8) : RoundTrip.Statement (.vredh d a x) :=
  .core rfl fun _ => rt_special rfl (by decide) d a x
theorem RoundTrip.vquad (d a : Reg) (x : Reg8) : RoundTrip.Statement (.vquad d a x) :=
  .core rfl fun _ => rt_special rfl (by decide) d a x
theorem RoundTrip.vsin (d a : Reg) (x : Reg8) : RoundTrip.Statement (.vsin d a x) :=
  .core rfl fun _ => rt_special rfl (by decide) d a x
theorem RoundTrip.vcos (d a : Reg) (x : Reg8) : RoundTrip.Statement (.vcos d a x) :=
  .core rfl fun _ => rt_special rfl (by decide) d a x
theorem RoundTrip.vexp2 (d a : Reg) (x : Reg8) : RoundTrip.Statement (.vexp2 d a x) :=
  .core rfl fun _ => rt_special rfl (by decide) d a x
theorem RoundTrip.vlog2 (d a : Reg) (x : Reg8) : RoundTrip.Statement (.vlog2 d a x) :=
  .core rfl fun _ => rt_special rfl (by decide) d a x
theorem RoundTrip.vsqrt (d a : Reg) (x : Reg8) : RoundTrip.Statement (.vsqrt d a x) :=
  .core rfl fun _ => rt_special rfl (by decide) d a x
theorem RoundTrip.vldL (d a : Reg) (imm : BitVec 11) : RoundTrip.Statement (.vldL d a imm) :=
  .core rfl fun _ => of_encM fun w f0 f1 f2 f3 f4 f5 f6 => by
    simp [decodeCore, f0, decodeVMem, regAt_of f1, regAt_of f2, f3, fieldAt_of f6, ord3 f5 f4, need]
theorem RoundTrip.vldG (rx acq : Bool) (d a : Reg) (imm : BitVec 11) : RoundTrip.Statement (.vldG rx acq d a imm) :=
  .core rfl fun _ => by
    have := b2n_lt rx; have := b2n_lt acq
    exact of_encM fun w f0 f1 f2 f3 f4 f5 f6 => by
      simp [decodeCore, f0, decodeVMem, regAt_of f1, regAt_of f2, f3, fieldAt_of f6, bit_of f4, acq_low f5,
          acq_high f5, need]
theorem RoundTrip.vstL (d a : Reg) (imm : BitVec 11) : RoundTrip.Statement (.vstL d a imm) :=
  .core rfl fun _ => of_encM fun w f0 f1 f2 f3 f4 f5 f6 => by
    simp [decodeCore, f0, decodeVMem, regAt_of f1, regAt_of f2, f3, fieldAt_of f6, ord3 f5 f4, need]
theorem RoundTrip.vstG (rx rel : Bool) (d a : Reg) (imm : BitVec 11) : RoundTrip.Statement (.vstG rx rel d a imm) :=
  .core rfl fun _ => by
    have := b2n_lt rx; have := b2n_lt rel
    exact of_encM fun w f0 f1 f2 f3 f4 f5 f6 => by
      simp [decodeCore, f0, decodeVMem, regAt_of f1, regAt_of f2, f3, fieldAt_of f6, bit_of f4, rel_low f5,
          rel_high f5, need]
theorem RoundTrip.vgathW (d a b : Reg) (x : Reg8) : RoundTrip.Statement (.vgathW d a b x) :=
  .core rfl fun _ => rt_gather rfl (by decide) d a b x
theorem RoundTrip.vscatW (d a b : Reg) (x : Reg8) : RoundTrip.Statement (.vscatW d a b x) :=
  .core rfl fun _ => rt_gather rfl (by decide) d a b x
theorem RoundTrip.vgathH (d a b : Reg) (x : Reg8) : RoundTrip.Statement (.vgathH d a b x) :=
  .core rfl fun _ => rt_gather rfl (by decide) d a b x
theorem RoundTrip.vscatH (d a b : Reg) (x : Reg8) : RoundTrip.Statement (.vscatH d a b x) :=
  .core rfl fun _ => rt_gather rfl (by decide) d a b x
theorem RoundTrip.vgathB (d a b : Reg) (x : Reg8) : RoundTrip.Statement (.vgathB d a b x) :=
  .core rfl fun _ => rt_gather rfl (by decide) d a b x
theorem RoundTrip.vscatB (d a b : Reg) (x : Reg8) : RoundTrip.Statement (.vscatB d a b x) :=
  .core rfl fun _ => rt_gather rfl (by decide) d a b x
theorem RoundTrip.mand (d a b : Reg8) : RoundTrip.Statement (.mand d a b) :=
  .core rfl fun _ => of_encR fun w f0 f1 f2 f3 f4 f5 => by
    simp [decodeCore, f0, decodeMask, low4_of f5, high4_of8 f5, need, reg8At_of5 f1,
        (high2_of f1 : bits w 24 2 = 0), reg8At_of5 f2, (high2_of f2 : bits w 19 2 = 0), reg8At_of5 f3,
        (high2_of f3 : bits w 14 2 = 0), f4]
theorem RoundTrip.mor (d a b : Reg8) : RoundTrip.Statement (.mor d a b) :=
  .core rfl fun _ => of_encR fun w f0 f1 f2 f3 f4 f5 => by
    simp [decodeCore, f0, decodeMask, low4_of f5, high4_of8 f5, need, reg8At_of5 f1,
        (high2_of f1 : bits w 24 2 = 0), reg8At_of5 f2, (high2_of f2 : bits w 19 2 = 0), reg8At_of5 f3,
        (high2_of f3 : bits w 14 2 = 0), f4]
theorem RoundTrip.mxor (d a b : Reg8) : RoundTrip.Statement (.mxor d a b) :=
  .core rfl fun _ => of_encR fun w f0 f1 f2 f3 f4 f5 => by
    simp [decodeCore, f0, decodeMask, low4_of f5, high4_of8 f5, need, reg8At_of5 f1,
        (high2_of f1 : bits w 24 2 = 0), reg8At_of5 f2, (high2_of f2 : bits w 19 2 = 0), reg8At_of5 f3,
        (high2_of f3 : bits w 14 2 = 0), f4]
theorem RoundTrip.mnot (d a : Reg8) : RoundTrip.Statement (.mnot d a) :=
  .core rfl fun _ => of_encR fun w f0 f1 f2 f3 f4 f5 => by
    simp [decodeCore, f0, decodeMask, low4_of f5, high4_of8 f5, need, reg8At_of5 f1,
        (high2_of f1 : bits w 24 2 = 0), reg8At_of5 f2, (high2_of f2 : bits w 19 2 = 0), f3, f4]
theorem RoundTrip.mpopc (d : Reg) (a : Reg8) : RoundTrip.Statement (.mpopc d a) :=
  .core rfl fun _ => of_encR fun w f0 f1 f2 f3 f4 f5 => by
    simp [decodeCore, f0, decodeMask, low4_of f5, high4_of8 f5, need, regAt_of f1, reg8At_of5 f2,
        (high2_of f2 : bits w 19 2 = 0), f3, f4]
theorem RoundTrip.mfirst (d : Reg) (a : Reg8) : RoundTrip.Statement (.mfirst d a) :=
  .core rfl fun _ => of_encR fun w f0 f1 f2 f3 f4 f5 => by
    simp [decodeCore, f0, decodeMask, low4_of f5, high4_of8 f5, need, regAt_of f1, reg8At_of5 f2,
        (high2_of f2 : bits w 19 2 = 0), f3, f4]
theorem RoundTrip.mset (d : Reg8) (a : Reg) : RoundTrip.Statement (.mset d a) :=
  .core rfl fun _ => of_encR fun w f0 f1 f2 f3 f4 f5 => by
    simp [decodeCore, f0, decodeMask, low4_of f5, high4_of8 f5, need, reg8At_of5 f1,
        (high2_of f1 : bits w 24 2 = 0), regAt_of f2, f3, f4]
theorem RoundTrip.mget (d : Reg) (a : Reg8) : RoundTrip.Statement (.mget d a) :=
  .core rfl fun _ => of_encR fun w f0 f1 f2 f3 f4 f5 => by
    simp [decodeCore, f0, decodeMask, low4_of f5, high4_of8 f5, need, regAt_of f1, reg8At_of5 f2,
        (high2_of f2 : bits w 19 2 = 0), f3, f4]
theorem RoundTrip.vldi (t : VType) (d : Reg) (imm : BitVec 10) (x : Reg8) : RoundTrip.Statement (.vldi t d imm x) :=
  .core rfl fun h => by
    have := t.code_lt
    exact of_encV fun w f0 f1 f2 f3 f4 f5 f6 => by
      simp [decodeCore, f0, decodeVMove, VType.ofCode_code, regAt_of f1, fieldAt_of (imm10_of f3 f2), reg8At_of f4,
          f5, f6, show t.isIntOp = true from h, need, orBad]
theorem RoundTrip.vmovg (t : VType) (d a : Reg) (x : Reg8) : RoundTrip.Statement (.vmovg t d a x) :=
  .core rfl fun _ => by
    have := t.code_lt
    exact of_encV fun w f0 f1 f2 f3 f4 f5 f6 => by
      simp [decodeCore, f0, decodeVMove, VType.ofCode_code, regAt_of f1, regAt_of f2, f3, reg8At_of f4, f5, f6,
          need, orBad]
theorem RoundTrip.vext (t : VType) (d a b : Reg) : RoundTrip.Statement (.vext t d a b) :=
  .core rfl fun _ => by
    have := t.code_lt
    exact of_encV fun w f0 f1 f2 f3 f4 f5 f6 => by
      simp [decodeCore, f0, decodeVMove, VType.ofCode_code, regAt_of f1, regAt_of f2, regAt_of f3, f4, f5, f6,
          need, orBad]
theorem RoundTrip.vins (t : VType) (d a b : Reg) : RoundTrip.Statement (.vins t d a b) :=
  .core rfl fun _ => by
    have := t.code_lt
    exact of_encV fun w f0 f1 f2 f3 f4 f5 f6 => by
      simp [decodeCore, f0, decodeVMove, VType.ofCode_code, regAt_of f1, regAt_of f2, regAt_of f3, f4, f5, f6,
          need, orBad]
theorem RoundTrip.mma (c : AccNo) (a : Reg) (fa fb : MatSel) (l : Fin 2) (fw hd z : Bool) : RoundTrip.Statement
    (.mma c a fa fb l fw hd z) :=
  .core rfl fun h => by
    have := fa.code_lt; have := fb.code_lt; have := b2n_lt fw; have := b2n_lt hd; have := b2n_lt z
    exact of_encMX fun w f0 f1 f2 f3 f4 f5 f6 f7 f8 f9 => by
      simp [decodeCore, f0, decodeMma, accAt_of f1, regAt_of f2, f3, f4, latchAt_of f5, bit_of f6, bit_of f7,
          bit_of f8, f9, show matSelsOk fa fb hd = true from h, need, orBad]
theorem RoundTrip.mms (c : AccNo) (a : Reg) (fa fb : MatSel) (l : Fin 2) (fw hd z : Bool) : RoundTrip.Statement
    (.mms c a fa fb l fw hd z) :=
  .core rfl fun h => by
    have := fa.code_lt; have := fb.code_lt; have := b2n_lt fw; have := b2n_lt hd; have := b2n_lt z
    exact of_encMX fun w f0 f1 f2 f3 f4 f5 f6 f7 f8 f9 => by
      simp [decodeCore, f0, decodeMma, accAt_of f1, regAt_of f2, f3, f4, latchAt_of f5, bit_of f6, bit_of f7,
          bit_of f8, f9, show matSelsOk fa fb hd = true from h, need, orBad]
theorem RoundTrip.mlb (a : Reg) (l : Fin 2) : RoundTrip.Statement (.mlb a l) :=
  .core rfl fun _ => of_encMX fun w f0 f1 f2 f3 f4 f5 f6 f7 f8 f9 => by
    simp [decodeCore, f0, decodeLatch, f1, mid8 f4 f3, pair5 f8 f7, regAt_of f2, latchAt_of f5,
        bit_of (b := false) f6, f9, need]
theorem RoundTrip.mlarm (l : Fin 2) (fw : Bool) : RoundTrip.Statement (.mlarm l fw) :=
  .core rfl fun _ => by
    have := b2n_lt fw
    exact of_encMX fun w f0 f1 f2 f3 f4 f5 f6 f7 f8 f9 => by
      simp [decodeCore, f0, decodeLatch, f1, mid8 f4 f3, pair5 f8 f7, f2, latchAt_of f5, bit_of f6, f9, need]
theorem RoundTrip.mlfree (l : Fin 2) : RoundTrip.Statement (.mlfree l) :=
  .core rfl fun _ => of_encMX fun w f0 f1 f2 f3 f4 f5 f6 f7 f8 f9 => by
    simp [decodeCore, f0, decodeLatch, f1, mid8 f4 f3, pair5 f8 f7, f2, latchAt_of f5, bit_of (b := false) f6, f9,
        need]
theorem RoundTrip.mrow (c : AccNo) (v : Reg) (row : Fin 32) (half : Bool) : RoundTrip.Statement (.mrow c v row
    half) :=
  .core rfl fun _ => rt_row (op := 0) (c := .mrow) (by decide)
    (fun w h0 h1 h2 => by simp [decodeCore, h0, decodeAccMove, h1, h2, need]) c v row half
theorem RoundTrip.mwrow (c : AccNo) (v : Reg) (row : Fin 32) (half : Bool) : RoundTrip.Statement (.mwrow c v row
    half) :=
  .core rfl fun _ => rt_row (op := 1) (c := .mwrow) (by decide)
    (fun w h0 h1 h2 => by simp [decodeCore, h0, decodeAccMove, h1, h2, need]) c v row half
theorem RoundTrip.mst (c : AccNo) (a : Reg) (f : StFmt) : RoundTrip.Statement (.mst c a f) :=
  .core rfl fun _ => by
    have := f.code_lt
    exact of_encMX fun w f0 f1 f2 f3 f4 f5 f6 f7 f8 f9 => by
      simp [decodeCore, f0, decodeAccMove, accAt_of f1, regAt_of f2, f3, f9, mst_zero f8 f7 f6 f5 f4, need, orBad]
theorem RoundTrip.mzero (c : AccNo) : RoundTrip.Statement (.mzero c) :=
  .core rfl fun _ => of_encMX fun w f0 f1 f2 f3 f4 f5 f6 f7 f8 f9 => by
    simp [decodeCore, f0, decodeAccMove, accAt_of f1, f9, mzero_zero f8 f7 f6 f5 f4 f3 f2, need]
theorem RoundTrip.mwait : RoundTrip.Statement .mwait :=
  .core rfl fun _ => of_encMX fun w f0 f1 f2 f3 f4 f5 f6 f7 f8 f9 => by
    simp [decodeCore, f0, decodeMatCtl, f9, mwait_zero f8 f7 f6 f5 f4 f3 f2 f1, need]
theorem RoundTrip.mhdr (d : Reg) (l : Fin 2) : RoundTrip.Statement (.mhdr d l) :=
  .core rfl fun _ => of_encMX fun w f0 f1 f2 f3 f4 f5 f6 f7 f8 f9 => by
    simp [decodeCore, f0, decodeMatCtl, f9, f1, mid8 f4 f3, triple5 f8 f7 f6, regAt_of f2, latchAt_of f5, need]
theorem RoundTrip.mtag (c : AccNo) (a : Reg) : RoundTrip.Statement (.mtag c a) :=
  .core rfl fun _ => of_encMX fun w f0 f1 f2 f3 f4 f5 f6 f7 f8 f9 => by
    simp [decodeCore, f0, decodeMatCtl, f9, accAt_of f1, regAt_of f2, mtag_zero f8 f7 f6 f5 f4 f3, need]
theorem RoundTrip.sbind (vec : Bool) (k : Fin 8) : RoundTrip.Statement (.sbind vec k) :=
  .core rfl fun _ => by
    have := b2n_lt vec
    exact of_encR fun w f0 f1 f2 f3 f4 f5 => by
      simp [decodeCore, f0, decodeStream, need, f1, f2, bit_of5 f3, (high4_of f3 : bits w 12 4 = 0), reg8At_of f4, f5]
theorem RoundTrip.sfree (vec : Bool) (k : Fin 8) : RoundTrip.Statement (.sfree vec k) :=
  .core rfl fun _ => by
    have := b2n_lt vec
    exact of_encR fun w f0 f1 f2 f3 f4 f5 => by
      simp [decodeCore, f0, decodeStream, need, f1, f2, bit_of5 f3, (high4_of f3 : bits w 12 4 = 0), reg8At_of f4, f5]
theorem RoundTrip.speek (d : Reg) (k : Fin 8) : RoundTrip.Statement (.speek d k) :=
  .core rfl fun _ => of_encR fun w f0 f1 f2 f3 f4 f5 => by
    simp [decodeCore, f0, decodeStream, need, regAt_of f1, f2, f3, reg8At_of f4, f5]
theorem RoundTrip.scnt (d : Reg) (k : Fin 8) : RoundTrip.Statement (.scnt d k) :=
  .core rfl fun _ => of_encR fun w f0 f1 f2 f3 f4 f5 => by
    simp [decodeCore, f0, decodeStream, need, regAt_of f1, f2, f3, reg8At_of f4, f5]
theorem RoundTrip.sinj (a b : Reg) : RoundTrip.Statement (.sinj a b) :=
  .core rfl fun _ => of_encR fun w f0 f1 f2 f3 f4 f5 => by
    simp [decodeCore, f0, decodeStream, need, f1, regAt_of f2, regAt_of f3, f4, f5]
theorem RoundTrip.side (a b : Reg) : RoundTrip.Statement (.side a b) :=
  .core rfl fun _ => of_encR fun w f0 f1 f2 f3 f4 f5 => by
    simp [decodeCore, f0, decodeStream, need, f1, regAt_of f2, regAt_of f3, f4, f5]
theorem RoundTrip.sclr (a : Reg) : RoundTrip.Statement (.sclr a) :=
  .core rfl fun _ => of_encR fun w f0 f1 f2 f3 f4 f5 => by
    simp [decodeCore, f0, decodeStream, need, f1, regAt_of f2, f3, f4, f5]
theorem RoundTrip.sresume : RoundTrip.Statement .sresume :=
  .core rfl fun _ => of_encR fun w f0 f1 f2 f3 f4 f5 => by
    simp [decodeCore, f0, decodeStream, need, f1, f2, bit_of5 (b := false) f3,
        (high4_of (b := false) f3 : bits w 12 4 = 0), f4, f5]
theorem RoundTrip.sresumeSkip : RoundTrip.Statement .sresumeSkip :=
  .core rfl fun _ => of_encR fun w f0 f1 f2 f3 f4 f5 => by
    simp [decodeCore, f0, decodeStream, need, f1, f2, bit_of5 (b := true) f3,
        (high4_of (b := true) f3 : bits w 12 4 = 0), f4, f5]
theorem RoundTrip.sstat (d : Reg) : RoundTrip.Statement (.sstat d) :=
  .core rfl fun _ => of_encR fun w f0 f1 f2 f3 f4 f5 => by
    simp [decodeCore, f0, decodeStream, need, regAt_of f1, f2, f3, f4, f5]
theorem RoundTrip.sbinit (a : Reg) (n : Fin 32) : RoundTrip.Statement (.sbinit a n) :=
  .core rfl fun _ => of_encR fun w f0 f1 f2 f3 f4 f5 => by
    simp [decodeCore, f0, decodeBarrier, need, f1, regAt_of f2, regAt_of f3, f4, f5]
theorem RoundTrip.sbexp (a : Reg) (n : Fin 32) : RoundTrip.Statement (.sbexp a n) :=
  .core rfl fun _ => of_encR fun w f0 f1 f2 f3 f4 f5 => by
    simp [decodeCore, f0, decodeBarrier, need, f1, regAt_of f2, regAt_of f3, f4, f5]
theorem RoundTrip.sbarr (n : Fin 32) : RoundTrip.Statement (.sbarr n) :=
  .core rfl fun _ => of_encR fun w f0 f1 f2 f3 f4 f5 => by
    simp [decodeCore, f0, decodeBarrier, need, f1, f2, regAt_of f3, f4, f5]
theorem RoundTrip.sbwait (a : Reg) (n : Fin 32) : RoundTrip.Statement (.sbwait a n) :=
  .core rfl fun _ => of_encR fun w f0 f1 f2 f3 f4 f5 => by
    simp [decodeCore, f0, decodeBarrier, need, f1, regAt_of f2, regAt_of f3, f4, f5]
theorem RoundTrip.ekick (a : Reg) : RoundTrip.Statement (.ekick a) :=
  .core rfl fun _ => of_encR fun w f0 f1 f2 f3 f4 f5 => by
    simp [decodeCore, f0, decodeKick, need, f1, regAt_of f2, f5, zero8 f3 f4]
theorem RoundTrip.embox (d : Reg) : RoundTrip.Statement (.embox d) :=
  .core rfl fun _ => of_encR fun w f0 f1 f2 f3 f4 f5 => by
    simp [decodeCore, f0, decodeKick, need, regAt_of f1, f2, f5, zero8 f3 f4]
theorem RoundTrip.ewait : RoundTrip.Statement .ewait :=
  .core rfl fun _ => of_encR fun w f0 f1 f2 f3 f4 f5 => by
    simp [decodeCore, f0, decodeKick, need, f1, f2, f5, zero8 f3 f4]
theorem RoundTrip.csrr (d : Reg) (c : Fin 4096) : RoundTrip.Statement (.csrr d c) :=
  .core rfl fun _ => of_encS fun w f0 f1 f2 f3 f4 => by
    simp [decodeCore, f0, decodeCsr, regAt_of f1, f2, csrAt_of f3, f4, need]
theorem RoundTrip.csrw (d a : Reg) (c : Fin 4096) : RoundTrip.Statement (.csrw d a c) :=
  .core rfl fun _ => of_encS fun w f0 f1 f2 f3 f4 => by
    simp [decodeCore, f0, decodeCsr, regAt_of f1, regAt_of f2, csrAt_of f3, f4]
theorem RoundTrip.csrs (d a : Reg) (c : Fin 4096) : RoundTrip.Statement (.csrs d a c) :=
  .core rfl fun _ => of_encS fun w f0 f1 f2 f3 f4 => by
    simp [decodeCore, f0, decodeCsr, regAt_of f1, regAt_of f2, csrAt_of f3, f4]
theorem RoundTrip.csrc (d a : Reg) (c : Fin 4096) : RoundTrip.Statement (.csrc d a c) :=
  .core rfl fun _ => of_encS fun w f0 f1 f2 f3 f4 => by
    simp [decodeCore, f0, decodeCsr, regAt_of f1, regAt_of f2, csrAt_of f3, f4]
theorem RoundTrip.trap (code : Fin 4096) : RoundTrip.Statement (.trap code) :=
  .core rfl fun _ => of_encS fun w f0 f1 f2 f3 f4 => by
    simp [decodeCore, f0, decodeTrap, zero16 f1 f2, csrAt_of f3, f4, need]
theorem RoundTrip.eret : RoundTrip.Statement .eret :=
  .core rfl fun _ => of_encS fun w f0 f1 f2 f3 f4 => by
    simp [decodeCore, f0, decodeTrap, zero4 f1 f2 f3, f4, need]
theorem RoundTrip.emove (d a : Reg) : RoundTrip.Statement (.emove d a) :=
  .core rfl fun _ => rt_engine rfl (by decide) d a
theorem RoundTrip.estrd (d a : Reg) : RoundTrip.Statement (.estrd d a) :=
  .core rfl fun _ => rt_engine rfl (by decide) d a
theorem RoundTrip.egath (d a : Reg) : RoundTrip.Statement (.egath d a) :=
  .core rfl fun _ => rt_engine rfl (by decide) d a
theorem RoundTrip.escat (d a : Reg) : RoundTrip.Statement (.escat d a) :=
  .core rfl fun _ => rt_engine rfl (by decide) d a
theorem RoundTrip.estream (d a : Reg) : RoundTrip.Statement (.estream d a) :=
  .core rfl fun _ => rt_engine rfl (by decide) d a
theorem RoundTrip.edrain (d a : Reg) : RoundTrip.Statement (.edrain d a) :=
  .core rfl fun _ => rt_engine rfl (by decide) d a
theorem RoundTrip.ered (d a : Reg) : RoundTrip.Statement (.ered d a) :=
  .core rfl fun _ => rt_engine rfl (by decide) d a
theorem RoundTrip.esamp (d a : Reg) : RoundTrip.Statement (.esamp d a) :=
  .core rfl fun _ => rt_engine rfl (by decide) d a
theorem RoundTrip.esort (d a : Reg) : RoundTrip.Statement (.esort d a) :=
  .core rfl fun _ => rt_engine rfl (by decide) d a
theorem RoundTrip.sroute (estop : Bool) (count : Fin 4096) (r : Route) : RoundTrip.Statement (.sroute estop count
    r) :=
  .switch rfl fun h => by
    have := b2n_lt estop; have := r.code_lt
    exact of_encSw fun w f0 f1 f2 f3 f4 => by
      simp [decodeSwitch, f0, sw_flag f1, f3, routeAt_of f4, countAt_of f2,
          show (r.nonempty && !r.usesX) = true from h, need, orBad]
theorem RoundTrip.srtw (k : Fin 8) : RoundTrip.Statement (.srtw k) :=
  .switch rfl fun _ => of_encSw fun w f0 f1 f2 f3 f4 => by
    simp [decodeSwitch, f0, sw_flag (b := false) f1, f2, f4, signal_aux f3, need]
theorem RoundTrip.sjump (t : Fin 2048) : RoundTrip.Statement (.sjump t) :=
  .switch rfl fun _ => of_encSw fun w f0 f1 f2 f3 f4 => by
    simp [decodeSwitch, f0, sw_flag (b := false) f1, f2, f4, target_aux f3, need]
theorem RoundTrip.sloop (c : Fin 2) (n : Fin 4096) : RoundTrip.Statement (.sloop c n) :=
  .switch rfl fun _ => of_encSw fun w f0 f1 f2 f3 f4 => by
    simp [decodeSwitch, f0, sw_counter f1, countAt_of f2, f3, f4, need]
theorem RoundTrip.sbnz (c : Fin 2) (t : Fin 2048) : RoundTrip.Statement (.sbnz c t) :=
  .switch rfl fun _ => of_encSw fun w f0 f1 f2 f3 f4 => by
    simp [decodeSwitch, f0, sw_counter f1, f2, target_aux f3, f4, need]
theorem RoundTrip.sxor (estop : Bool) (count : Fin 4096) (a b : Src) (r : Route) : RoundTrip.Statement (.sxor estop
    count a b r) :=
  .switch rfl fun h => by
    have := b2n_lt estop; have := r.code_lt; have := a.code_lt; have := b.code_lt
    exact of_encSw fun w f0 f1 f2 f3 f4 => by
      simp [decodeSwitch, f0, sw_flag f1, sxor_aux a.code_lt b.code_lt f3, routeAt_of f4, countAt_of f2,
          show (r.nonempty && a.isPort && b.isPort && a != b) = true from h, need, orBad]
theorem RoundTrip.sdec (estop : Bool) (count : Fin 4096) (a : Src) (r : Route) : RoundTrip.Statement (.sdec estop
    count a r) :=
  .switch rfl fun h => by
    have := b2n_lt estop; have := r.code_lt; have := a.code_lt
    exact of_encSw fun w f0 f1 f2 f3 f4 => by
      simp [decodeSwitch, f0, sw_flag f1, port_aux a.code_lt f3, routeAt_of f4, countAt_of f2,
          show (r.nonempty && a.isPort) = true from h, need, orBad]
theorem RoundTrip.ssig (k : Fin 8) : RoundTrip.Statement (.ssig k) :=
  .switch rfl fun _ => of_encSw fun w f0 f1 f2 f3 f4 => by
    simp [decodeSwitch, f0, sw_flag (b := false) f1, f2, f4, signal_aux f3, need]
theorem RoundTrip.sskip (estop : Bool) (count : Fin 4096) (a : Src) : RoundTrip.Statement (.sskip estop count a) :=
  .switch rfl fun h => by
    have := b2n_lt estop; have := a.code_lt
    exact of_encSw fun w f0 f1 f2 f3 f4 => by
      simp [decodeSwitch, f0, sw_flag f1, port_aux a.code_lt f3, f4, countAt_of f2, show a.isPort = true from h,
          need, orBad]
theorem RoundTrip.shalt : RoundTrip.Statement .shalt :=
  .switch rfl fun _ => of_encSw fun w f0 f1 f2 f3 f4 => by
    simp [decodeSwitch, f0, sw_flag (b := false) f1, f2, f3, f4, need]
theorem RoundTrip.snop (count : Fin 4096) : RoundTrip.Statement (.snop count) :=
  .switch rfl fun _ => of_encSw fun w f0 f1 f2 f3 f4 => by
    simp [decodeSwitch, f0, sw_flag (b := false) f1, countAt_of f2, f3, f4, need]
theorem RoundTrip.matrixInstructionBegin (t : TileNo) : RoundTrip.Statement (.matrixInstructionBegin t) :=
  fun _ => ⟨nofun, nofun⟩
theorem RoundTrip.matrixInstructionEnd (t : TileNo) : RoundTrip.Statement (.matrixInstructionEnd t) :=
  fun _ => ⟨nofun, nofun⟩
theorem RoundTrip.asyncTrapDelivery (t : TileNo) (k : Fin 8) : RoundTrip.Statement (.asyncTrapDelivery t k) :=
  fun _ => ⟨nofun, nofun⟩
theorem RoundTrip.yieldExpiry (t : TileNo) (k : Fin 8) : RoundTrip.Statement (.yieldExpiry t k) :=
  fun _ => ⟨nofun, nofun⟩
theorem RoundTrip.dividerFree (t : TileNo) : RoundTrip.Statement (.dividerFree t) := fun _ => ⟨nofun, nofun⟩
theorem RoundTrip.overrun (lnum rank : Nat) : RoundTrip.Statement (.overrun lnum rank) := fun _ => ⟨nofun, nofun⟩
theorem RoundTrip.overrunDeadline (lnum rank : Nat) : RoundTrip.Statement (.overrunDeadline lnum rank) :=
  fun _ => ⟨nofun, nofun⟩
theorem RoundTrip.accessComplete (h : HartId) (choice : Nat) : RoundTrip.Statement (.accessComplete h choice) :=
  fun _ => ⟨nofun, nofun⟩
theorem RoundTrip.translationWalk (h : HartId) : RoundTrip.Statement (.translationWalk h) := fun _ => ⟨nofun, nofun⟩
theorem RoundTrip.faultRecordWrite (d : DieNo) : RoundTrip.Statement (.faultRecordWrite d) :=
  fun _ => ⟨nofun, nofun⟩
theorem RoundTrip.watchPendingPush (c : DieNo) (n : Fin 16) : RoundTrip.Statement (.watchPendingPush c n) :=
  fun _ => ⟨nofun, nofun⟩
theorem RoundTrip.engineJobStart (t : TileNo) : RoundTrip.Statement (.engineJobStart t) := fun _ => ⟨nofun, nofun⟩
theorem RoundTrip.engineJobEnd (t : TileNo) : RoundTrip.Statement (.engineJobEnd t) := fun _ => ⟨nofun, nofun⟩
theorem RoundTrip.collectiveComplete (lnum coll : Nat) : RoundTrip.Statement (.collectiveComplete lnum coll) :=
  fun _ => ⟨nofun, nofun⟩
theorem RoundTrip.sorusRequestStart (d : DieNo) : RoundTrip.Statement (.sorusRequestStart d) :=
  fun _ => ⟨nofun, nofun⟩
theorem RoundTrip.sorusRequestEnd (d : DieNo) : RoundTrip.Statement (.sorusRequestEnd d) := fun _ => ⟨nofun, nofun⟩
theorem RoundTrip.slotLoadEnd (i : Fin 32) : RoundTrip.Statement (.slotLoadEnd i) := fun _ => ⟨nofun, nofun⟩
theorem RoundTrip.groupPlace (standing : Option (Fin 32)) (choice : Nat) : RoundTrip.Statement (.groupPlace
    standing choice) :=
  fun _ => ⟨nofun, nofun⟩
theorem RoundTrip.groupStart (lnum rank : Nat) : RoundTrip.Statement (.groupStart lnum rank) :=
  fun _ => ⟨nofun, nofun⟩
theorem RoundTrip.groupFinish (lnum rank : Nat) : RoundTrip.Statement (.groupFinish lnum rank) :=
  fun _ => ⟨nofun, nofun⟩
theorem RoundTrip.quantumExpiry (lnum rank : Nat) : RoundTrip.Statement (.quantumExpiry lnum rank) :=
  fun _ => ⟨nofun, nofun⟩
theorem RoundTrip.freeze (lnum rank : Nat) : RoundTrip.Statement (.freeze lnum rank) := fun _ => ⟨nofun, nofun⟩
theorem RoundTrip.restore (lnum rank : Nat) : RoundTrip.Statement (.restore lnum rank) := fun _ => ⟨nofun, nofun⟩
theorem RoundTrip.seamCreditReturn (c : DieNo) (q : Fin 4) (l : Fin 12) : RoundTrip.Statement (.seamCreditReturn c
    q l) :=
  fun _ => ⟨nofun, nofun⟩
theorem RoundTrip.ringPost (p : Fin 32) (r : Fin 16) (v : W64) : RoundTrip.Statement (.ringPost p r v) :=
  fun _ => ⟨nofun, nofun⟩
theorem RoundTrip.retransmitTimeout (p : Fin 32) (peer : Fin 16) : RoundTrip.Statement (.retransmitTimeout p peer) :=
  fun _ => ⟨nofun, nofun⟩
theorem RoundTrip.clusterCommandEnd (d : DieNo) (k : Fin 4) : RoundTrip.Statement (.clusterCommandEnd d k) :=
  fun _ => ⟨nofun, nofun⟩
theorem RoundTrip.railTimeout (d : DieNo) (k : Fin 4) : RoundTrip.Statement (.railTimeout d k) :=
  fun _ => ⟨nofun, nofun⟩
theorem RoundTrip.illegalInstruction (w : W32) : RoundTrip.Statement (.illegalInstruction w) :=
  fun _ => ⟨nofun, nofun⟩
theorem RoundTrip.illegalSwitchWord (w : W64) : RoundTrip.Statement (.illegalSwitchWord w) :=
  fun _ => ⟨nofun, nofun⟩
theorem RoundTrip.hostRead (m : Fin 4) (pa n : Nat) : RoundTrip.Statement (.hostRead m pa n) :=
  fun _ => ⟨nofun, nofun⟩
theorem RoundTrip.hostWrite (m : Fin 4) (pa : Nat) (data : List Byte) : RoundTrip.Statement (.hostWrite m pa data) :=
  fun _ => ⟨nofun, nofun⟩
theorem RoundTrip.attestationRequest (nonce : List Byte) (hpa : Nat) : RoundTrip.Statement (.attestationRequest
    nonce hpa) :=
  fun _ => ⟨nofun, nofun⟩
theorem RoundTrip.queueInboxWrite (t : TileNo) (k : Fin 8) (h e : Bool) (data : W256) : RoundTrip.Statement
    (.queueInboxWrite t k h e data) :=
  fun _ => ⟨nofun, nofun⟩
theorem RoundTrip.kick (t : TileNo) (w : W64) : RoundTrip.Statement (.kick t w) := fun _ => ⟨nofun, nofun⟩
theorem RoundTrip.accumulatorWindowAccess (t : TileNo) (off n : Nat) (wr : Option V512) : RoundTrip.Statement
    (.accumulatorWindowAccess t off n wr) :=
  fun _ => ⟨nofun, nofun⟩
theorem RoundTrip.barrierWindowArrive (t : TileNo) (n : Fin 32) : RoundTrip.Statement (.barrierWindowArrive t n) :=
  fun _ => ⟨nofun, nofun⟩
theorem RoundTrip.barrierWindowDeliver (t : TileNo) (n : Fin 32) (v : W64) : RoundTrip.Statement
    (.barrierWindowDeliver t n v) :=
  fun _ => ⟨nofun, nofun⟩
theorem RoundTrip.clusterRestore (d : DieNo) (k : Fin 4) (aw : Bool) : RoundTrip.Statement (.clusterRestore d k aw) :=
  fun _ => ⟨nofun, nofun⟩
theorem RoundTrip.ungate (d : DieNo) (k : Fin 4) (aw : Bool) : RoundTrip.Statement (.ungate d k aw) :=
  fun _ => ⟨nofun, nofun⟩
theorem RoundTrip.fqreply (d : DieNo) (v : W64) : RoundTrip.Statement (.fqreply d v) := fun _ => ⟨nofun, nofun⟩
theorem RoundTrip.fqheadWrite (d : DieNo) (v : W64) : RoundTrip.Statement (.fqheadWrite d v) :=
  fun _ => ⟨nofun, nofun⟩
theorem RoundTrip.watchEnableWrite (c : DieNo) (n : Fin 16) (v : W64) : RoundTrip.Statement (.watchEnableWrite c n
    v) :=
  fun _ => ⟨nofun, nofun⟩
theorem RoundTrip.launchRecordRead : RoundTrip.Statement .launchRecordRead := fun _ => ⟨nofun, nofun⟩
theorem RoundTrip.doorbell (q : Fin 64) (v : W64) : RoundTrip.Statement (.doorbell q v) := fun _ => ⟨nofun, nofun⟩
theorem RoundTrip.qcfgWrite (q : Fin 64) (v : W64) : RoundTrip.Statement (.qcfgWrite q v) := fun _ => ⟨nofun, nofun⟩
theorem RoundTrip.dctlWrite (v : W64) : RoundTrip.Statement (.dctlWrite v) := fun _ => ⟨nofun, nofun⟩
theorem RoundTrip.cancel (v : W64) : RoundTrip.Statement (.cancel v) := fun _ => ⟨nofun, nofun⟩
theorem RoundTrip.timelineCounterWrite (n : Fin 4096) (v : W64) : RoundTrip.Statement (.timelineCounterWrite n v) :=
  fun _ => ⟨nofun, nofun⟩
theorem RoundTrip.timelineCounterIncrement (n : Fin 4096) (v : W64) : RoundTrip.Statement
    (.timelineCounterIncrement n v) :=
  fun _ => ⟨nofun, nofun⟩
theorem RoundTrip.launchActivate : RoundTrip.Statement .launchActivate := fun _ => ⟨nofun, nofun⟩
theorem RoundTrip.slotLoad (i : Fin 32) : RoundTrip.Statement (.slotLoad i) := fun _ => ⟨nofun, nofun⟩
theorem RoundTrip.slotUnload (i : Fin 32) : RoundTrip.Statement (.slotUnload i) := fun _ => ⟨nofun, nofun⟩
theorem RoundTrip.seamSelectorWrite (c : DieNo) (q : Fin 4) (l : Fin 12) (v : W64) : RoundTrip.Statement
    (.seamSelectorWrite c q l v) :=
  fun _ => ⟨nofun, nofun⟩
theorem RoundTrip.seamCrcResend (c : DieNo) (q : Fin 4) (l : Fin 12) : RoundTrip.Statement (.seamCrcResend c q l) :=
  fun _ => ⟨nofun, nofun⟩
theorem RoundTrip.seamLaneFail (c : DieNo) (q : Fin 4) (l : Fin 12) : RoundTrip.Statement (.seamLaneFail c q l) :=
  fun _ => ⟨nofun, nofun⟩
theorem RoundTrip.dynamicLinkFail : RoundTrip.Statement .dynamicLinkFail := fun _ => ⟨nofun, nofun⟩
theorem RoundTrip.uncorrectableError (site : ErrSite) : RoundTrip.Statement (.uncorrectableError site) :=
  fun _ => ⟨nofun, nofun⟩
theorem RoundTrip.irqenWrite (v : W64) : RoundTrip.Statement (.irqenWrite v) := fun _ => ⟨nofun, nofun⟩
theorem RoundTrip.irqcauseClear (v : W64) : RoundTrip.Statement (.irqcauseClear v) := fun _ => ⟨nofun, nofun⟩
theorem RoundTrip.dataFrameReceive (p : Fin 32) (peer : Fin 16) (bytes : List Byte) : RoundTrip.Statement
    (.dataFrameReceive p peer bytes) :=
  fun _ => ⟨nofun, nofun⟩
theorem RoundTrip.ackFrameReceive (p : Fin 32) (peer : Fin 16) (bytes padding : List Byte) : RoundTrip.Statement
    (.ackFrameReceive p peer bytes padding) :=
  fun _ => ⟨nofun, nofun⟩
theorem RoundTrip.peerReset (p : Fin 32) (peer : Fin 16) (v : W64) : RoundTrip.Statement (.peerReset p peer v) :=
  fun _ => ⟨nofun, nofun⟩
theorem RoundTrip.fcsError (p : Fin 32) : RoundTrip.Statement (.fcsError p) := fun _ => ⟨nofun, nofun⟩
theorem RoundTrip.pbudgetWrite (v : W64) : RoundTrip.Statement (.pbudgetWrite v) := fun _ => ⟨nofun, nofun⟩
theorem RoundTrip.allowanceRecompute : RoundTrip.Statement .allowanceRecompute := fun _ => ⟨nofun, nofun⟩
theorem RoundTrip.coolantLimit (inletMilliC flowMlPerMin : Nat) : RoundTrip.Statement (.coolantLimit inletMilliC
    flowMlPerMin) :=
  fun _ => ⟨nofun, nofun⟩
theorem RoundTrip.thermalTrip (milliC : Nat) : RoundTrip.Statement (.thermalTrip milliC) := fun _ => ⟨nofun, nofun⟩
theorem RoundTrip.quiesce (d : DieNo) (k : Fin 4) (aw : Bool) : RoundTrip.Statement (.quiesce d k aw) :=
  fun _ => ⟨nofun, nofun⟩
theorem RoundTrip.save (d : DieNo) (k : Fin 4) (aw : Bool) : RoundTrip.Statement (.save d k aw) :=
  fun _ => ⟨nofun, nofun⟩
theorem RoundTrip.gate (d : DieNo) (k : Fin 4) (aw : Bool) : RoundTrip.Statement (.gate d k aw) :=
  fun _ => ⟨nofun, nofun⟩
theorem RoundTrip.autowakeSet (d : DieNo) (k : Fin 4) (aw : Bool) : RoundTrip.Statement (.autowakeSet d k aw) :=
  fun _ => ⟨nofun, nofun⟩
theorem RoundTrip.clctlInvalidCommand (d : DieNo) (k : Fin 4) : RoundTrip.Statement (.clctlInvalidCommand d k) :=
  fun _ => ⟨nofun, nofun⟩
theorem RoundTrip.clsaveWrite (d : DieNo) (k : Fin 4) (v : W64) : RoundTrip.Statement (.clsaveWrite d k v) :=
  fun _ => ⟨nofun, nofun⟩
theorem RoundTrip.clwake (d : DieNo) (k : Fin 4) (v : W64) : RoundTrip.Statement (.clwake d k v) :=
  fun _ => ⟨nofun, nofun⟩
theorem RoundTrip.powerOnBoot : RoundTrip.Statement .powerOnBoot := fun _ => ⟨nofun, nofun⟩
theorem RoundTrip.recoveryImageLoad (img : BootImage) : RoundTrip.Statement (.recoveryImageLoad img) :=
  fun _ => ⟨nofun, nofun⟩
theorem RoundTrip.mrExtend (i : Fin 8) (digest : List Byte) : RoundTrip.Statement (.mrExtend i digest) :=
  fun _ => ⟨nofun, nofun⟩
theorem RoundTrip.keyRegenerate (n : Fin 128) : RoundTrip.Statement (.keyRegenerate n) := fun _ => ⟨nofun, nofun⟩
theorem RoundTrip.panelReset : RoundTrip.Statement .panelReset := fun _ => ⟨nofun, nofun⟩
theorem RoundTrip.smbusStatusRead : RoundTrip.Statement .smbusStatusRead := fun _ => ⟨nofun, nofun⟩
theorem RoundTrip.jtagInstruction (op : JtagOp) : RoundTrip.Statement (.jtagInstruction op) :=
  fun _ => ⟨nofun, nofun⟩
theorem RoundTrip.debugHalt (d : DieNo) : RoundTrip.Statement (.debugHalt d) := fun _ => ⟨nofun, nofun⟩
theorem RoundTrip.debugResume (d : DieNo) : RoundTrip.Statement (.debugResume d) := fun _ => ⟨nofun, nofun⟩
theorem RoundTrip.debugEnableWrite (d : DieNo) (v : W64) : RoundTrip.Statement (.debugEnableWrite d v) :=
  fun _ => ⟨nofun, nofun⟩
theorem RoundTrip.dbgresume (d : DieNo) (v : W64) : RoundTrip.Statement (.dbgresume d v) := fun _ => ⟨nofun, nofun⟩
theorem RoundTrip.errorCounterClear (site : CounterSite) : RoundTrip.Statement (.errorCounterClear site) :=
  fun _ => ⟨nofun, nofun⟩
theorem RoundTrip.registerWrite (pa : Nat) (v : W64) : RoundTrip.Statement (.registerWrite pa v) :=
  fun _ => ⟨nofun, nofun⟩
theorem RoundTrip.revocation (ctx : Fin 256) (va : W64) (leafPa : Nat) (leaf : W64) : RoundTrip.Statement
    (.revocation ctx va leafPa leaf) :=
  fun _ => ⟨nofun, nofun⟩
theorem RoundTrip.ethernetLinkChange (p : Fin 32) (up : Bool) : RoundTrip.Statement (.ethernetLinkChange p up) :=
  fun _ => ⟨nofun, nofun⟩
theorem RoundTrip.ucieModuleLinkChange (m : Fin 4) (up : Bool) : RoundTrip.Statement (.ucieModuleLinkChange m up) :=
  fun _ => ⟨nofun, nofun⟩
theorem RoundTrip.nop : RoundTrip.Statement .nop :=
  .core rfl fun _ => of_encR fun w f0 f1 f2 f3 f4 f5 => by
    simp [decodeCore, f0, decodeCtl, need, f5, zero18 f1 f2 f3 f4]
theorem RoundTrip.retire : RoundTrip.Statement .retire :=
  .core rfl fun _ => of_encR fun w f0 f1 f2 f3 f4 f5 => by
    simp [decodeCore, f0, decodeCtl, need, f5, zero18 f1 f2 f3 f4]
theorem RoundTrip.yield : RoundTrip.Statement .yield :=
  .core rfl fun _ => of_encR fun w f0 f1 f2 f3 f4 f5 => by
    simp [decodeCore, f0, decodeCtl, need, f5, zero18 f1 f2 f3 f4]
theorem RoundTrip.brk : RoundTrip.Statement .brk :=
  .core rfl fun _ => of_encR fun w f0 f1 f2 f3 f4 f5 => by
    simp [decodeCore, f0, decodeCtl, need, f5, zero18 f1 f2 f3 f4]
theorem RoundTrip.fenceT : RoundTrip.Statement .fenceT :=
  .core rfl fun _ => of_encR fun w f0 f1 f2 f3 f4 f5 => by
    simp [decodeCore, f0, decodeSync, need, f5, zero18 f1 f2 f3 f4]
theorem RoundTrip.fenceD : RoundTrip.Statement .fenceD :=
  .core rfl fun _ => of_encR fun w f0 f1 f2 f3 f4 f5 => by
    simp [decodeCore, f0, decodeSync, need, f5, zero18 f1 f2 f3 f4]
theorem RoundTrip.fenceM : RoundTrip.Statement .fenceM :=
  .core rfl fun _ => of_encR fun w f0 f1 f2 f3 f4 f5 => by
    simp [decodeCore, f0, decodeSync, need, f5, zero18 f1 f2 f3 f4]
theorem RoundTrip.fenceP : RoundTrip.Statement .fenceP :=
  .core rfl fun _ => of_encR fun w f0 f1 f2 f3 f4 f5 => by
    simp [decodeCore, f0, decodeSync, need, f5, zero18 f1 f2 f3 f4]
theorem RoundTrip.fenceS : RoundTrip.Statement .fenceS :=
  .core rfl fun _ => of_encR fun w f0 f1 f2 f3 f4 f5 => by
    simp [decodeCore, f0, decodeSync, need, f5, zero18 f1 f2 f3 f4]

end

end Sys2Proof.Laws
end

