-- ==== Sys2Proof/Tests/Slice0.lean ====
section
/-! SUPPORT. Tests: ill-formed terms that well-formedness refuses, words written out from the spec's encodings, single
steps with results taken from the spec's rules, and for each statement with hypotheses states and operands that meet
them, clause by clause. -/
namespace Sys2Proof.Tests
open Sys2Proof.Machine Sys2Proof.Claims

section
set_option Elab.async false

/-! ### States the tests use -/

/-- A machine after reset with tile 0 as given, strand 0 of it running. -/
def onTile (x : Tile) : State := ({ State.reset with inputs := [], hart := .strand 0 0 } : State).setTile 0 x

/-- A running tile with strand 0 as given. -/
def strandTile (z : Strand) : Tile := { running := true, strands := ({} : Tile).strands.set 0 z }

/-- An active strand whose handler stands at 0x100. -/
def active : Strand := { run := .active, etvec := 0x100 }

/-- Strand 0 of tile 0 active. -/
def st : State := onTile (strandTile active)

/-- Strand 0 of tile 0 active with registers as given. -/
def stR (r : Regs) : State := onTile (strandTile { active with r := r })

/-- Registers with one general register set. -/
def g1 (k : Reg) (v : W64) : Regs := { g := (Vector.replicate 32 0).set k v }

/-- Registers with two general registers set. -/
def g2 (k : Reg) (v : W64) (j : Reg) (w : W64) : Regs := { g := ((Vector.replicate 32 0).set k v).set j w }

/-- The engine of tile 0 runs a job. -/
def en : State := { onTile { running := true, eng := { job := some 0, state := .running } } with hart := .engine 0 }

/-- The management hart of die 0 runs. -/
def mg : State := { State.reset.setDie 0 { mgmt := { running := true } } with inputs := [], hart := .mgmt 0 }

/-- The state an instruction leads to. -/
def after (i : Instr) (s : State) : State :=
  match exec i s with
  | .next t => t
  | _ => s

/-- `Ready` as a test. -/
def readyB (s : State) (i : Instr) (n : Need) : Bool := hartFree s && (admits s i && (operandsReady s n && (unsound s n).isNone))

theorem ready_of {s : State} {i : Instr} {n : Need} (h : readyB s i n = true) : Ready s i n := by
  simpa [readyB, Ready, Option.isNone_iff_eq_none] using h

/-! ### Well-formedness -/

/-- One ill-formed term for each check of `Instr.wf` (R38-R40, R42, R45, R54): each is refused. -/
theorem test_wf_scalar : (Instr.loop 0 1 0).wf = false ∧ (Instr.loopi 1 3 0).wf = false ∧
    (Instr.ldl .d true 1 2 0).wf = false ∧ (Instr.amo .fadd true false .plain 1 2 3).wf = false := by decide

theorem test_wf_vector : (Instr.vaddFp .i8 1 2 3 0).wf = false ∧ (Instr.vabsFp .i32 1 2 0).wf = false ∧
    (Instr.vaddInt .f32 1 2 3 0).wf = false ∧ (Instr.vabsInt .bf16 1 2 0).wf = false ∧
    (Instr.vldi .f16 1 5 0).wf = false := by decide

theorem test_wf_matrix : (Instr.mma 0 1 .bf16 .b8 0 false false false).wf = false ∧
    (Instr.mms 0 1 .f16 .f16 0 false true false).wf = false := by decide

theorem test_wf_switch : (Instr.sroute false 0 ⟨.none, .none, .none, .none, .none, .none, .none, .none⟩).wf = false ∧
    (Instr.sroute false 0 ⟨.x, .none, .none, .none, .none, .none, .none, .none⟩).wf = false ∧
    (Instr.sxor false 0 .n .n ⟨.x, .none, .none, .none, .none, .none, .none, .none⟩).wf = false ∧
    (Instr.sxor false 0 .n .x ⟨.x, .none, .none, .none, .none, .none, .none, .none⟩).wf = false ∧
    (Instr.sdec false 0 .none ⟨.x, .none, .none, .none, .none, .none, .none, .none⟩).wf = false ∧
    (Instr.sskip false 0 .x).wf = false := by decide

/-! ### Words of the spec -/

/-- Scalar, loop and local words: `shi.sra g1, g2, 3` (R60), `loop 1, g5, end` of ten words (R110), `jalr g0, 0(lk)` (R108),
retire (R121). -/
theorem test_decode_scalar : decodeCore 0x18220203 = .ok (.shi .sra 1 2 3) ∧ decodeCore 0x5605000A = .ok (.loop 1 5 10) ∧
    decodeCore 0x50170000 = .ok (.jalr 0 23 0) ∧ decodeCore 0x5C000001 = .ok .retire := ⟨rfl, rfl, rfl, rfl⟩

/-- Memory words: `st.d.rel g7, 24(g8)` (R242), `ldh.w.rx g5, 8(h2, g6)` (R248), `amo.add.d.ar g5, g6, (g7)` and
`amo.cas.w.l g2, g3, (g4)` (R250), `xlat h1, g3, g5` (R246), `xrel h1` (R247), `fence.s` (R252). -/
theorem test_decode_memory : decodeCore 0x6CE8D003 = .ok (.st .d false true 7 8 3) ∧
    decodeCore 0x70A8D402 = .ok (.ldh .w true false 5 2 6 2) ∧
    decodeCore 0x74A73160 = .ok (.amo .add true false .ar 5 7 6) ∧
    decodeCore 0x74441889 = .ok (.amo .cas false true .plain 2 4 3) ∧ decodeCore 0x78232805 = .ok (.xlat 1 3 5) ∧
    decodeCore 0x78200006 = .ok (.xrel 1) ∧ decodeCore 0x78000004 = .ok .fenceS := ⟨rfl, rfl, rfl, rfl, rfl, rfl, rfl⟩

/-- Vector words: `vfma.f32 v3, v1, v2, m1` (R60), `vgath.w v7, g2, v3, m1` (R141), `vcvt.sat.i8.f32 v2, v1, m0` (R137). -/
theorem test_decode_vector : decodeCore 0x84611100 = .ok (.vfma .f32 3 1 2 1) ∧
    decodeCore 0xA8E21900 = .ok (.vgathW 7 2 3 1) ∧ decodeCore 0x98410041 = .ok (.vcvtSat .i8 .f32 2 1 0) := ⟨rfl, rfl, rfl⟩

/-- Matrix words of the examples of R193-R212. -/
theorem test_decode_matrix : decodeCore 0xC4000181 = .ok (.mlarm 1 true) ∧ decodeCore 0xC4000002 = .ok (.mlfree 0) ∧
    decodeCore 0xC8465800 = .ok (.mrow 1 3 5 true) ∧ decodeCore 0xC9000003 = .ok (.mzero 4) ∧
    decodeCore 0xCC000000 = .ok .mwait ∧ decodeCore 0xCC120101 = .ok (.mhdr 9 1) := ⟨rfl, rfl, rfl, rfl, rfl, rfl⟩

/-- Stream, barrier, engine and trap words of the examples of R164-R190, R170, R287-R290, R361, R362; `emove g1, g2` from
R48: major 0x3E, f 0. -/
theorem test_decode_system : decodeCore 0xE0000B00 = .ok (.sbind true 3) ∧ decodeCore 0xE0000001 = .ok (.sfree false 0) ∧
    decodeCore 0xE0042804 = .ok (.sinj 4 5) ∧ decodeCore 0xE1200008 = .ok (.sstat 9) ∧
    decodeCore 0xE4002002 = .ok (.sbarr 4) ∧ decodeCore 0xE8050000 = .ok (.ekick 5) ∧ decodeCore 0xE8C00001 = .ok (.embox 6) ∧
    decodeCore 0xE8000002 = .ok .ewait ∧ decodeCore 0xF40005A0 = .ok (.trap 0x5A) ∧ decodeCore 0xF4000001 = .ok .eret ∧
    decodeCore (0x3E * 2 ^ 26 + 1 * 2 ^ 21 + 2 * 2 ^ 16) = .ok (.emove 1 2) :=
  ⟨rfl, rfl, rfl, rfl, rfl, rfl, rfl, rfl, rfl, rfl, rfl⟩

/-- Switch words of R60 and R176: sroute with E = 4 and C0 = 4, with E-stop, and shalt. -/
theorem test_decode_switch :
    decodeSwitch 0x0000F00000040040 = .ok (.sroute false 15 ⟨.none, .w, .none, .none, .w, .none, .none, .none⟩) ∧
    decodeSwitch 0x0100300000040000 = .ok (.sroute true 3 ⟨.none, .none, .none, .none, .w, .none, .none, .none⟩) ∧
    decodeSwitch 0x4800000000000000 = .ok .shalt := ⟨rfl, rfl, rfl⟩

/-! ### Encoding and the step -/

theorem test_meets_words : (Instr.add 31 31 31).isCore = true ∧ (Instr.add 31 31 31).wf = true ∧
    Instr.shalt.isSwitch = true ∧ Instr.shalt.wf = true ∧ decodeCore 0x07FFF800 = .ok (.add 31 31 31) ∧
    decodeSwitch 0x4800000000000000 = .ok .shalt := by refine ⟨?_, ?_, ?_, ?_, rfl, rfl⟩ <;> decide

theorem test_meets_step_order : State.reset.inputs = Instr.powerOnBoot :: [] ∧
    (st.inputs = [] ∧ { st with todo := [.issue 0] }.todo = .issue 0 :: []) ∧ st.todo = [] := by decide

/-- The word of `addi g3, g0, 7` (R37, R38) at address 0 of tile 0's instruction memory. -/
def coded : State := (onTile (strandTile active)).modTile 0 fun x => { x with imem := memWrite [] 0 (leBytes 4 0x08600007) }

theorem test_meets_step_runs_strand : coded.inputs = [] ∧ tileRuns { coded with todo := [.attempt 0 0] } 0 = true ∧
    decodeBytes (memBytes (coded.tile 0).imem (coded.strandAt 0 0).r.pc.toNat 4) = .ok (.addi 3 0 7, []) ∧
    (∃ e, decodeBytes (memBytes (st.tile 0).imem (st.strandAt 0 0).r.pc.toNat 4) = .error e) :=
  ⟨by decide, by decide, rfl, _, rfl⟩

/-- The engine's microcode and the management hart's program hold `retire` (R121) at address 0, and the switch shalt. -/
def coded2 : State := { en with todo := [.engine 0] }.modDie 0 fun x => { x with
  microcode := some (memWrite [] 0 (leBytes 4 0x5C000001)), progMem := some (memWrite [] 0 (leBytes 4 0x5C000001))
  mgmt := { running := true } }

def coded3 : State := coded2.modTile 0 fun x => { x with smem := memWrite [] 0 (leBytes 8 0x4800000000000000) }

theorem test_meets_step_runs_others : tileRuns coded3 0 = true ∧ (coded3.tile 0).eng.ending = none ∧
    (coded3.tile 0).eng.job.isSome = true ∧ (coded3.tile 0).eng.retake = [] ∧ (coded3.die 0).mgmt.running = true ∧ (coded3.tile 0).sw.run ≠ .stopped ∧
    (coded3.tile 0).sw.run ≠ .halted ∧
    decodeBytes (memBytes (microcodeOf coded3 (tileDie 0)) (coded3.tile 0).eng.r.pc.toNat 4) = .ok (.retire, []) ∧
    decodeBytes (memBytes (programOf coded3 0) (coded3.die 0).mgmt.r.pc.toNat 4) = .ok (.retire, []) ∧
    decodeSwitchBytes (memBytes (coded3.tile 0).smem (8 * (coded3.tile 0).sw.spc) 8) = .ok (.shalt, []) :=
  ⟨by decide, by decide, by decide, rfl, by decide, by decide, by decide, rfl, rfl, rfl⟩

theorem test_meets_memory_form : Mem.wf State.reset.mem = true ∧ Mem.wf State.reset.hostMem = true ∧
    ∃ t, step State.reset = .next t := ⟨by decide, by decide, _, rfl⟩

/-- The word of `sbwait g4, 3` (R170) at address 0 of tile 0, and an ssig word of barrier 2 (R178) as the switch's first. -/
def coded4 : State := (onTile (strandTile active)).modTile 0 fun x => { x with
  imem := memWrite [] 0 (leBytes 4 0xE4041803), smem := memWrite [] 0 (leBytes 8 (encode (.ssig 2))), sw := { x.sw with run := .running } }

theorem test_meets_step_late : tileRuns coded4 0 = true ∧ ([SlotKind.lateAttempt 0 0].contains (.lateAttempt 0 0)) = true ∧
    decodeBytes (memBytes (coded4.tile 0).imem (coded4.strandAt 0 0).r.pc.toNat 4) = .ok (.sbwait 4 3, []) ∧
    (coded4.tile 0).sw.run ≠ .stopped ∧ (coded4.tile 0).sw.run ≠ .halted ∧
    decodeSwitchBytes (memBytes (coded4.tile 0).smem (8 * (coded4.tile 0).sw.spc) 8) = .ok (.ssig 2, []) ∧
    ([SlotKind.engine 0].contains (.lateAttempt 0 0)) = false := by
  refine ⟨by decide, by decide, ?_, by decide, by decide, ?_, by decide⟩ <;> rfl

/-! ### Issue -/

/-- Each way in which a hart may not issue: not started, waiting for a matrix instruction, a held access, a yield; no job;
a stopped management hart. -/
theorem test_meets_hart_waits : hartFree (onTile (strandTile {})) = false ∧
    hartFree (onTile (strandTile { active with matrixWait := true })) = false ∧
    hartFree (stR { held := some { va := 0, wr := false, phase := .walk } }) = false ∧ hartFree (stR { yieldUntil := 1 }) = false ∧
    hartFree { st with hart := .engine 0 } = false ∧ hartFree { st with hart := .mgmt 0 } = false := by decide

/-- A vector word on a management hart; a b8 word while FMT8 is 0 (R17); a CSR no strand has. -/
theorem test_meets_illegal : (hartFree mg = true ∧ admits mg (.vaddFp .f32 1 2 3 0) = false) ∧
    (hartFree st = true ∧ legalNow st (.vaddFp .b8 1 2 3 0) = false) ∧ legalNow st (.csrr 1 0x7FF) = false := by decide

/-- A source whose writer has not written it; an empty bound queue. -/
def bound : State := st.modTile 0 fun x => { x with
  binds := (x.binds.set 0 (some ⟨0, false⟩)).set 1 (some ⟨0, true⟩)
  inQ := (x.inQ.set 0 [⟨5, true, false, 3, 0, none⟩]).set 1 ((List.range 8).map fun j => ⟨w64 j, false, false, j % 4, 0, none⟩) }

theorem test_meets_held_back : operandsReady (stR { gReady := (Vector.replicate 32 0).set 4 1 }) (needOf (.add 3 4 5)) = false ∧
    operandsReady bound (needOf (.add 3 25 24)) = true ∧ operandsReady bound (needOf (.add 3 24 24)) = false ∧
    admits bound (.add 3 24 24) = true ∧ legalNow bound (.add 3 24 24) = true ∧ hartFree bound = true := by decide

/-! ### Exceptions -/

theorem test_meets_traps : st.hart = .strand 0 0 ∧ (st.strandAt 0 0).inh = false ∧
    (st.strandAt 0 0).etvec.toNat % 4 = 0 ∧ (st.strandAt 0 0).etvec.toNat ≤ 0xFFFC ∧
    ((onTile (strandTile { active with etvec := 0xFFFC })).strandAt 0 0).etvec.toNat ≤ 0xFFFC ∧
    0xFFFC < ((onTile (strandTile { run := .active })).strandAt 0 0).etvec.toNat ∧
    ((onTile (strandTile { active with etvec := 2 })).strandAt 0 0).etvec.toNat % 4 ≠ 0 ∧
    ((onTile (strandTile { active with inh := true })).strandAt 0 0).inh = true ∧ en.hart = .engine 0 ∧ mg.hart = .mgmt 0 := by
  decide

/-- An engine with an error noted, and one with none; a management hart that an exception has stopped, whose registers a later
failure leaves (R286, R424). -/
theorem test_meets_unserved : let e := en.modTile 0 fun x => { x with eng := { x.eng with ending := some (4, 9) } }
    let m := mg.modDie 0 fun x => { x with mgmt := { running := false, mhstat := 0x104 } }
    (e.tile 0).eng.ending = some (4, 9) ∧ (en.tile 0).eng.ending = none ∧ ((raiseAt .alignment 5 0 e).tile 0).eng.ending = some (4, 9) ∧
    (m.die 0).mgmt.running = false ∧ bit (m.die 0).mgmt.mhstat.toNat 8 = true ∧ raiseAt .bounds 7 0 m = m ∧
    ((raiseAt .bounds 7 0 mg).die 0).mgmt.mhval = 7 := ⟨by decide, by decide, by decide, by decide, by decide, rfl, by decide⟩

/-- R358: a bounds trap at 0x40 saves the address and the value, sets INH, and goes to the handler. -/
theorem test_trap_taken : let u := (raiseAt .bounds 0x12345 0x40 st).strandAt 0 0
    u.epc = 0x40 ∧ u.ecause = 3 ∧ u.eval = 0x12345 ∧ u.inh = true ∧ u.r.pc = 0x100 := by decide

theorem test_meets_trap_eret : Ready st (.trap 4095) {} ∧ Ready st .eret {} ∧ (st.strandAt 0 0).epc.toNat ≤ 0xFFFC ∧
    0xFFFC < ((onTile (strandTile { active with epc := 0x10000 })).strandAt 0 0).epc.toNat :=
  ⟨ready_of (by decide), ready_of (by decide), by decide, by decide⟩

theorem test_meets_async : let x := (onTile (strandTile { active with ovrpend := true, swpend := true })).strandAt 0 0
    x.run = .active ∧ x.matrixWait = false ∧ blocked x.r = false ∧ x.r.held = none ∧ x.inh = false ∧
    x.ovrpend = true ∧ x.swpend = true ∧ (st.tile 0).running = true ∧ (st.strandAt 0 0).ovrpend = false ∧
    (st.strandAt 0 0).swpend = false := by decide

/-- R360: the code of an asynchronous overrun is 0x10B, and of a decode miss 0x109. -/
theorem test_async_codes : ((after (.asyncTrapDelivery 0 0) (onTile (strandTile { active with ovrpend := true }))).strandAt 0 0).ecause =
      0x10B ∧
    ((after (.asyncTrapDelivery 0 0) ((onTile (strandTile { active with swpend := true })).modTile 0 fun x =>
      { x with sw := { x.sw with fault := 0x2800 } })).strandAt 0 0).ecause = 0x109 := by decide

/-! ### Completion and operands -/

/-- Both loop levels at an end; the counts at the boundary 1. -/
def looping (c0 c1 : W64) : State := stR { pc := 0x20, lc := #v[c0, c1], lb := #v[4, 8], le := #v[0x24, 0x24] }

/-- R111: level 1 goes first; a count of 1 ends its level; at the end of memory the next word is out of bounds (R13). -/
theorem test_completion : (complete (looping 2 2)).regs.pc = 8 ∧ (complete (looping 2 2)).regs.lc = #v[2, 1] ∧
    (complete (looping 2 1)).regs.pc = 4 ∧ (complete (looping 2 1)).regs.lc = #v[1, 0] ∧
    (complete (looping 1 1)).regs.pc = 0x24 ∧ (complete (looping 1 1)).regs.lc = #v[0, 0] ∧
    (complete (stR { pc := 0xFFFC })).regs.pc = 0x100 ∧ (complete (stR { pc := 0xFFFC })).me.eval = 0x10000 := by decide

theorem test_meets_last : NotLast (stR { pc := 0xFFF8 }) ∧ ¬NotLast (stR { pc := 0xFFFC }) ∧ NoLoopEnd st := by
  unfold NotLast NoLoopEnd; decide

theorem test_meets_operands : boundTo bound false 24 = some 0 ∧ boundTo bound true 25 = some 1 ∧
    boundTo bound false 3 = none ∧ (bound.myTile.inQ[(0 : Fin 8)] = ⟨5, true, false, 3, 0, none⟩ :: []) ∧
    bound.myTile.inQ[(1 : Fin 8)] =
      (Vector.ofFn fun j : Fin 8 => (⟨w64 j.val, false, false, j.val % 4, 0, none⟩ : QEntry)).toList ++ [] := by decide

/-- R165, R166: a bound source pops its word; SSTAT shows its marks and position; vectors take eight words in order. -/
theorem test_operands : (popG false 24 bound).1 = 5 ∧ (popG false 24 bound).2.2.me.sstat = 0x8061 ∧
    (popV false 25 bound).1.extractLsb' 64 64 = 1 ∧ (writeG 24 9 1 bound).myTile.outQ[(0 : Fin 8)].map QEntry.word = [9] ∧
    (writeG 0 9 1 st).regs.g = st.regs.g ∧ readM (writeM 0 0 1 st) 0 = BitVec.allOnes 64 := by decide +kernel

/-! ### Scalar arithmetic -/

theorem test_meets_alu : Ready st (.add 3 4 5) { gs := [4, 5], gd := some 3 } ∧ Ready st (.clz 3 4) { gs := [4], gd := some 3 } ∧
    Ready st (.ldi 3 0xFFFF) { gd := some 3 } ∧ Ready st (.sel 3 4 5) { gs := [4, 5, 3], gd := some 3 } ∧
    Ready st (.div 3 4 5) { gs := [4, 5], gd := some 3 } ∧ st.myTile.dividerUntil ≤ st.cyc ∧
    (let s := st.modTile 0 fun x => { x with dividerUntil := 1 }; s.cyc < s.myTile.dividerUntil ∧ hartIsStrand s.hart = true) ∧
    computes (.add 3 4 5) = true ∧ Ready st (.add 3 4 5) (needOf (.add 3 4 5)) ∧ legalNow st (.add 3 4 5) = true ∧
    (∃ t, exec (.add 3 4 5) st = .next t) :=
  ⟨ready_of (by decide), ready_of (by decide), ready_of (by decide), ready_of (by decide), ready_of (by decide), by decide,
    by decide, by decide, ready_of (by decide), by decide, _, rfl⟩

/-- An engine hart and a management hart ready to divide, the divider of the tile busy: they share none (log entry 97). -/
theorem test_meets_divisions : let s := en.modTile 0 fun x => { x with dividerUntil := 9 }
    Ready s (.div 3 4 5) { gs := [4, 5], gd := some 3 } ∧ hartIsStrand s.hart = false ∧ s.cyc < (s.tile 0).dividerUntil ∧
    Ready mg (.divN 3 4 5) { gs := [4, 5], gd := some 3 } ∧ hartIsStrand mg.hart = false ∧
    ((after (.div 3 4 5) s).tile 0).eng.r.g[(3 : Reg)] = BitVec.allOnes 64 :=
  ⟨ready_of (by decide), by decide, by decide, ready_of (by decide), by decide, by decide⟩

/-- What g3 receives from `i` when g4 and g5 hold x and y. -/
def result (i : Instr) (x y : W64) : W64 := (after i (stR (g2 4 x 5 y))).regs.g[(3 : Reg)]

/-- R102: sums wrap, sra fills with the sign, rot turns right, mulh takes the high half, and slt is signed. -/
theorem test_alu_results : result (.add 3 4 5) (BitVec.allOnes 64) 2 = 1 ∧ result (.sra 3 4 5) (-8) 65 = -4 ∧
    result (.rot 3 4 5) 1 1 = 0x8000000000000000 ∧ result (.mulh 3 4 5) (-1) 1 = -1 ∧
    result (.mulhN 3 4 5) (-1) (-1) = -2 ∧ result (.slt 3 4 5) (-1) 0 = 1 ∧ result (.sltN 3 4 5) (-1) 0 = 0 ∧
    result (.subw 3 4 5) 0x80000000 1 = 0x7FFFFFFF ∧ result (.andn 3 4 5) 15 5 = 10 ∧ result (.clz 3 4) 1 0 = 63 ∧
    result (.ctz 3 4) 0 0 = 64 ∧ result (.popc 3 4) 255 0 = 8 ∧ result (.sextB 3 4) 0x80 0 = -128 := by decide

/-- R103: bfx of bits 15:8 signed, bfi of a byte, sel by gd. -/
theorem test_fields : result (.bfx 3 4 5) 0xFF00 0x10708 = -1 ∧ result (.bfi 3 4 5) 0xAB 0x0708 = 0xAB00 ∧
    result (.sel 3 4 5) 7 9 = 9 := by decide

/-- R104: division by zero, the overflow corner, and truncation toward zero. -/
theorem test_division : result (.div 3 4 5) 7 0 = -1 ∧ result (.rem 3 4 5) 7 0 = 7 ∧
    result (.div 3 4 5) 0x8000000000000000 (-1) = 0x8000000000000000 ∧ result (.rem 3 4 5) 0x8000000000000000 (-1) = 0 ∧
    result (.div 3 4 5) (-7) 2 = -3 ∧ result (.rem 3 4 5) (-7) 2 = -1 ∧ result (.divN 3 4 5) (-1) 2 = 0x7FFFFFFFFFFFFFFF := by
  decide

/-- R105: immediates are sign-extended in addi, ldi and ldih, zero-extended in andi. -/
theorem test_immediates : result (.addi 3 4 0xFFFF) 5 0 = 4 ∧ result (.andi 3 4 0xFFFF) (-1) 0 = 0xFFFF ∧
    result (.ldi 3 0x8000) 0 0 = -32768 ∧ result (.ldih 3 4 1) 2 0 = 0x10002 ∧ result (.slti 3 4 0xFFFF) (-2) 0 = 1 ∧
    result (.sltiN 3 4 0xFFFF) 5 0 = 1 := by decide

/-! ### Control -/

theorem test_meets_control : Ready st (.j 1) {} ∧ Ready st (.jal 1) { gd := some 23 } ∧
    Ready st (.jalr 3 4 0) { gs := [4], gd := some 3 } ∧ Ready st (.b .eq 4 5 1) { gs := [4, 5] } ∧
    branchTaken .eq (src2 4 5 st).1 (src2 4 5 st).2.1 ∧ ¬branchTaken .ne (src2 4 5 st).1 (src2 4 5 st).2.1 ∧
    Ready st (.loop 0 4 5) { gs := [4] } ∧ Ready st (.loopi 1 3 5) {} ∧ NotLast st ∧
    pcLimit st.hart < (w64 ((stR { pc := 0xFFF0 }).regs.pc.toNat + 4 + 4 * 4)).toNat ∧
    (w64 ((stR { pc := 0xFFF0 }).regs.pc.toNat + 4 + 4 * 2)).toNat ≤ pcLimit st.hart :=
  ⟨ready_of (by decide), ready_of (by decide), ready_of (by decide), ready_of (by decide), by show (_ : W64) = _; decide,
    by show ¬(_ : W64) ≠ _; decide, ready_of (by decide), ready_of (by decide), by unfold NotLast; decide, by decide, by decide⟩

/-- R107, R108, R106: targets count from PC + 0 in words; a target beyond memory raises bounds (ECAUSE 3), a misaligned one
of jalr alignment (2), and jal then writes no link. -/
theorem test_jumps : (after (.j 5) (stR { pc := 0x10 })).regs.pc = 0x24 ∧ (after (.jal 5) (stR { pc := 0x10 })).regs.g[(23 : Reg)] = 0x14 ∧
    (after (.jal 0x3FFFFFF) st).me.ecause = 3 ∧ (after (.jal 0x3FFFFFF) st).regs.g[(23 : Reg)] = 0 ∧
    (after (.jalr 3 4 0) (stR (g1 4 0x10002))).me.ecause = 2 ∧ (after (.jalr 4 4 8) (stR (g1 4 0x40))).regs.pc = 0x48 ∧
    (after (.b .ltN 4 5 2) (stR (g2 4 1 5 2))).regs.pc = 8 ∧ (after (.b .ltN 4 5 2) (stR (g2 4 2 5 2))).regs.pc = 4 := by decide

/-- R110: a count of 0 skips the body; another opens the level. -/
theorem test_loops : (after (.loopi 0 0 3) st).regs.pc = 0x10 ∧ (after (.loopi 0 2 3) st).regs.pc = 4 ∧
    (after (.loopi 0 2 3) st).regs.le = #v[0x10, 0] ∧ (after (.loop 1 4 3) (stR (g1 4 0x100000003))).regs.lc = #v[0, 3] := by decide

theorem test_meets_hints : Ready st .nop {} ∧ Ready st .yield {} ∧ Ready st .brk {} ∧ Ready st .retire {} ∧
    (st.die 0).dbgen = false ∧ ((st.modDie 0 fun x => { x with dbgen := true }).die 0).dbgen = true ∧
    (bound.tile 0).binds[(0 : Fin 8)] = some ⟨0, false⟩ ∧ Ready bound .retire {} ∧
    (∀ q : Fin 8, (st.tile 0).binds[q] ≠ some ⟨0, false⟩ ∧ (st.tile 0).binds[q] ≠ some ⟨0, true⟩) ∧ Ready en .retire {} ∧
    Ready mg .retire {} :=
  ⟨ready_of (by decide), ready_of (by decide), ready_of (by decide), ready_of (by decide), by decide, by decide,
    by decide, ready_of (by decide), by decide, ready_of (by decide), ready_of (by decide)⟩

/-- R121: after a yield the strand is not ready in the next eight cycles; a retired strand keeps its PC (R29). -/
theorem test_hints : (after .yield st).regs.yieldUntil = 9 ∧ (after .retire st).me.run = .retired ∧
    (after .retire st).regs.pc = 0 ∧ (after .retire bound).me.ecause = 7 ∧
    ((after .brk (st.modDie 0 fun x => { x with dbgen := true })).strandAt 0 0).run = .halted := by decide

/-! ### Local memory -/

/-- g4 as the base of a local access. -/
def base (a : W64) : State := stR (g1 4 a)

theorem test_meets_local : (Instr.ldl .w true 3 4 0).wf = true ∧ Ready (base 0x7FFFC) (.ldl .w true 3 4 0) { gs := [4], gd := some 3 } ∧
    Ready (base 0x7FFC0) (.vldL 3 4 0) { gs := [4], vd := some 3 } ∧ Ready st (.stl .w 3 4 0) { gs := [4, 3] } ∧
    Ready st (.vstL 3 4 0) { gs := [4], vs := [3] } ∧ drained st = true ∧
    (plusOffset (src1 4 (base 0x7FFFC)).1 0).toNat ≤ 0x7FFFF ∧ (plusOffset (src1 4 (base 0x7FFFE)).1 0).toNat % 4 ≠ 0 ∧
    0x7FFFF < (plusOffset (src1 4 (base 0x80000)).1 0).toNat ∧ bankFree st.myTile 0 = true ∧ NotLast st ∧
    bankFree (st.modMyTile (holdBank 0 5)).myTile 0 = false :=
  ⟨by decide, ready_of (by decide), ready_of (by decide), ready_of (by decide), ready_of (by decide), by decide, by decide,
    by decide, by decide, by decide, by unfold NotLast; decide, by decide⟩

/-- A bank that serves; one that another strand has waited for since an earlier cycle; a word with an error (R122, R265). -/
def awaited : State := st.modTile 0 fun x => { x with cycle := 5, bankWait := [⟨.strand 1, 0, 3, 5⟩], strands := x.strands.set 1 active }

theorem test_meets_banks : Served st 0 ∧ ¬Served (st.modMyTile (holdBank 0 5)) 0 ∧ ¬Served awaited 0 ∧ badIn [2] 8 4 = some 2 ∧
    badIn st.myTile.badLm 8 4 = none ∧ badIn [2] 12 4 = none := by
  unfold Served; decide

/-- R117, R265: the strand that waits for the bank issues nothing and stands in the waiting list; an error traps with its
address, which is the word's (R122). -/
theorem test_bank_waits : (after (.ldl .w false 3 4 0) ((base 0).modMyTile (holdBank 0 5))).regs.pc = 0 ∧
    (after (.ldl .w false 3 4 0) ((base 0).modMyTile (holdBank 0 5))).myTile.bankWait = [⟨.strand 0, 0, 0, 0⟩] ∧
    (after (.ldl .w false 3 4 2) ((base 0).modTile 0 fun x => { x with badLm := [2] })).me.ecause = 13 ∧
    (after (.ldl .w false 3 4 2) ((base 0).modTile 0 fun x => { x with badLm := [2] })).me.eval = 8 := by decide

/-- R114: a stored word reads back, sign-extended when asked; a misaligned address traps with it as EVAL. -/
theorem test_local_words : (after (.ldl .h true 3 0 0) ((base 0).modTile 0 fun x => { x with lm := memWrite [] 0 [0, 0x80] })).regs.g[(3 : Reg)] =
      0xFFFFFFFFFFFF8000 ∧
    memBytes (after (.stl .h 4 0 0) (base 0x12348081)).myTile.lm 0 3 = [0x81, 0x80, 0] ∧
    (after (.ldl .w false 3 4 1) (base 2)).me.eval = 6 ∧ (after (.ldl .w false 3 4 1) (base 2)).me.ecause = 2 ∧
    (after (.stl .d 4 4 0) (base 0x80000)).me.ecause = 3 := by decide

theorem test_meets_gathers : gathers (.vgathW 3 4 5 0) = some (true, 4, 3, 4, 5, 0) ∧
    gathers (.vscatB 3 4 5 0) = some (false, 1, 3, 4, 5, 0) ∧ Ready st (.vgathW 3 4 5 0) (needOf (.vgathW 3 4 5 0)) ∧
    Ready st (.vscatB 3 4 5 0) (needOf (.vscatB 3 4 5 0)) ∧ eaFault 4 0x80000 = some .bounds ∧ eaFault 4 2 = some .alignment ∧
    eaFault 4 0x80002 = some .alignment ∧ eaFault 4 0x7FFFC = none :=
  ⟨rfl, rfl, ready_of (by decide), ready_of (by decide), by decide, by decide, by decide, by decide⟩

/-- A gather under way with one granule due in bank 0, and with none. -/
def gathered (ls : List (Nat × Nat)) (c : Nat) : Tile := { strandTile { active with gather := some ⟨false, 4, ls, 0, .v 3, 4, 0, none⟩ } with
  cycle := 5, lm := memWrite [] 0x0 [7], bankUntil := (Vector.replicate 16 0).set 0 c }

theorem test_meets_granules : (gathered [(1, 0)] 0).strands[(0 : Fin 8)].gather = some ⟨false, 4, [(1, 0)], 0, .v 3, 4, 0, none⟩ ∧
    ([((1 : Nat), (0 : Nat))].filter fun p => bankOf p.2 == 0).map (·.2 / 64) = [0] ∧ bankFree (gathered [(1, 0)] 0) (64 * 0) = true ∧
    bankFree (gathered [(1, 0)] 9) (64 * 0) = false ∧ (gathered [(1, 0)] 0).bankWait = [] ∧ [((1 : Nat), (0 : Nat))] ≠ [] ∧
    (gathered [] 0).strands[(0 : Fin 8)].gather = some ⟨false, 4, [], 0, .v 3, 4, 0, none⟩ ∧
    ([((1 : Nat), (0 : Nat))].filter fun p => bankOf p.2 == 1) = [] := by decide +kernel

/-- R142: the granule's lane is read in its bank's cycle, and an empty list ends the gather, four cycles before its result. -/
theorem test_granules : ((serveBank 0 (gathered [(1, 0)] 0) 0).strands[(0 : Fin 8)].gather.map fun j => (j.lanes, laneAt 32 j.data 1)) = some ([], 7) ∧
    ((serveBank 0 (gathered [(1, 0)] 9) 0).strands[(0 : Fin 8)].gather.map Gather.lanes) = some [(1, 0)] ∧
    (gatherEnds 0 (gathered [] 0)).strands[(0 : Fin 8)].vReady[(3 : Fin 32)] = 9 := by decide +kernel

/-- A gather that has read a bad word. -/
def gatherBad : Gather := ⟨false, 4, [], 0, .v 3, 4, 0, some 8⟩

theorem test_meets_gather_bad : (strandTile { active with gather := some gatherBad }).strands[(0 : Fin 8)].gather = some gatherBad ∧
    gatherBad.bad = some 8 ∧ (∀ q id, gatherBad.dest ≠ .queue q id) ∧
    ([((1 : Nat), (8 : Nat))].findSome? fun e => badIn [2] e.2 4) = some 2 := ⟨rfl, rfl, fun _ _ => by simp [gatherBad], by decide⟩

/-- R153: a word that has gone bad is seen by the granule that reads it, and the gather then traps and writes nothing. -/
theorem test_gather_bad : ((serveBank 0 { gathered [(1, 0)] 0 with badLm := [0] } 0).strands[(0 : Fin 8)].gather.map Gather.bad) = some (some 0) ∧
    ((gatherFault 0 (onTile (strandTile { active with gather := some gatherBad })) 0).strandAt 0 0).eval = 8 := by decide +kernel

theorem test_meets_gather_lanes : eaFault 4 (laneEa 4 (popG false 4 (base 2)).1 (popV false 5 (base 2)).1 0) = some .alignment ∧
    (∀ j : Fin 16, eaFault 4 (laneEa 4 (popG false 4 st).1 (popV false 5 st).1 j) = none) ∧
    (readM st 0).getLsbD 0 = true ∧
    (∀ e ∈ ((List.range 16).map fun j => ((j : Nat), (laneEa 4 (popG false 4 st).1 (popV false 5 st).1 j).toNat)), bankFree st.myTile e.2 = true) ∧
    (∀ w ∈ st.myTile.bankWait, w.party = partyOf st.hart) ∧ (∀ j : Fin 16, (laneEa 4 (popG false 4 st).1 (popV false 5 st).1 j).toNat = 0) ∧
    boundTo st true 3 = none ∧ boundTo bound true 25 = some 1 ∧ (∀ e ∈ bound.myTile.outQ[(1 : Fin 8)], e.pending = none) := by
  decide +kernel

/-! ### Atomic operations and global memory -/

/-- A group in context 5, and a translation of the page at 0x10000 to HBM 0x200000; the page at 0x20000 to tile 1's window. -/
def group : Group := { lnum := 1, rank := 0, index := 0, origin := 0, w := 2, h := 1, args := 0, gidx := (0, 0, 0), gdim := (1, 1, 1), ctx := 5, dur := 0, mask := 1, gang := false, standing := false, latency := false, det := false }

/-- A page of the translation cache. -/
def page (va pa : Nat) (w : Bool) : TlbEntry := ⟨5, va, 0x10000, pa, w, w, false⟩

/-- A strand of that group with registers as given. -/
def inGroup (r : Regs) : State := onTile { strandTile { active with r := r } with
  group := some group, tlb := [page 0x10000 0x200000 true, page 0x20000 0x8000000010000 true, page 0x30000 0x400000 false] }

theorem test_meets_amo_banks : (Served st 0 ∧ (nextClaim st.myTile).map bankOf ≠ some (bankOf 0)) ∧
    ¬(Served awaited 0 ∧ (nextClaim awaited.myTile).map bankOf ≠ some (bankOf 0)) := by
  unfold Served; decide

theorem test_meets_amo : let i : Instr := .amo .add true true .plain 3 4 5
    let j : Instr := .amo .fadd false false .plain 3 4 5
    Ready st i (needOf i) ∧ Ready (inGroup (g1 4 0x10000)) j (needOf j) ∧ drained (inGroup (g1 4 0x10000)) = true ∧
    deterministic st = false ∧
    deterministic ((inGroup {}).modTile 0 fun x => { x with group := some { group with det := true } }) = true ∧
    canonical 0x10000 = true ∧ canonical 0x200000000000000 = false ∧ (∀ k, (inGroup {}).hart ≠ .mgmt k) ∧
    tlbFind (inGroup {}).myTile 5 0x10000 true = some (page 0x10000 0x200000 true) ∧
    tlbFind (inGroup {}).myTile 5 0x40000 true = none ∧ (inGroup {}).ctxOf (inGroup {}).hart = 5 ∧
    inHbm (tlbPa (page 0x10000 0x200000 true) 0x10000) 8 = true ∧ windowTile 0xF000000000000 = none :=
  ⟨ready_of (by decide), ready_of (by decide), by decide, by decide, by decide, by decide, by decide,
    fun k => by simp [inGroup, onTile, State.setTile], by decide, by decide, by decide, by decide, by decide⟩

/-- A state with tile 0 in its second cycle. -/
def second (s : State) : State := s.modTile 0 fun x => { x with cycle := 1 }

/-- A local add of 7 to the word at 8, issued in cycle 0, and a compare-and-swap that fails. -/
def adding : State := after (.amo .add false true .plain 3 4 5) (stR (g2 4 8 5 7))
def swapping : State := after (.amo .cas false true .plain 3 4 5) (stR { g1 4 8 with g := ((g1 4 8).g.set 5 7).set 3 1 })

theorem test_meets_amo_cycles : (adding.regsOf (.strand 0 0)).amo = some ⟨.add, 4, 8, 7, 0, 0, .g 3, 0, 0, 0⟩ ∧
    ((second adding).regsOf (.strand 0 0)).amo = some ⟨.add, 4, 8, 7, 0, 0, .g 3, 0, 0, 0⟩ ∧ (adding.tile 0).running = true ∧
    (adding.tile 0).cycle = 0 ∧ ((second adding).tile 0).cycle = 0 + 1 ∧ matrixTook ((second adding).tile 0) 8 = false ∧
    matrixTook { (second adding).tile 0 with matrixAt := some (1, 8) } 8 = true ∧ badIn ((second adding).tile 0).badLm 8 4 = none ∧
    badIn ({ (second adding).tile 0 with badLm := [2] } : Tile).badLm 8 4 = some 2 := by decide

/-- R250: at the end of its second bank cycle a local add returns the old word and leaves the sum, a failing
compare-and-swap leaves memory, and a claim of the bank by the matrix unit in that cycle leaves both undone. -/
theorem test_amo_local : (adding.myTile.lm = [] ∧ memBytes (amoCycle (.strand 0 0) (second adding)).myTile.lm 8 4 = [7, 0, 0, 0]) ∧
    (amoCycle (.strand 0 0) (second adding)).regs.gReady[(3 : Reg)] = 6 ∧
    (amoCycle (.strand 0 0) (second swapping)).myTile.lm = [] ∧
    (amoCycle (.strand 0 0) ((second adding).modTile 0 fun x => { x with matrixAt := some (1, 8) })).myTile.lm = [] := by decide

theorem test_meets_global : let f := inGroup (g1 4 0x10000)
    Ready f (.ld .w false false 3 4 0) (needOf (.ld .w false false 3 4 0)) ∧ globalReady f false false = true ∧
    Ready f (.vstG false false 3 4 0) (needOf (.vstG false false 3 4 0)) ∧ globalReady f true false = true ∧
    (plusOffset (src1 4 f).1 0).toNat % 4 = 0 ∧ canonical (plusOffset (src1 4 f).1 0) = true ∧
    (plusOffset (src1 4 f).1 2).toNat % 4 ≠ 0 ∧ canonical (plusOffset 0xFE00000000000000 (-4)) = false ∧
    tlbFind f.myTile 5 0x30000 true = none ∧ (tlbFind f.myTile 5 0x30000 false).isSome = true ∧ NotLast f ∧
    Ready mg (.ld .d false false 3 0 0) (needOf (.ld .d false false 3 0 0)) ∧ foreignFrame mg 0 = false ∧ NotLast mg ∧
    (∃ g, globalForm f (.ld .w false false 3 4 0) = some g) :=
  ⟨ready_of (by decide), by decide, ready_of (by decide), by decide, by decide, by decide, by decide, by decide, by decide,
    by decide, by unfold NotLast; decide, ready_of (by decide), by decide, by unfold NotLast; decide, _, rfl⟩

/-- R242: a load issues at its translated address and the strand goes on. -/
theorem test_global_issue : let u := after (.ld .w false false 3 4 1) (inGroup (g1 4 0x10000))
    u.regs.accesses.map (fun a => (a.pa, a.n, a.ctx)) = [(0x200004, 4, 5)] ∧ u.regs.pc = 4 ∧
    (after (.ld .w false false 3 4 0) (inGroup (g1 4 0x40000))).regs.held.map (fun h => (h.va, h.wr, h.phase)) = some (0x40000, false, .walk) := by decide

/-- A handle of 16 bytes at HBM 0x200000, read-only or not. -/
def handled (w : Bool) (off : W64) : State :=
  let h : Handle := ⟨true, w, 0x200000, 16, 0x10000, 0x10000, 0x10000, 5⟩
  inGroup { g1 4 off with h := (Vector.replicate 8 {}).set 1 h }

theorem test_meets_handles : let i : Instr := .ldh .d false false 3 1 4 0
    Ready (handled true 8) i (needOf i) ∧ globalReady (handled true 8) false false = true ∧
    ((handled true 8).regs.h[(1 : Fin 8)]).valid = true ∧ ((handled true 8).regs.h[(2 : Fin 8)]).valid = false ∧
    (∃ g, handleForm (handled true 8) i = some (1, g)) ∧
    (src1 4 (handled true 8)).1.toNat ≤ 16 - 8 ∧ 16 - 8 < (src1 4 (handled true 9)).1.toNat ∧
    (0x200000 + (src1 4 (handled false 4)).1.toNat) % 8 ≠ 0 :=
  ⟨ready_of (by decide), by decide, by decide, by decide, ⟨_, rfl⟩, by decide, by decide, by decide⟩

/-- R248: the range comes before the alignment, both before the write permission. -/
theorem test_handle_order : (after (.ldh .d false false 3 2 4 0) (handled true 8)).me.ecause = 6 ∧
    (after (.sth .d false false 3 1 4 0) (handled false 9)).me.ecause = 3 ∧
    (after (.sth .d false false 3 1 4 0) (handled false 4)).me.ecause = 2 ∧
    (after (.sth .d false false 3 1 4 0) (handled false 8)).me.ecause = 5 ∧
    (after (.sth .d false false 3 1 4 0) (handled true 8)).regs.accesses.map Access.pa = [0x200008] := by decide

theorem test_meets_xlat : Ready (inGroup (g2 4 0x10000 5 8)) (.xlat 1 4 5) { gs := [4, 5] } ∧ Ready st (.xrel 1) {} ∧
    Ready st .fenceS {} ∧ canonical (src2 4 5 (inGroup (g2 4 0x10000 5 8))).1 = true ∧
    0x10000 + 0x10000 < (0x1FFFF : W64).toNat % 2 ^ 57 + 2 ∧ (0x1FFFF : W64).toNat % 2 ^ 57 + 1 ≤ 0x10000 + 0x10000 :=
  ⟨ready_of (by decide), ready_of (by decide), ready_of (by decide), by decide, by decide, by decide⟩

/-- An outstanding access of strand 0 of tile 0. -/
def acc (k : AccKind) (pa n : Nat) : Access :=
  { id := 0, pc := 0, va := 0x10000, pa := pa, n := n, kind := k, dest := match k with | .load => .g 3 | _ => .none
    relaxed := false, acquire := false, blocking := false, handle := none, ctx := 5 }

def pending (k : AccKind) (pa n : Nat) : State := inGroup { accesses := [acc k pa n] }

theorem test_meets_accesses : (pending .load 0x200000 4).regs.accesses = [acc .load 0x200000 4] ∧
    inHbm 0x200000 4 = true ∧ (pending .load 0x200000 4).failedIn 0x200000 4 = false ∧
    { pending .load 0x200000 4 with failedLines := [0x4000] }.failedIn 0x200000 4 = true ∧
    (pending .load 0x200000 4).postsOf 0x200000 4 = [] ∧ inHbm 0x1E000000000 4 = false ∧ paRange 0x1E000000000 ≠ 0xF ∧
    windowTile 0x1E000000000 = none ∧ reachesBlock (.strand 0 0) 0x1E000000000 = false := by decide

/-- Every link failed: a reply from the other stack cannot come back (R389, R417). -/
theorem test_meets_replies : let s := { pending .load 0x200000 4 with hub := { ({} : Hub) with cuts := List.range 760 } }
    (pending .load 0x200000 4).replyOpen (hartSite (.strand 0 0)) 0x200000 4 = true ∧
    (s.replyOpen (hartSite (.strand 0 0)) 0x200000 4 = false ∨ s.replyOpen (hartSite (.strand 2879 0)) 0x200000 4 = false) := by decide +kernel

/-- R243: a load's bytes reach its register; a store's bytes stand at its address. -/
theorem test_access_done : let s := { pending .load 0x200000 4 with mem := memWrite [] 0x200000 [1, 2, 3, 4] }
    (after (.accessComplete (.strand 0 0) 0) s).regs.g[(3 : Reg)] = 0x04030201 ∧
    (after (.accessComplete (.strand 0 0) 0) s).regs.accesses = [] ∧
    (after (.accessComplete (.strand 0 0) 0) (pending (.store [9, 8]) 0x200000 2)).hbmBytes 0x200000 3 = [9, 8, 0] := by decide +kernel

/-! ### Vectors and masks -/

theorem test_meets_vectors : lane2 (.vaddInt .i8 1 2 3 0) ≠ none ∧ lane1 (.vneg .f32 1 2 0) ≠ none ∧
    lane3 (.vfma .bf16 1 2 3 0) ≠ none ∧ elemOf .i8 st.me.fmt8.toNat = some (.int 8 true) ∧
    Ready st (.vaddInt .i8 1 2 3 0) { vs := [2, 3], vd := some 1, ms := [0] } ∧
    Ready st (.vneg .f32 1 2 0) { vs := [2], vd := some 1, ms := [0] } ∧ isFlt (.flt fmtF32) = true ∧
    elemOf .f32 st.me.fmt8.toNat = some (.flt fmtF32) ∧
    Ready st (.vfma .f32 1 2 3 0) { vs := [2, 3, 1], vd := some 1, ms := [0] } ∧
    Ready st (.vsin 1 2 0) { vs := [2, 1], vd := some 1, ms := [0] } ∧ isInt (.int 8 true) = true :=
  ⟨by simp [lane2], by simp [lane1], by simp [lane3], rfl, ready_of (by decide), ready_of (by decide), rfl, rfl,
    ready_of (by decide), ready_of (by decide), rfl⟩

theorem test_meets_formats : fmt8Of 0x10 ≠ none ∧ 0x7F800000 < 2 ^ fmtF32.width ∧ decodeF fmtF32 0x7F800000 ≠ .nan ∧
    decodeF fmtF32 0x7F800001 = .nan ∧ decodeF fmtBf16 1 ≠ .nan := by decide +kernel

/-- Codes of the binary8 formats; operands in the ranges of the special functions (R129, R144-R151). -/
theorem test_meets_special : (∃ p, fmtS8 3 true = fmtS8 p true) ∧ decodeF (fmtS8 3 true) 0x85 ≠ .nan ∧ decodeF (fmtS8 3 true) 0x80 = .nan ∧
    decodeF fmtF32 0x40400000 ≠ .nan ∧ cmpNum (decodeF fmtF32 0x40400000) (.fin false (2 ^ 23 + 0x400000) (1 - 23)) = .eq ∧
    cmpNum (decodeF fmtF32 0x00400000) (.fin false (2 ^ 23 + 0) (-127 - 23)) = .eq ∧
    (0x7F800000 < 0x7FC00000 % 2 ^ 31 ∧ 0x49800000 < 0x49800001 % 2 ^ 31 ∧ 0x3F800000 % 2 ^ 31 ≤ 0x49800000) ∧
    decodeF fmtF32 0x3F800000 = .fin false (2 ^ 23) (-23) ∧ 0x43000000 < 0x43000001 ∧ 0xC3170000 < 0xC3170001 := by
  refine ⟨⟨3, rfl⟩, ?_⟩; decide +kernel

/-- R129: a zero of a signed binary8 format is 0x00, and an unsigned format has no negative value. R145, R149, R150, R151: the
reciprocal of 2, the square root of 4, 2 to the third, the logarithm of 8. -/
theorem test_special : fnegLane (.flt (fmtS8 3 true)) .rne 0 = (0, 0) ∧ fnegLane (.flt (fmtU8 3 true)) .rne 5 = (0xFF, 16) ∧
    (rcpLane 0x40000000).1 = 0x3F000000 ∧ sqrtLane .rne 0x40800000 = (0x40000000, 0) ∧ exp2Lane 0x40400000 = (0x41000000, 0) ∧
    log2Lane 0x41000000 = (0x40400000, 0) := by decide +kernel

/-- A code that no saturating conversion changes: it stands for no infinity. -/
theorem test_meets_formats_sat : ∀ n, decodeF fmtBf16 1 ≠ .inf n := by
  intro n; cases n <;> decide +kernel

theorem test_meets_masks : Claims.compare (.veq .i8 1 2 3 0) ≠ none ∧
    Ready st (.veq .i8 1 2 3 0) { vs := [2, 3], ms := [0], md := some 1 } ∧ Ready st (.mand 1 2 3) { ms := [2, 3], md := some 1 } ∧
    Ready st (.mnot 1 2) { ms := [2, 2], md := some 1 } ∧ Ready st (.mpopc 1 2) { ms := [2], gd := some 1 } ∧
    Ready st (.mset 1 2) { gs := [2], md := some 1 } :=
  ⟨by simp [Claims.compare], ready_of (by decide), ready_of (by decide), ready_of (by decide), ready_of (by decide), ready_of (by decide)⟩

theorem test_meets_permutes : perm2 (.vperm .i8 1 2 3 0) ≠ none ∧ slide (.vslup .i8 1 2 3 0) ≠ none ∧
    Ready st (.vperm .i8 1 2 3 0) { vs := [2, 3], vd := some 1, ms := [0] } ∧
    Ready st (.vslup .i8 1 2 3 0) { vs := [2], gs := [3], vd := some 1, ms := [0] } ∧
    Ready st (.vswp .i8 1 2 0) { vs := [2], vd := some 1, ms := [0] } ∧ Ready st (.vldi .i8 1 5 0) { vd := some 1, ms := [0] } ∧
    Ready st (.vmovg .i8 1 2 0) { gs := [2], vd := some 1, ms := [0] } ∧ Ready st (.vext .i8 1 2 3) { vs := [2], gs := [3], gd := some 1 } ∧
    Ready st (.vins .i8 1 2 3) { gs := [2, 3], vd := some 1 } ∧
    Ready st (.vsel .i8 1 2 3 0) { vs := [2, 3], vd := some 1, ms := [0] } :=
  ⟨by simp [perm2], by simp [slide], ready_of (by decide), ready_of (by decide), ready_of (by decide), ready_of (by decide),
    ready_of (by decide), ready_of (by decide), ready_of (by decide), ready_of (by decide)⟩

/-- R91: under RDN a zero result of the sum tree is −0. -/
theorem test_vrsum_rdn_zero : treeAdd fmtF32 .rdn 0 0 = (0x80000000, 0) ∧ treeAdd fmtF32 .rne 0 0 = (0, 0) := by decide

theorem test_meets_reductions : reduction (.vrsumi .i8 1 2 0) ≠ none ∧ conversion (.vcvt .i8 .f32 1 2 0) ≠ none ∧
    Ready st (.vrsumi .i8 1 2 0) { vs := [2], ms := [0], gd := some 1 } ∧
    Ready st (.vcvt .i8 .f32 1 2 0) { vs := [2], vd := some 1, ms := [0] } ∧
    ((List.range (512 / 8)).filter fun j => (readM st 0).getLsbD j) ≠ [] :=
  ⟨by simp [reduction], by simp [conversion], ready_of (by decide), ready_of (by decide), by decide⟩

/-- Lanes that are all NaN, none active, and zeros of both signs; integers none active (R74, R92). -/
theorem test_meets_picks : ((List.range (512 / fmtF32.width)).filter fun j => (0 : W64).getLsbD j) = [] ∧
    decodeF fmtF32 (laneAt 32 (BitVec.allOnes 512) 0) = .nan ∧ numNeg (decodeF fmtF32 0x80000000) = true ∧
    cmpNum (decodeF fmtF32 0x80000000) (decodeF fmtF32 0) = .eq := by decide +kernel

/-- R74, R92: over no active lane the maximum is minus infinity; +0 passes -0; NaNs are set aside unless all are. -/
theorem test_picks : pickLanes true (.flt fmtF32) 0 0 = 0xFF800000 ∧ pickLanes false (.flt fmtF32) 0 0 = 0x7F800000 ∧
    pickLanes true (.flt fmtF32) 3 0x80000000 = 0 ∧ pickLanes false (.flt fmtF32) 3 0x80000000 = 0x80000000 ∧
    pickLanes true (.flt fmtF32) 3 0x7FC000013F800000 = 0x3F800000 ∧ pickLanes true (.flt fmtF32) 1 0x7FC00001 = 0x7FC00000 ∧
    pickLanes true (.int 8 true) 0 0 = -128 := by decide +kernel

/-- Vector registers v2 and v3 as given, m1 enabling lanes 0 and 1. -/
def vecs (x y : V512) : State := onTile (strandTile { active with
  v := ((({} : Strand).v.set 2 x).set 3 y).set 1 0xFF, m := ({} : Strand).m.set 1 3 })

/-- Lane `j` of width `w` of v1 after an instruction. -/
def lane (i : Instr) (s : State) (w j : Nat) : Nat := laneAt w ((after i s).me.v[(1 : Reg)]) j

/-- R124, R131, R134: sums wrap in their lanes, a lane that the mask leaves out keeps its value, vslup shifts lanes up. -/
theorem test_vector_lanes : lane (.vaddInt .i8 1 2 3 0) (vecs 0x01FF 0x0101) 8 0 = 0 ∧
    lane (.vaddInt .i8 1 2 3 0) (vecs 0x01FF 0x0101) 8 1 = 2 ∧ lane (.vaddInt .i32 1 2 3 1) (vecs 5 6) 32 2 = 0 ∧
    lane (.vswp .i8 1 2 0) (vecs 0x0102 0) 8 0 = 1 ∧ lane (.vldi .i16 1 0x3FF 0) st 16 31 = 0xFFFF ∧
    (after (.vrsumi .i8 1 2 0) (vecs 0xFF01 0)).regs.g[(1 : Reg)] = 0 ∧ (after (.mpopc 1 1) (vecs 0 0)).regs.g[(1 : Reg)] = 2 ∧
    (after (.veq .i8 2 2 3 0) (vecs 0x0100 0x0000)).me.m[(2 : Fin 8)] = 0xFFFFFFFFFFFFFFFD := by decide +kernel

/-- R127, R71, R84: 1.5 + 2.25 = 3.75 in f32, 1 + infinity = infinity, and 128 is clamped to the greatest i8. -/
theorem test_float_lanes : lane (.vaddFp .f32 1 2 3 0) (vecs 0x3FC00000 0x40100000) 32 0 = 0x40700000 ∧
    lane (.vaddFp .f32 1 2 3 0) (vecs 0x3F800000 0x7F800000) 32 0 = 0x7F800000 ∧
    lane (.vcvt .i8 .f32 1 2 0) (vecs 0x43000000 0) 8 0 = 0x7F := by decide +kernel

/-! ### The matrix unit -/

/-- An issued matrix instruction of strand 0. -/
def op (i : Instr) (a : W64) (dest : Dest) : MatOp :=
  { strand := 0, instr := i, pc := 0, a := a, v := 0, rm := 0, fmt8 := 0, popped := [], sstat := 0, dest := dest }

/-- The unit with a first queued instruction, and with one executing since cycle 0 for `dur` cycles. -/
def queuedOp (i : Instr) (a : W64) : State := st.modTile 0 fun x => { x with mx := { x.mx with queue := [op i a .none] } }
def runs (i : Instr) (a : W64) (dest : Dest) (dur : Nat) : State := st.modTile 0 fun x => { x with
  mx := { x.mx with run := some ⟨op i a dest, 0, dur, false, [], []⟩ } }

theorem test_meets_matrix_issue : matrixWord (.mst 4 9 .f32) = some (some 9, none) ∧ Ready st (.mst 4 9 .f32) (needOf (.mst 4 9 .f32)) ∧
    legalNow st (.mst 4 9 .f32) = true ∧ drained st = true ∧ drained (pending .load 0x200000 4) = false ∧
    Ready (pending .load 0x200000 4) .mwait (needOf .mwait) ∧ legalNow (pending .load 0x200000 4) .mwait = true :=
  ⟨rfl, ready_of (by decide), by decide, by decide, by decide, ready_of (by decide), by decide⟩

theorem test_meets_matrix_begin : let s := queuedOp (.mst 4 9 .f32) 0x7F000
    let z := queuedOp (.mst 4 9 .f32) 0x7F040
    (s.tile 0).mx.run = none ∧ (s.tile 0).mx.queue = op (.mst 4 9 .f32) 0x7F000 .none :: [] ∧
    (s.tile 0).mx.beginFrom ≤ (s.tile 0).cycle ∧ beginCond (s.tile 0).mx (s.tile 0).cycle (.mst 4 9 .f32) = true ∧
    (s.tile 0).mx.accWait = [] ∧ beginCheck (s.tile 0) (op (.mst 4 9 .f32) 0x7F000 .none) = none ∧
    beginCheck (z.tile 0) (op (.mst 4 9 .f32) 0x7F040 .none) = some (.bounds, 0x7F040) ∧
    (s.strandAt 0 0).inh = false ∧ (s.strandAt 0 0).etvec.toNat = 0x100 := by decide +kernel

/-- R201: mst in f32 occupies the unit for 64 cycles; an address past the end raises bounds at the instruction. -/
theorem test_matrix_begin : ((after (.matrixInstructionBegin 0) (queuedOp (.mst 4 9 .f32) 0x7F000)).tile 0).mx.run.map MatRun.dur = some 64 ∧
    ((after (.matrixInstructionBegin 0) (queuedOp (.mst 4 9 .f32) 0x7F040)).strandAt 0 0).ecause = 3 := by decide +kernel

/-- The unit with a run of an instruction at its cycle `k`, in a tile with a bad word of local memory or not. -/
def midRun (i : Instr) (a : W64) (dur k : Nat) (bad : List Nat) : State := st.modTile 0 fun x => { x with
  cycle := k, badLm := bad
  mx := { x.mx with run := some ⟨op i a .none, 0, dur, false, List.replicate k 0, []⟩
                    latch := x.mx.latch.set 1 { st := .filling, size := 65, flits := List.replicate k {} } } }

theorem test_meets_matrix_cycles : HandlerReady st 0 0 ∧
    (accNamed (.mst 4 9 .f32) = some 4 ∧ ∃ w ∈ ({ (st.tile 0).mx with accWait := [(.event .powerOnBoot, 4)] } : Matrix).accWait, w.2 = (4 : AccNo).val) ∧
    readsAcc (.mst 4 9 .f32) (1024 * 4 + 5) ∧ readsAcc (.mrow 1 3 5 true) (16 * (64 + 10 + 1) + 2) ∧
    ((st.modTile 0 fun x => { x with badAcc := [4101] }).tile 0).badAcc = [4101] ∧ (st.tile 0).badAcc = [] ∧ (st.tile 0).badLm = [] ∧
    ((midRun (.mst 4 9 .f32) 0x40 64 3 []).tile 0).mx.run = some ⟨op (.mst 4 9 .f32) 0x40 .none, 0, 64, false, List.replicate 3 0, []⟩ ∧
    ((midRun (.mst 4 9 .f32) 0x40 64 3 []).tile 0).cycle - 0 = 3 ∧ ((midRun (.mst 4 9 .bf16) 0x40 32 31 []).tile 0).cycle = 31 ∧
    ((midRun (.mlb 9 1) 0x40 65 3 []).tile 0).mx.latch[(1 : Fin 2)].flits.length = 3 ∧
    3 < ((midRun (.mlb 9 1) 0x40 65 3 []).tile 0).mx.latch[(1 : Fin 2)].size ∧
    ((midRun (.mlb 9 1) 0x40 65 0 [0x12]).tile 0).badLm = [0x12] ∧ (0x40 + 32 * 0 < 4 * 0x12 + 4 ∧ 4 * 0x12 < 0x40 + 32 * 0 + 32) ∧
    ((midRun (.mma 0 9 .i8 .i8 1 false false true) 0x40 64 31 [0x200]).tile 0).badLm = [0x200] ∧
    (0x40 + 64 * 31 < 4 * 0x200 + 4 ∧ 4 * 0x200 < 0x40 + 64 * 31 + 64) := by
  unfold HandlerReady readsAcc; decide +kernel

/-- A run of an mst whose accumulator word of the cycle is bad, after two granules; the residue of block 4 does not match. -/
def midStore : State := st.modTile 0 fun x => { x with cycle := 2, badAcc := [0x1020]
                                                       lm := [(0x40, 9)]
                                                       mx := { x.mx with run := some ⟨op (.mst 4 9 .f32) 0x40 .none, 0, 64, false, [0, 0], [(0x80, [0]), (0x40, [5])]⟩ } }
def residued : State := (queuedOp (.mst 4 9 .f32) 0x7F000).modTile 0 fun x => { x with accResidue := [4] }

theorem test_meets_matrix_faults : (midStore.tile 0).badAcc = [0x1020] ∧ (0x1000 * 4 + 64 * 2 < 4 * 0x1020 + 4 ∧ 4 * 0x1020 < 0x1000 * 4 + 64 * 2 + 64) ∧
    beginCheck (residued.tile 0) (op (.mst 4 9 .f32) 0x7F000 .none) = none ∧ (residued.tile 0).badAcc = [] ∧ (residued.tile 0).accResidue = [4] ∧
    readsAcc (.mst 4 9 .f32) (1024 * 4) ∧ (1024 * 4) / 1024 = 4 ∧ (∀ c a f, (Instr.mrow 1 3 5 true) ≠ .mst c a f) := by
  refine ⟨rfl, by decide, by decide +kernel, rfl, rfl, by unfold readsAcc; decide, by decide, by simp⟩

/-- R213: an mst that meets a bad accumulator word traps with its address and has written nothing; a block whose residue does not
match traps as that register. -/
theorem test_matrix_faults : ((after (.matrixInstructionBegin 0) midStore).strandAt 0 0).eval = 0x84080 ∧
    memRead ((after (.matrixInstructionBegin 0) midStore).tile 0).lm 0x40 1 = 5 ∧
    ((after (.matrixInstructionBegin 0) residued).strandAt 0 0).eval = 0x8000000000000044 := by decide +kernel

/-- R203, R208: mst stores its granule of the cycle; R365: an mlb whose flit has a bad word traps with the word's address. -/
theorem test_matrix_cycles : memBytes ((after (.matrixInstructionBegin 0) ((midRun (.mst 4 9 .f32) 0x40 64 1 []).modTile 0 fun x => { x with acc := memWrite [] 0x4040 [9] })).tile 0).lm 0x80 2 = [9, 0] ∧
    ((after (.matrixInstructionBegin 0) (midRun (.mlb 9 1) 0x40 65 0 [0x12])).strandAt 0 0).ecause = 13 ∧
    ((after (.matrixInstructionBegin 0) (midRun (.mlb 9 1) 0x40 65 0 [0x12])).strandAt 0 0).eval = 0x48 := by decide +kernel

theorem test_meets_matrix_checks : (st.tile 0).mx.latch[(0 : Fin 2)].st = .free ∧
    ({ (st.tile 0).mx with latch := (st.tile 0).mx.latch.set 1 { st := .armed } } : Matrix).latch[(1 : Fin 2)].st ≠ .free ∧
    (0x7F800 : W64).toNat + 2048 ≤ 0x80000 ∧ 0x80000 < (0x7F840 : W64).toNat + 2048 ∧ (0x7F820 : W64).toNat % 64 ≠ 0 := by decide

theorem test_meets_matrix_end : ((runs (.mzero 4) 0 .none 2).tile 0).mx.run = some ⟨op (.mzero 4) 0 .none, 0, 2, false, [], []⟩ ∧
    ((runs (.mzero 4) 0 .none 2).tile 0).cycle < 0 + 2 ∧ 0 + 0 ≤ ((runs (.mzero 4) 0 .none 0).tile 0).cycle ∧
    (((runs (.mzero 4) 0 .none 0).strandAt 0 0).r.pc + 4).toNat ≤ 0xFFFC ∧
    (∀ l : Fin 2, ((runs (.mzero 4) 0 .none 0).strandAt 0 0).r.lc[l] = 0) := by decide +kernel

/-- A finished mma of integers or of bf16 elements with latch 1 full. -/
def summed (fa : MatSel) : State := st.modTile 0 fun x => { x with
  mx := { x.mx with run := some ⟨op (.mma 4 9 fa fa 1 false false true) 0x40 .none, 0, 0, false, [2], []⟩
                    latch := x.mx.latch.set 1 { st := .full, size := 65, flits := [{}, { data := 3 }] } } }

theorem test_meets_matrix_sums : ((summed .i8).tile 0).mx.run.map (·.op.instr) =
      some (if (false : Bool) then .mms 4 9 .i8 .i8 1 false false true else .mma 4 9 .i8 .i8 1 false false true) ∧
    macCodes .i8 .i8 false 0 0 = (48, 48) ∧ macCode 48 ∧ macCode 1 ∧ macCode 0x10 ∧ codeWidth 48 = codeWidth 0x10 ∧
    macCodes .bf16 .i8 false 0 0 = (1, 48) ∧ macCodes .bf16 .bf16 true 0 0x30 = (48, 48) ∧ (false && (0x30 : Nat).testBit 24) = false ∧
    ((summed .bf16).tile 0).badAcc = [] ∧ (∀ l : Fin 2, ((summed .i8).strandAt 0 0).r.lc[l] = 0) ∧
    below 1 (.fin false 1 0) ∧ ¬below 0 (.fin false 1 0) := by
  unfold macCode below; decide +kernel

/-- R205, R93: 2 × 3 on integers is 6; 1.5 × 2 + 1 is 4 in f32; 0 × ∞ is invalid. -/
theorem test_matrix_sums : (macElem (macForm .i8 .i8 false 0 0) false true .rne 0 [.fin false 2 0] [.fin false 3 0]).1 = 6 ∧
    macElem (macForm .bf16 .bf16 false 0 0) false false .rne 0x3F800000 [.fin false 3 (-1)] [.fin false 2 0] = (0x40800000, 0) ∧
    macElem (macForm .bf16 .bf16 false 0 0) false true .rne 0 [.fin false 0 0] [.inf false] = (0x7FC00000, 16) := by decide +kernel

/-- A window that accesses reach. -/
def opened0 : State := st.modTile 0 fun x => { x with group := some group }

theorem test_meets_window : TileOpen opened0 0 ∧ accBusy (opened0.tile 0).mx (0xFFC0 / 0x1000) = false ∧
    accBusy ((runs (.mzero 15) 0 .none 2).tile 0).mx (0xFFC0 / 0x1000) = true ∧ (opened0.tile 0).unmapped = false ∧
    ((opened0.tile 0).running && ({ opened0.tile 0 with accServed := [15] } : Tile).accServed.contains (0xFFC0 / 0x1000)) = true ∧
    ((opened0.tile 0).running && (opened0.tile 0).accServed.contains (0xFFC0 / 0x1000)) = false ∧ 64 ∈ [4, 8, 32, 64] ∧ 0xFFC0 % 64 = 0 := by
  unfold TileOpen; decide

/-- R208, R193: mtag sets TAG, TAGV and STEP; a window write of the accumulators stands at its offset. -/
theorem test_matrix_end : ((after (.matrixInstructionEnd 0) (runs (.mtag 4 9) 0x05011234 .none 0)).tile 0).mx.atag[(4 : Fin 16)] = 0x1234 ∧
    ((after (.matrixInstructionEnd 0) (runs (.mtag 4 9) 0x05011234 .none 0)).tile 0).mx.tagv[(4 : Fin 16)] = true ∧
    memRead ((after (.accumulatorWindowAccess 0 0xFFFC 4 (some 7)) opened0).tile 0).acc 0xFFFC 4 = 7 := by decide +kernel

/-! ### Streams, barriers, CSRs -/

/-- Strand 0 holds queue pairs 0 (scalar) and 1 (vector), strand 1 pair 2. -/
def bound2 : State := bound.modTile 0 fun x => { x with binds := x.binds.set 2 (some ⟨1, false⟩) }

theorem test_meets_streams : Ready bound2 (.sbind false 3) {} ∧ Ready bound2 (.sfree false 0) {} ∧
    Ready bound2 (.speek 3 0) { gd := some 3 } ∧ Ready bound2 (.scnt 3 0) { gd := some 3 } ∧ Ready bound2 (.sstat 3) { gd := some 3 } ∧
    ((bound2.tile 0).binds[(0 : Fin 8)]).map Bind.strand = some 0 ∧ ((bound2.tile 0).binds[(2 : Fin 8)]).map Bind.strand ≠ some 0 ∧
    (bound2.tile 0).inQ[(0 : Fin 8)] = ⟨5, true, false, 3, 0, none⟩ :: [] ∧ bound2.myTile.sw.spc < 2048 :=
  ⟨ready_of (by decide), ready_of (by decide), ready_of (by decide), ready_of (by decide), ready_of (by decide), by decide,
    by decide, by decide, by decide⟩

/-- R164, R167: a pair another strand holds keeps sbind waiting; a second sbind of one's own traps; speek leaves the word. -/
theorem test_streams : (after (.sbind false 2) bound2).regs.pc = 0 ∧ (after (.sbind false 0) bound2).me.ecause = 7 ∧
    (after (.speek 3 0) bound2).regs.g[(3 : Reg)] = 5 ∧ (after (.speek 3 0) bound2).myTile.inQ[(0 : Fin 8)].length = 1 ∧
    (after (.scnt 3 1) bound2).regs.g[(3 : Reg)] = 8 ∧ (after (.sfree true 1) bound2).myTile.binds[(1 : Fin 8)] = none := by decide

/-- A switch stopped at a decode miss whose block is 4 flits long. -/
def missed : State := st.modTile 0 fun x => { x with sw := { x.sw with run := .stopped, fault := 0x8000 ||| (4 <<< 11), missLen := 4, inj := 4 } }

/-- Side information with every entry valid, of flow 9, installed in order. -/
def sideFull : Tile := { strandTile active with side := Vector.replicate 64 ⟨9, 0, 0, 1, true⟩, sideOrder := List.finRange 64 }

theorem test_meets_side : Ready (stR (g2 4 0x40 5 (2 <<< 32))) (.side 4 5) { gs := [4, 5] } ∧ drained st = true ∧
    0x7FFC0 + 32 * 2 ≤ 0x80000 ∧ 0x80000 < 0x7FFE0 + 32 * 2 ∧
    ((∀ j : Fin 64, st.myTile.side[j].valid = false)) ∧ st.myTile.wrote = [] ∧
    (({ st.myTile with wrote := [(0x5C, 8)] } : Tile).wrote.any fun w => decide (w.1 < 0x40 + 32 * 1) && decide (0x40 < w.1 + w.2)) = true ∧
    (sideFull.sideOrder = [] ++ (0 : Fin 64) :: (List.finRange 64).tail ∧ (∀ j : Fin 64, sideFull.side[j].valid = true ∧ sideFull.side[j].flow = 9)) ∧
    (∀ i p q r u, sideFull.sw.mode ≠ .decode i p q r u) ∧ Ready st (.sclr 4) { gs := [4] } ∧ NotLast st ∧
    Ready st (.sinj 4 5) { gs := [4, 5] } ∧ Ready missed .sresume {} ∧ missed.myTile.sw.run = .stopped ∧ Ready missed .sresumeSkip {} :=
  ⟨ready_of (by decide), by decide, by decide, by decide, by decide, by decide, by decide, by decide, by simp [sideFull, strandTile],
    ready_of (by decide), by unfold NotLast; decide, ready_of (by decide), ready_of (by decide), by decide, ready_of (by decide)⟩

/-- R181, R188, R189: side installs the lowest free entry; sinj of no flit traps; sresume restarts a stopped switch. -/
theorem test_side : ((after (.side 4 5) (stR (g2 4 0x40 5 0x200050007))).myTile.side[(0 : Fin 64)]) = ⟨7, 5, 2, 2, true⟩ ∧
    (after (.sinj 4 5) st).me.ecause = 7 ∧ (after (.sinj 4 5) (stR (g2 4 0x20 5 1))).me.sinj.isSome = true ∧
    (after .sresume missed).myTile.sw.run = .running ∧ (after .sresume st).me.ecause = 7 := by decide

theorem test_meets_barriers : Ready st (.sbinit 4 3) { gs := [4] } ∧ Ready st (.sbexp 4 3) { gs := [4] } ∧ Ready st (.sbarr 3) {} ∧
    Ready st (.sbwait 4 3) { gs := [4] } ∧ -(2 ^ 31) ≤ st.myTile.bars[(3 : Fin 32)].bytes ∧ TileOpen opened0 0 ∧
    ({ opened0 with todo := [.windowEnd true] } : State).todo.head? = some (.windowEnd true) ∧ opened0.todo = [] ∧
    2 ^ 31 - 1 < (0x80000000 : W64).toNat ∧ ¬2 ^ 31 - 1 < (0x7FFFFFFF : W64).toNat ∧ 65535 < (65536 : W64).toNat :=
  ⟨ready_of (by decide), ready_of (by decide), ready_of (by decide), ready_of (by decide), by decide, by unfold TileOpen; decide,
    by decide, by decide, by decide, by decide, by decide⟩

/-- A barrier of COUNT 1 with bytes as given. -/
def barrier (bytes : Int) : State := opened0.modTile 0 fun x => { x with bars := x.bars.set 3 ⟨1, 1, false, bytes⟩ }

/-- R170: the last arrival completes a phase only when no byte is missing; a delivery that brings BYTES to 0 then does. -/
theorem test_barriers : (after (.sbarr 3) (barrier 0)).myTile.bars[(3 : Fin 32)] = ⟨1, 1, true, 0⟩ ∧
    (after (.sbarr 3) (barrier 8)).myTile.bars[(3 : Fin 32)] = ⟨1, 0, false, 8⟩ ∧
    (after (.barrierWindowDeliver 0 3 8) { after (.sbarr 3) (barrier 8) with todo := [.windowEnd true] }).myTile.bars[(3 : Fin 32)] = ⟨1, 1, true, 0⟩ ∧
    (after (.barrierWindowDeliver 0 3 8) (after (.sbarr 3) (barrier 8))).deferred = [.barrierWindowDeliver 0 3 8] ∧
    (after (.sbwait 4 3) (barrier 0)).regs.pc = 0 ∧ (after (.sbarr 4) st).me.ecause = 7 := by decide

/-- R168: inbox 3 takes a flit as four words; inboxes 0-2 belong to the switch. -/
theorem test_inboxes : ((after (.queueInboxWrite 0 3 true false 5) opened0).tile 0).inQ[(3 : Fin 8)].map QEntry.word = [5, 0, 0, 0] ∧
    ((after (.queueInboxWrite 0 2 true false 5) opened0).tile 0).inQ[(2 : Fin 8)] = [] := by decide +kernel

theorem test_meets_csrs : Ready st (.csrr 3 0x040) { gd := some 3 } ∧ csrLegal st 0x040 false = true ∧ resultsWritten st = true ∧
    Ready st (.csrw 3 4 0x010) { gs := [4], gd := some 3 } ∧ csrLegal st 0x010 true = true ∧ csrLegal st 0x040 true = false ∧
    resultsWritten (stR { resultsFrom := 5 }) = false ∧ (opened0.tile 0).group = some group ∧
    Ready (stR { resultsFrom := 5 }) (.csrr 3 0x040) (needOf (.csrr 3 0x040)) :=
  ⟨ready_of (by decide), by decide, by decide, ready_of (by decide), by decide, by decide, by decide, by decide, ready_of (by decide)⟩

/-- R118: csrw replaces the writable bits and gd takes the old value; csrs and csrc set and clear; an RO CSR traps (R17). -/
theorem test_csrs : (after (.csrw 3 4 0x010) (stR (g1 4 0xFF))).me.rmode = 3 ∧ (after (.csrs 3 4 0x020) (stR { g1 4 6 with lc := #v[1, 0] })).regs.lc = #v[7, 0] ∧
    (after (.csrc 3 4 0x020) (stR { g1 4 6 with lc := #v[7, 0] })).regs.g[(3 : Reg)] = 7 ∧ (after (.csrw 3 4 0x040) st).me.ecause = 1 ∧
    (after (.csrr 3 0x034) (onTile (strandTile { active with inh := true }))).regs.g[(3 : Reg)] = 1 := by decide

/-! ### Engines -/

theorem test_meets_kicks : Ready st (.ekick 4) { gs := [4] } ∧ Ready st (.embox 3) { gd := some 3 } ∧ Ready st .ewait {} ∧
    drained st = true ∧ (0 : W64).getLsbD 63 = false ∧ (0x8000000000000000 : W64).getLsbD 63 = true ∧ TileOpen opened0 0 :=
  ⟨ready_of (by decide), ready_of (by decide), ready_of (by decide), by decide, by decide, by decide, by unfold TileOpen; decide⟩

/-- R287-R289: a kick queues its word; OP 9 is no operation; a fifth job waits; CLEAR leaves the error state. -/
theorem test_kicks : (after (.ekick 4) (stR (g1 4 0x40))).myTile.eng.queue = [0x40] ∧
    (after (.ekick 4) (stR (g1 4 0x900000))).me.ecause = 7 ∧
    (after (.ekick 4) ((stR (g1 4 0x40)).modTile 0 fun x => { x with eng := { x.eng with queue := [0, 0, 0, 0] } })).regs.pc = 0 ∧
    (after (.ekick 4) ((stR (g1 4 0x8000000000000000)).modTile 0 fun x => { x with eng := { x.eng with state := .error } })).myTile.eng.state = .idle := by
  decide

/-- An engine with one queued job of OP 1 and TAG 7, and one whose job ends with an ERR. -/
def jobQueued : State := onTile { running := true, eng := { queue := [0x07100040] } }
def jobEnding (err : Nat) : State := onTile { running := true, eng := { job := some 0x07100040, state := .running, ending := some (err, 9), result := 5, queue := [0] } }

theorem test_meets_jobs : (jobQueued.tile 0).eng.job = none ∧ (jobQueued.tile 0).eng.queue = 0x07100040 :: [] ∧
    (jobQueued.tile 0).eng.state ≠ .error ∧ ((jobEnding 3).tile 0).eng.job = some 0x07100040 ∧
    ((jobEnding 3).tile 0).eng.ending = some (3, 9) ∧ regsBusy ((jobEnding 3).tile 0).eng.r = false ∧
    bits (0x07100040 : W64).toNat 0 19 + 64 ≤ 0x80000 ∧ regsBusy { accesses := [acc .load 0 4] } = true ∧
    (st.tile 0).eng.queue = [] ∧ bankFree (jobQueued.tile 0) 0x40 = true ∧ outwaited .engine 0x40 (jobQueued.tile 0) = false ∧
    bankFree ((jobQueued.modTile 0 (holdBank 0x40 5)).tile 0) 0x40 = false ∧ badIn [0x11] 0x40 64 = some 0x11 := by decide

/-- R289, R292: the job starts at 8 x OP with the kick word in g1; its end stores RESULT and ERR and sets TAG. -/
theorem test_jobs : ((after (.engineJobStart 0) jobQueued).tile 0).eng.r.pc = 8 ∧
    ((after (.engineJobStart 0) jobQueued).tile 0).eng.r.g[(1 : Reg)] = 0x07100040 ∧
    memBytes ((after (.engineJobEnd 0) (jobEnding 0)).tile 0).lm 0x78 8 = [5, 0, 0, 0, 0, 0, 0, 0] ∧
    memBytes ((after (.engineJobEnd 0) (jobEnding 3)).tile 0).lm 0x78 8 = [0, 0, 0, 0, 3, 0, 0, 0] ∧
    ((after (.engineJobEnd 0) (jobEnding 3)).tile 0).eng.done = 2 ∧ ((after (.engineJobEnd 0) (jobEnding 3)).tile 0).eng.tag = 7 := by
  decide

/-- R366, R286: a job whose descriptor has a bad word ends with ERR 8 and that word's address. -/
theorem test_job_bad : ((after (.engineJobStart 0) (jobQueued.modTile 0 fun x => { x with badLm := [0x11] })).tile 0).eng.ending = some (8, 0x44) := by
  decide

/-- The 64 bytes of a descriptor (R294). -/
def desc (src dst len w14 w18 w20 ctl w30 : Nat) : List Byte :=
  leBytes 8 src ++ leBytes 8 dst ++ leBytes 4 len ++ leBytes 4 w14 ++ leBytes 8 w18 ++ leBytes 8 w20 ++ leBytes 8 ctl ++ leBytes 8 w30

/-- The engine of tile 0 with g2 at a descriptor, and tile 0 in a group. -/
def engDesc (b : List Byte) (e : Engine) : State := { onTile { running := true, lm := memWrite [] 0x40 b, group := some group, eng := { e with job := some 0x40, desc := b, state := .running, r := g1 2 0x40 } } with hart := .engine 0 }

theorem engineAt_of {s : State} {t : TileNo} {i : Instr} {d a : Reg} {ok : Desc → Bool} {b : List Byte} (h : engineWord i = some (d, a, ok))
    (hs : s.hart = .engine t) (hd : descOf (s.tile t).eng (plainG s.regs a) = some b) (hr : readyB s i { gs := [a], gd := some d } = true)
    (hb : (drained s && (plainG s.regs a).toNat % 64 == 0 && decide ((plainG s.regs a).toNat ≤ 0x7FFC0) &&
      ok (parseDesc b)) = true) :
    EngineAt s t i d (parseDesc b) := by
  simp only [Bool.and_eq_true, beq_iff_eq, decide_eq_true_eq] at hb
  obtain ⟨⟨⟨h1, h2⟩, h3⟩, h4⟩ := hb
  exact ⟨a, ok, h, hs, ready_of hr, h1, h2, h3, ⟨b, hd, rfl⟩, h4⟩

/-- emove of 40 bytes from 0x200 to 0x320 in local memory. -/
def moving (progress : Nat) : State := engDesc (desc 0x200 0x320 40 0 0 0 0xC0 0) { progress := progress, next := progress }

/-- emove into local memory from the page at 0x10000, and out to it. -/
def movingIn : State := (engDesc (desc 0x10000 0x320 40 0 0 0 0x80 0) {}).modTile 0 fun x => { x with tlb := [page 0x10000 0x200000 true] }
def movingOut : State := (engDesc (desc 0x200 0x10000 40 0 0 0 0x40 0) {}).modTile 0 fun x => { x with tlb := [page 0x10000 0x200000 true] }

theorem test_meets_moves : (∃ x, EngineAt (moving 0) 0 (.emove 3 2) 3 x ∧ x.len = 40 ∧ ctlSrcl x.ctl = true ∧ ctlDstl x.ctl = true ∧
      ctlBaren x.ctl = false) ∧ (∃ x, EngineAt movingIn 0 (.emove 3 2) 3 x ∧ ctlSrcl x.ctl = false ∧ ctlDstl x.ctl = true) ∧
    (∃ x, EngineAt movingOut 0 (.emove 3 2) 3 x ∧ ctlSrcl x.ctl = true ∧ ctlDstl x.ctl = false) ∧ IsPiece 0x320 40 32 ∧ IsPiece 0x340 8 8 ∧ NotLast (moving 0) ∧ NoLoopEnd (moving 0) ∧
    drained en = true ∧ (plainG (moving 0).regs 2).toNat = 0x40 :=
  ⟨⟨_, engineAt_of (a := 2) (ok := moveOk) rfl rfl rfl (by decide) (by decide +kernel), by decide +kernel, by decide +kernel,
    by decide +kernel, by decide +kernel⟩, ⟨_, engineAt_of (a := 2) (ok := moveOk) rfl rfl rfl (by decide) (by decide +kernel), by decide +kernel,
    by decide +kernel⟩, ⟨_, engineAt_of (a := 2) (ok := moveOk) rfl rfl rfl (by decide) (by decide +kernel), by decide +kernel, by decide +kernel⟩, by unfold IsPiece; decide, by unfold IsPiece; decide, by unfold NotLast; decide,
    by unfold NoLoopEnd; decide, by decide, by decide⟩

/-- An engine whose word names another descriptor than the job's, one whose bank is held, one with a bad word; a hart with an
access under way. -/
def other (c : Nat) (bad : List Nat) : State := (moving 0).modTile 0 fun x => { x with
  bankUntil := x.bankUntil.set 2 c, badLm := bad, eng := { x.eng with r := g1 2 0x80 } }

theorem test_meets_descriptors : descOf ((other 0 []).tile 0).eng (plainG (other 0 []).regs 2) = none ∧ accessOpen (other 0 []) = true ∧
    Served (other 0 []) 0x80 ∧ ¬Served (other 9 []) 0x80 ∧ badIn ((other 0 [0x21]).tile 0).badLm 0x80 64 = some 0x21 ∧
    badIn ((other 0 []).tile 0).badLm 0x80 64 = none ∧
    accessOpen ((moving 0).modTile 0 fun x => { x with eng := { x.eng with r := { x.eng.r with accesses := [acc .load 0x200000 4] } } }) = false := by
  unfold Served; decide +kernel

/-- R297, R286: the other descriptor is read, a bad word in it ends the job with ERR 8. -/
theorem test_descriptors : ((after (.emove 3 2) (other 0 [])).tile 0).eng.other.map Prod.fst = some 0x80 ∧
    ((after (.emove 3 2) (other 0 [0x21])).tile 0).eng.ending = some (8, 0x84) ∧
    ((after (.emove 3 2) (other 9 [])).tile 0).eng.other = none := by decide +kernel

/-- R298: the first piece of the copy is 32 bytes; when all is done gd takes the length; a misaligned descriptor ends the
job with ERR 3, one beyond local memory with 4, one with a reserved bit with 2. -/
theorem test_moves : ((after (.emove 3 2) (moving 0)).tile 0).eng.progress = 32 ∧ (after (.emove 3 2) (moving 40)).regs.g[(3 : Reg)] = 40 ∧
    ((after (.emove 3 2) (moving 0 |>.modTile 0 fun x => { x with eng := { x.eng with r := g1 2 0x41 } })).tile 0).eng.ending = some (3, 0x41) ∧
    ((after (.emove 3 2) (moving 0 |>.modTile 0 fun x => { x with eng := { x.eng with r := g1 2 0x80000 } })).tile 0).eng.ending = some (4, 0x80000) ∧
    ((after (.emove 3 2) (engDesc (desc 0x200 0x320 40 0 0 0 0x8C0 0) {})).tile 0).eng.ending = some (2, 0x40) := by decide +kernel

theorem test_meets_pieces : EngineHas (moving 0) 0 true [] 0x200 32 (memBytes ((moving 0).tile 0).lm 0x200 32) (some 8) ∧
    EngineHas movingIn 0 false [] 0x10000 32 (movingIn.hbmBytes 0x200000 32) none ∧
    EngineHas ((moving 0).modTile 0 fun x => { x with eng := { x.eng with ahead := [(0, 0x200, List.replicate 32 5)] } }) 0 true [] 0x200 32 (List.replicate 32 5) none ∧
    ((some (8 : Fin 16) ≠ some (bankOf 0x320) ∨ ((moving 0).tile 0).running = false) ∧ Served (moving 0) 0x320) ∧
    ¬((some (8 : Fin 16) ≠ some (bankOf 0x200) ∨ ((moving 0).tile 0).running = false) ∧ Served (moving 0) 0x200) ∧
    (0x320 + 32 ≤ 0x80000 ∧ 0x80000 < (0x7FFF0 : W64).toNat + 32) := by
  unfold EngineHas Served
  refine ⟨⟨rfl, .inl ⟨rfl, by decide, .inl ⟨rfl, by decide, by decide +kernel, rfl, rfl, rfl⟩⟩⟩,
    ⟨rfl, .inl ⟨rfl, by decide, .inr ⟨rfl, by decide, rfl, page 0x10000 0x200000 true, by decide +kernel, by decide +kernel, by decide +kernel, by decide +kernel, rfl⟩⟩⟩,
    ⟨rfl, .inr ⟨[], rfl, by decide, rfl, rfl⟩⟩, by decide +kernel, by decide +kernel, by decide⟩

/-- The engine of `moving` with the first eight bytes of its piece read, of a piece that leaves local memory, or with a
delivery under way. -/
def partRead : State := (moving 0).modTile 0 fun x => { x with eng := { x.eng with buf := memBytes x.lm 0x200 8 } }
def delivery : Access := { acc (.store [1, 2, 3, 4]) (windowPa 0 0x320) 4 with va := 0x320, loc := true, units := 4 }
def delivering (c : Nat) : State := (moving 0).modTile 0 fun x => { x with
  bankUntil := x.bankUntil.set 12 c, eng := { x.eng with r := { x.eng.r with accesses := [delivery] } } }

theorem test_meets_parts : (partRead.tile 0).eng.buf = memBytes (partRead.tile 0).lm (0x200 : W64).toNat 8 ∧ (partRead.tile 0).eng.ahead = [] ∧
    IsPiece (0x200 + w64 8).toNat (32 - 8) 8 ∧ Served partRead (0x200 + 8) ∧ ¬Served (partRead.modTile 0 (holdBank 0x200 5)) (0x200 + 8) ∧
    0x80000 ≤ ((0x7FFF8 : W64) + w64 8).toNat ∧ IsPiece ((0x7FFF8 : W64) + w64 8).toNat (32 - 8) 8 ∧ (partRead.tile 0).badLm = [] ∧
    ((delivering 0).tile 0).eng.r.accesses = [delivery] ∧ delivery.kind = .store [1, 2, 3, 4] ∧ delivery.pa = windowPa 0 0x320 ∧
    (delivering 0).postsOf delivery.pa 4 = [] ∧ bankFree ((delivering 0).tile 0) 0x320 = true ∧ bankFree ((delivering 9).tile 0) 0x320 = false ∧
    outwaited .engine 0x320 ((delivering 0).tile 0) = false ∧ (aheadOf (.emove 3 2) 0 (moving 32)).isSome = true ∧
    (aheadOf (.ered 3 2) 0 (moving 32)).isSome = false := by
  unfold IsPiece Served; decide +kernel

/-- R301, R293: a delivery to the engine's own memory stands there and counts in PROGRESS when its bank serves. -/
theorem test_delivery : ((after (.accessComplete (.engine 0) 0) (delivering 0)).tile 0).eng.progress = 4 ∧
    memBytes ((after (.accessComplete (.engine 0) 0) (delivering 0)).tile 0).lm 0x320 4 = [1, 2, 3, 4] ∧
    ((after (.accessComplete (.engine 0) 0) (delivering 9)).tile 0).eng.progress = 0 := by decide +kernel

/-- egath of halves whose index word at 0x400 is 3; estream of 2 flits into queue 3; edrain of one flit from queue 4. -/
def gathering : State := (engDesc (desc 0x200 0x300 2 0 0x400 0 0x1C0 0) {}).modTile 0 fun x => { x with lm := memWrite x.lm 0x400 [3] }
def streaming : State := engDesc (desc 0x200 0 2 0 0 0 0x33040 0) {}
def draining : State := (engDesc (desc 0 0x300 1 0 0 0 0x4080 0) {}).modTile 0 fun x => { x with outQ := x.outQ.set 4 ((List.range 4).map fun j => ⟨w64 j, false, false, j, 0, none⟩) }

theorem test_meets_engine_streams : (∃ x, EngineAt gathering 0 (.egath 3 2) 3 x) ∧ (∃ x, EngineAt streaming 0 (.estream 3 2) 3 x) ∧
    (∃ x, EngineAt draining 0 (.edrain 3 2) 3 x) ∧ ((streaming.tile 0).inQ[(3 : Fin 8)]).length ≤ 12 ∧
    (∃ x, EngineAt (engDesc (desc 0x200 0x300 16 2 0x40 0x80 0xC0 0) {}) 0 (.estrd 3 2) 3 x) :=
  ⟨⟨_, engineAt_of (a := 2) (ok := gatherOk) rfl rfl rfl (by decide) (by decide +kernel)⟩,
    ⟨_, engineAt_of (a := 2) (ok := fun x => streamOk x true) rfl rfl rfl (by decide) (by decide +kernel)⟩,
    ⟨_, engineAt_of (a := 2) (ok := fun x => streamOk x false) rfl rfl rfl (by decide) (by decide +kernel)⟩, by decide,
    ⟨_, engineAt_of (a := 2) (ok := strideOk) rfl rfl rfl (by decide) (by decide +kernel)⟩⟩

/-- R299, R300: the element at 0x200 + 2 x 3 goes to 0x300; the first flit carries the head mark; a drained flit's words
stand at DST. -/
theorem test_engine_streams : ((after (.egath 3 2) (gathering.modTile 0 fun x => { x with lm := memWrite x.lm 0x206 [7, 8] })).tile 0).lm.filter (fun c => 0x300 ≤ c.1 && c.1 < 0x400) =
      [(0x300, 7), (0x301, 8)] ∧
    ((after (.estream 3 2) streaming).tile 0).inQ[(3 : Fin 8)].map (fun e => (e.h, e.e)) = [(true, false), (true, false), (true, false), (true, false)] ∧
    memRead ((after (.edrain 3 2) draining).tile 0).lm 0x308 8 = 1 := by decide +kernel

/-- ered of one i32, integer add, for two participants in COLL 6; the collective open with rank 1's part. -/
def reducing (sh : Shared) : State := engDesc (desc 0x200 0x300 1 8 (6 + 2 * 2 ^ 32) 0 0xC0 0) { shared := sh }
def coll (contrib : List (Nat × List Nat)) : Collective := { id := 9, lnum := 1, coll := 6, count := 1, type := 8, op := 0, arrival := false, rm := 0, p := 2, contrib := contrib }
def withColl (c : Collective) (s : State) : State := s.modHub fun h => { h with colls := [c] }

theorem test_meets_collectives : (∃ x, EngineAt (reducing .none) 0 (.ered 3 2) 3 x ∧ redRefused (reducing .none) group x = false ∧
      ctlSrcl x.ctl = true ∧ x.src.toNat + redSize (bits x.w14 0 4) * x.len ≤ 0x80000 ∧
      redRefused ((reducing .none)) { group with det := true } { x with w14 := 0x100 } = true) ∧
    (reducing .none).hub.colls = [] ∧ (withColl (coll [(1, [5])]) (reducing .none)).hub.colls = [] ++ coll [(1, [5])] :: [] ∧
    (∀ y ∈ (coll [(1, [5])]).contrib, y.1 ≠ group.rank) ∧ (coll [(1, [5])]).contrib.length < (coll []).p ∧
    (∃ x, EngineAt (reducing (.collective 9)) 0 (.ered 3 2) 3 x) ∧ (∃ x, EngineAt (reducing (.writing 9 [1, 2, 3, 4])) 0 (.ered 3 2) 3 x) ∧
    (withColl (coll [(1, [5])]) (reducing .none)).hub.colls.find? (fun y => y.id == 9) = some (coll [(1, [5])]) ∧
    IsPiece 0x300 4 4 ∧ (coll [(1, [5]), (0, [6])]).p = (coll [(1, [5]), (0, [6])]).contrib.length :=
  ⟨⟨_, engineAt_of (a := 2) (ok := redOk) rfl rfl rfl (by decide) (by decide +kernel), by decide +kernel, by decide +kernel,
    by decide +kernel, by decide +kernel⟩, rfl, rfl, by decide, by decide,
    ⟨_, engineAt_of (a := 2) (ok := redOk) rfl rfl rfl (by decide) (by decide +kernel)⟩,
    ⟨_, engineAt_of (a := 2) (ok := redOk) rfl rfl rfl (by decide) (by decide +kernel)⟩, by decide, by unfold IsPiece; decide, by decide⟩

/-- The engine has read its one element; a failed collective; a first bank that serves. -/
def hasRead : State := (reducing .none).modTile 0 fun x => { x with eng := { x.eng with buf := [6, 0, 0, 0] } }
def redDesc : Desc := parseDesc (desc 0x200 0x300 1 8 (6 + 2 * 2 ^ 32) 0 0xC0 0)

theorem test_meets_contributions : (∃ x, EngineAt hasRead 0 (.ered 3 2) 3 x ∧ ctlSrcl x.ctl = true ∧
      (hasRead.tile 0).eng.buf.length = redSize (bits x.w14 0 4) * x.len) ∧
    ((coll []).lnum = group.lnum ∧ (coll []).coll = bits redDesc.w18.toNat 0 32) ∧
    ({ coll [(1, [5])] with failed := true } : Collective).failed = true ∧ (coll [(1, [5])]).ended.length < (coll [(1, [5])]).p ∧
    ({ coll [(1, [5])] with ended := [0, 1] } : Collective).p ≤ 2 ∧ ({ coll [] with result := some [11] } : Collective).result.isSome = true ∧
    ((coll []).count = redDesc.len ∧ (coll []).type = bits redDesc.w14 0 4 ∧ (coll []).op = bits redDesc.w14 4 4 ∧
      (coll []).arrival = bit redDesc.w14 8 ∧ (coll []).rm = bits redDesc.w14 9 2 ∧ (coll []).p = bits redDesc.w18.toNat 32 32) ∧
    ((coll [(0, [5])]).contrib.any fun y => y.1 == group.rank) = true ∧ ({ coll [(1, [5]), (0, [6])] with slice := 1 } : Collective).slice ≠ 0 ∧
    IsPiece (0x200 + 0) (4 - 0) 4 ∧ Served (reducing .none) (0x200 + 0) ∧
    ({ (reducing (.writing 9 [1, 2, 3, 4])).tile 0 with eng := { next := 4 } } : Tile).eng.next = 4 := by
  refine ⟨⟨_, engineAt_of (a := 2) (ok := redOk) rfl rfl rfl (by decide) (by decide +kernel), by decide +kernel, by decide +kernel⟩,
    by decide +kernel, rfl, by decide, by decide, rfl, by decide +kernel, by decide, by decide, ?_, ?_, rfl⟩
  · unfold IsPiece; decide
  · unfold Served; decide +kernel

/-- R306: three f32 contributions are added as a tree over the ranks, whatever the order of arrival: 2^24 + 1 stays 2^24, and
so does the second sum; in order of arrival 1 + 1 goes first. -/
theorem test_tree : redResult { coll [(2, [0x3F800000]), (1, [0x3F800000]), (0, [0x4B800000])] with type := 0 } = [0x4B800000] ∧
    redResult { coll [(2, [0x3F800000]), (1, [0x3F800000]), (0, [0x4B800000])] with type := 0, arrival := true } = [0x4B800001] := by
  decide +kernel

/-- R306: the second part joins the collective, whose result is formed when it is due; the result is the sum; the job ends with ERR 7 where
the fields differ. -/
theorem test_collectives : ((after (.ered 3 2) (withColl (coll [(1, [5])]) (reducing .none))).hub.colls.map fun c => (c.contrib.map Prod.fst, c.waiting)) = [([1, 0], [0])] ∧
    dueCollectives (withColl (coll [(1, [5]), (0, [6])]) st) = [.collectiveComplete 1 6] ∧
    dueCollectives (withColl { coll [(1, [5]), (0, [6])] with due := 1 } st) = [] ∧
    ((after (.collectiveComplete 1 6) (withColl (coll [(1, [5]), (0, [6])]) (reducing .none))).hub.colls.map Collective.result) = [some [11]] ∧
    ((after (.ered 3 2) (withColl { coll [(1, [5])] with count := 2 } (reducing .none))).tile 0).eng.ending.map Prod.fst = some 7 := by
  decide +kernel

/-- esort of three f32 values, the best one; esamp at temperature 0. -/
def sorting (sh : Shared) : State := engDesc (desc 0x200 0x300 3 1 0 0x3F800000 0xC0 0) { shared := sh }
def sampling (sh : Shared) : State := engDesc (desc 0x200 0x300 3 0 0 0 0xC0 (0x3F800000 * 2 ^ 32)) { shared := sh }

theorem test_meets_sampler : (∃ x, EngineAt (sorting .none) 0 (.esort 3 2) 3 x ∧ sortMerge x = false ∧
      x.src.toNat % ((sortFmt x).width / 8) = 0) ∧
    (∃ x, EngineAt (sampling .none) 0 (.esamp 3 2) 3 x ∧ bits x.w14 0 31 = 0 ∧ x.dst.toNat % 16 = 0) ∧
    (∃ x, EngineAt (sorting (.answered 0 0 5)) 0 (.esort 3 2) 3 x) ∧ NotLast (sorting .none) ∧ NoLoopEnd (sorting .none) ∧
    (sorting .none).hart = .engine 0 ∧ (((sorting .none).modDie 0 fun x => { x with sorusQ := [0] }).die 0).sorusRun = none :=
  ⟨⟨_, engineAt_of (a := 2) (ok := sortOk) rfl rfl rfl (by decide) (by decide +kernel), by decide +kernel, by decide +kernel⟩,
    ⟨_, engineAt_of (a := 2) (ok := sampOk) rfl rfl rfl (by decide) (by decide +kernel), by decide +kernel, by decide +kernel⟩,
    ⟨_, engineAt_of (a := 2) (ok := sortOk) rfl rfl rfl (by decide) (by decide +kernel)⟩, by unfold NotLast; decide,
    by unfold NoLoopEnd; decide, rfl, rfl⟩

/-- A sampler that serves tile 0's esort of 1.0, 3.0, 2.0, which it has read, and whose word stands in the microcode. -/
def serving : State := ((sorting (.sorusRunning none)).modTile 0 fun x => { x with eng := { x.eng with buf := leBytes 4 0x3F800000 ++ leBytes 4 0x40400000 ++ leBytes 4 0x40000000 } }).modDie 0 fun x => { x with sorusRun := some 0, microcode := some (memWrite [] 0 (leBytes 4 0xF8620008)) }

theorem test_meets_sorus_end : (serving.die 0).sorusRun = some (0 : TileNo).val ∧ (serving.tile 0).eng.shared = .sorusRunning none ∧
    (serving.tile 0).eng.r.held = none ∧ ∃ x, sorusDesc 0 serving = some (true, x) :=
  ⟨by decide, by decide, by decide, _, rfl⟩

/-- A sampler that merges two lists of one candidate each, of which it has read the table, or all. -/
def table : List Byte := leBytes 8 0x400 ++ leBytes 4 1 ++ leBytes 4 0 ++ leBytes 8 0x500 ++ leBytes 4 1 ++ leBytes 4 0
def lists : List (List Byte) := [leBytes 4 0x3F800000 ++ leBytes 4 4, leBytes 4 0x40000000 ++ leBytes 4 9]
def merging (bs : List Byte) : State := ((engDesc (desc 0x200 0x300 3 (1 + 2 ^ 11) (2 * 2 ^ 32) 0x3F800000 0xC0 0) { shared := .sorusRunning none }).modTile 0 fun x => { x with
  eng := { x.eng with buf := bs } }).modDie 0 fun x => { x with sorusRun := some 0, microcode := some (memWrite [] 0 (leBytes 4 0xF8620008)) }

theorem test_meets_merge : (∃ x, sorusDesc 0 (merging table) = some (true, x) ∧ sortMerge x = true ∧ bits x.w18.toNat 32 32 = 2 ∧ ctlSrcl x.ctl = true ∧
      ctlDstl x.ctl = true ∧ x.dst.toNat + 8 ≤ 0x80000) ∧ table.length = 16 * 2 ∧
    (∀ l : Fin 2, bytesAt table (16 * l.val + 8) 4 = 1 ∧ bytesAt table (16 * l.val + 12) 4 = 0 ∧ bytesAt table (16 * l.val) 8 % 8 = 0) ∧
    lists.length = 2 ∧ (∀ y ∈ lists, y.length = 8 * 1) ∧ ((merging (table ++ lists.flatten)).tile 0).eng.buf = table ++ lists.flatten ∧
    (serving.tile 0).eng.r.accesses = [] ∧ (serving.tile 0).eng.ending = none ∧ (serving.tile 0).eng.buf.length = 4 * 3 ∧
    bytesAt (leBytes 4 1 ++ leBytes 4 1) 4 4 ≠ 0 ∧ bytesAt (leBytes 8 0x404) 0 8 % 8 ≠ 0 :=
  ⟨⟨_, rfl, by decide +kernel, by decide +kernel, by decide +kernel, by decide +kernel, by decide +kernel⟩, by decide +kernel, by decide +kernel,
    by decide +kernel, by decide +kernel, rfl, rfl, rfl, by decide +kernel, by decide, by decide⟩

/-- R310: the merge of 1.0 (index 4) and 2.0 (index 9) gives 2.0 first. -/
theorem test_merge : memRead ((after (.sorusRequestEnd 0) (merging (table ++ lists.flatten))).tile 0).lm 0x300 8 = 0x0000000940000000 := by
  decide +kernel

/-- A finished request whose result is still to be written. -/
theorem test_meets_result : IsPiece ((0x300 : W64) + w64 8).toNat (16 - 8) 8 ∧ (16 : Nat) = 8 + 8 ∧
    bankFree (serving.tile 0) ((0x300 : W64) + w64 8).toNat = true ∧
    outwaited .engine ((0x300 : W64) + w64 8).toNat (serving.tile 0) = false := by
  unfold IsPiece; decide +kernel

/-- The same sampler with an esamp of temperature 0 over three entries, the first of index 9. -/
def serving2 : State := ((sampling (.sorusRunning none)).modTile 0 fun x => { x with eng := { x.eng with buf := List.replicate 4 0 ++ 9 :: List.replicate 19 0 } }).modDie 0 fun x => { x with sorusRun := some 0, microcode := some (memWrite [] 0 (leBytes 4 0xF8620007)) }

/-- R312: at temperature 0 the first entry is taken; its index is written and stands in gd. -/
theorem test_sample : memRead ((after (.sorusRequestEnd 0) serving2).tile 0).lm 0x300 4 = 9 ∧
    ((after (.sorusRequestEnd 0) serving2).tile 0).eng.shared = .sorusRunning (some (leBytes 4 9 ++ List.replicate 12 0, 9)) := by decide +kernel

/-- R313: the first word of Philox-4x32-10 is a function of seed, sequence, position and draw; two draws differ. -/
theorem test_philox : philox 0 0 0 0 ≠ philox 0 0 0 1 := by decide +kernel

/-- R310: the best of 1.0, 3.0, 2.0 is 3.0 at index 1; its value and index are written and gd takes the number of entries. -/
theorem test_sort : memRead ((after (.sorusRequestEnd 0) serving).tile 0).lm 0x300 8 = 0x0000000140400000 ∧
    ((after (.sorusRequestEnd 0) serving).tile 0).eng.shared = .answered 0 0 1 := by decide +kernel

/-! ### Switch -/

/-- Tile 0 with its east neighbour in the group: flits in the east buffer, a flit in output queue 0. -/
def crossing (b : List Flit) : State := (inGroup {}).modTile 0 fun x => { x with
  sw := { x.sw with e := { buf := b } }, outQ := x.outQ.set 0 ((List.range 4).map fun j => ⟨w64 j, false, false, j, 0, none⟩) }

/-- C0 takes E, and the east link takes D0. -/
def crossRoute : Route := ⟨.none, .d0, .none, .none, .e, .none, .none, .none⟩

theorem test_meets_routing : routing (.sroute true 3 crossRoute) = some (true, 3, [], crossRoute, fun s t _ => .x {} (s.tile t).sw.mode) ∧
    linkOf (crossing []) 0 1 false = .tile 1 ∧ linkOf (crossing []) 0 1 true = .tile 1 ∧ (1 : TileNo) ≠ 0 ∧
    linkOf (crossing []) 0 0 false = .open_ ∧ srcPort .n = some 0 ∧ srcFlit (crossing []) 0 .e = none ∧
    srcFlit (crossing [{}]) 0 .e = some {} ∧ (srcFlit (crossing [{}]) 0 .d0).isSome = true ∧
    sourcesOf [] crossRoute = [.d0, .e] ∧ outRoom (crossing [{}]) 0 (.core 0) = true ∧ outRoom (crossing [{}]) 0 (.link 1) = true ∧
    FaultStrand (crossing []) 0 (coresOf crossRoute) 0 ∧ FaultStrand bound 0 [0] 0 ∧ (crossing []).swTile = 0 :=
  ⟨rfl, by decide, by decide, by decide, by decide, rfl, by decide, by decide, by decide, by decide, by decide, by decide,
    .inr ⟨by decide, group, rfl, by decide, by decide, by decide⟩, .inl (by decide), rfl⟩

/-- R176: one flit crosses to the core and one to the neighbour; with an end mark and E-stop the next word follows. A port
that leads nowhere is cause 3 (R186). -/
theorem test_routing : let u := after (.sroute true 3 crossRoute) (crossing [{ data := 7, e := true }])
    (u.tile 0).inQ[(0 : Fin 8)].map (fun q => (q.word, q.e, q.pos)) = [(7, true, 0), (0, true, 1), (0, true, 2), (0, true, 3)] ∧
    (u.tile 1).sw.w.buf.map (fun f => f.data.toNat) = [1 * 2 ^ 64 + 2 * 2 ^ 128 + 3 * 2 ^ 192] ∧ (u.tile 0).sw.spc = 1 ∧
    (u.tile 0).outQ[(0 : Fin 8)] = [] ∧
    bits ((after (.sskip false 0 .n) (crossing [])).tile 0).sw.fault.toNat 11 4 = 3 ∧
    ((after (.sskip false 0 .n) (crossing [])).strandAt 0 0).swpend = true := by decide +kernel

theorem test_meets_coding : (Src.w ≠ Src.n) ∧ headerOk (2 + 64 * 2 ^ 8 + 32 * 2 ^ 16) = false ∧
    headerOk (1 + 32 * 2 ^ 8 + 32 * 2 ^ 16) = true ∧ (st.tile 0).sw.mode = .pass ∧
    (∃ xf mode, formXor .w .n st 0 [(.w, { h := true }), (.n, { h := true })] = .x xf mode) ∧ bankFree (st.tile 0) 32 = true ∧
    ((st.modTile 0 fun x => { x with sw := { x.sw with mode := .decode 3 1 65 0 0 } }).tile 0).sw.mode = .decode 3 1 65 0 0 :=
  ⟨by decide, by decide, by decide, by decide, ⟨_, _, rfl⟩, by decide, by decide⟩

/-- What a formed X is, or how it stops. -/
def passes : XResult → Option (W256 × DecMode)
  | .x f m => some (f.data, m)
  | _ => none
def stopsWith : XResult → Option (List Nat)
  | .stop a b c d e => some [a, b, c, d, e]
  | _ => none

/-- A coded header: flow 3, sequence 4, partner 7 with sequence 5 (R183); a tile that holds a block of a key; one whose
switch is within a coded block. -/
def codedHead : Flit := { data := BitVec.ofNat 256 (1 + 32 * 2 ^ 8 + 32 * 2 ^ 16 + 2 ^ 25 + 3 * 2 ^ 48 + 4 * 2 ^ 64 + 7 * 2 ^ 96 + 5 * 2 ^ 112), h := true }
def holding (flow seq : Nat) (m : DecMode) : State := (crossing [{ data := 9 }]).modTile 0 fun x => { x with
  side := x.side.set 2 ⟨flow, seq, 0x10, 65, true⟩, sw := { x.sw with mode := m } }

theorem holds_of {x : Tile} {i : Fin 64} {f q n : Nat}
    (h : (decide (x.side[i].valid = true ∧ x.side[i].flow = f ∧ x.side[i].seq = q ∧ x.side[i].len = n) && decide (∀ j, j < i →
      ¬(x.side[j].valid = true ∧ x.side[j].flow = f ∧ x.side[j].seq = q ∧ x.side[j].len = n))) = true) : HoldsBlock x i f q n := by
  simp only [Bool.and_eq_true, decide_eq_true_eq] at h; exact h

theorem test_meets_decoding : headerOk codedHead.data.toNat = true ∧ codedHead.data.getLsbD 25 = true ∧ ({} : Flit).h = false ∧
    HoldsBlock ((holding 7 5 .pass).tile 0) 2 7 5 65 ∧ HoldsBlock ((holding 3 4 .pass).tile 0) 2 3 4 65 ∧
    HoldsNone ((holding 3 4 .pass).tile 0) 7 5 65 ∧ HoldsNone ((holding 3 4 .pass).tile 0) 9 4 65 ∧
    ((holding 7 5 (.decode 2 1 65 3 7)).tile 0).sw.mode = .decode 2 1 65 3 7 ∧
    ((holding 7 5 (.lost 4 65 3 7 7 5 true)).tile 0).sw.mode = .lost 4 65 3 7 7 5 true ∧
    ((({ (holding 7 5 .pass).tile 0 with decodeAt := some (0, 544) } : Tile).decodeAt) = some (((holding 7 5 .pass).tile 0).cycle, 544)) :=
  ⟨by decide +kernel, by decide +kernel, rfl, holds_of (by decide +kernel), holds_of (by decide +kernel), by unfold HoldsNone; decide +kernel,
    by unfold HoldsNone; decide +kernel, rfl, rfl, by decide +kernel⟩

/-- The outputs have room and the sources a flit, but sdec's bank does not serve; the word of a whole bank. -/
theorem test_meets_busy : (srcFlit (holding 7 5 (.decode 2 1 65 3 7)) 0 .e).map Flit.h = some false ∧
    (∀ b ∈ sourcesOf [.e] crossRoute, (srcFlit (holding 7 5 (.decode 2 1 65 3 7)) 0 b).isSome = true) ∧
    (∀ o ∈ outsOf crossRoute, outRoom (holding 7 5 (.decode 2 1 65 3 7)) 0 o.1 = true) ∧
    (bankFree ((holding 7 5 (.decode 2 1 65 3 7)).tile 0) 544 = true ∧ outwaited .switch 544 ((holding 7 5 (.decode 2 1 65 3 7)).tile 0) = false) ∧
    ¬(bankFree (((holding 7 5 (.decode 2 1 65 3 7)).modTile 0 (holdBank 544 9)).tile 0) 544 = true ∧
      outwaited .switch 544 (((holding 7 5 (.decode 2 1 65 3 7)).modTile 0 (holdBank 544 9)).tile 0) = false) ∧
    ((holding 7 5 .pass).tile 0).sw.skip = 0 ∧ ((holding 7 5 .pass).tile 0).badLm = [] ∧
    stopsWith (formXor .w .n st 0 [(.w, { h := true }), (.n, {})]) = some [6, 0, 0, 0, 0] := by decide +kernel

/-- R185: a held partner's block recovers the first block, whose later flits are folded with it from flit 1 on; a held block of
the header's own key the partner; with neither, a decode miss of cause 4. A cleared entry is a loss after the flits moved. -/
theorem test_decoding :
    passes (formDec .e (holding 7 5 .pass) 0 [(.e, codedHead)]) =
      some (BitVec.ofNat 256 (1 + 32 * 2 ^ 8 + 32 * 2 ^ 16 + 3 * 2 ^ 48 + 4 * 2 ^ 64), .decode 2 1 65 3 7) ∧
    passes (formDec .e (holding 3 4 .pass) 0 [(.e, codedHead)]) =
      some (BitVec.ofNat 256 (1 + 32 * 2 ^ 8 + 32 * 2 ^ 16 + 7 * 2 ^ 48 + 5 * 2 ^ 64), .decode 2 1 65 3 7) ∧
    stopsWith (formDec .e st 0 [(.e, codedHead)]) = some [4, 0, 3, 7, 65] ∧
    (sideDrop (· == 2) ((holding 7 5 (.decode 2 4 65 3 7)).tile 0)).sw.mode = .lost 4 65 3 7 7 5 false ∧
    ((claimDecode 3 .e crossRoute 0 (holding 7 5 (.decode 2 1 65 3 7))).tile 0).decodeAt = some (0, 544) := by decide +kernel

theorem test_meets_switch_control : ((st.tile 0).bars[(0 : Fin 32)]).phase = (st.tile 0).sw.sph[(0 : Fin 8)] ∧
    0 < ((st.modTile 0 fun x => { x with sw := { x.sw with cnt := x.sw.cnt.set 1 1 } }).tile 0).sw.cnt[(1 : Fin 2)] ∧
    (st.tile 0).sw.rep < 1 ∧ (st.tile 0).sw.spc < 2047 ∧ 0 ≤ (st.tile 0).sw.rep ∧ ((st.tile 0).bars[(0 : Fin 32)]).remain = 0 ∧
    ((st.modTile 0 fun x => { x with bars := x.bars.set 0 { phase := true, remain := 1 } }).tile 0).bars[(0 : Fin 32)] = { phase := true, remain := 1 } ∧
    FaultStrand (inGroup {}) 0 [] 0 ∧ ((st.modTile 0 fun x => { x with sw := { x.sw with spc := 2047 } }).tile 0).sw.spc = 2047 ∧
    srcFlit ((crossing [{}]).modTile 0 fun x => { x with sw := { x.sw with skip := 2 } }) 0 .e = some {} :=
  ⟨by decide, by decide, by decide, by decide, by decide, by decide, by decide, .inr ⟨rfl, group, rfl, by decide, by decide, by decide⟩,
    by decide, by decide⟩

/-- R178, R55: a count of 0 falls through sbnz; ssig of the last arrival completes the phase; past word 2,047 is cause 2. -/
theorem test_switch_control : ((after (.sbnz 0 9) st).tile 0).sw.spc = 1 ∧ ((after (.sjump 9) st).tile 0).sw.spc = 9 ∧
    ((after (.ssig 2) (st.modTile 0 fun x => { x with bars := x.bars.set 2 { count := 4, remain := 1 } })).tile 0).bars[(2 : Fin 32)] =
      { count := 4, remain := 4, phase := true } ∧
    bits ((after (.snop 0) ((inGroup {}).modTile 0 fun x => { x with sw := { x.sw with spc := 2047 } })).tile 0).sw.fault.toNat 11 4 = 2 := by
  decide

/-! ### Translation, fault queues, watches -/

/-- An access held for its walk; context 5's tables from 0x400000: a level-1 leaf for page 0 of the address space, PRESENT, leaf, with W or not, of the
frame at 0x800000. -/
def atWalk (va : W64) (wr : Bool) : Held := { va := va, wr := wr, phase := .walk }
def tables (w : Nat) (h : Option Held) : State := { (inGroup { held := h }) with
  mem := memWrite (memWrite (memWrite (memWrite [] 0x400000 (leBytes 8 0x600001)) 0x600000 (leBytes 8 0x601001)) 0x601000 (leBytes 8 0x602001)) 0x602000 (leBytes 8 (0x800003 + 4 * w)) }.modHub fun x => { x with ctxs := [(41, 0x400000)] }

theorem test_meets_walk : (∀ d, HartId.strand 0 0 ≠ .mgmt d) ∧ ((tables 1 (some (atWalk 0 true))).regsOf (.strand 0 0)).held = some (atWalk 0 true) ∧
    (tables 1 none).ctxOf (.strand 0 0) = 5 ∧ (tables 1 none).failedLines = [] ∧ (tables 1 none).keyOf (tableOf 0x800007 + 0) = ((tables 1 none).viewAt (.strand 0 0)).key ∧
    ({ tables 1 none with failedLines := [0x602000 / 128] } : State).failedIn 0x602000 8 = true ∧ HandlerReady (tables 1 none) 0 0 := by
  refine ⟨fun d => by simp, ?_⟩
  unfold HandlerReady; decide +kernel

/-- A walk down to the level-1 leaf; one whose level-4 entry is not present; the same tables with a 2 MiB leaf at level 2. -/
def largeTables : State := { tables 1 none with mem := memWrite (tables 1 none).mem 0x601000 (leBytes 8 0x800007) }

theorem test_meets_levels : WalksTo (tables 1 none) 5 0 1 0x800007 ∧ WalksTo (tables 1 none) 5 (2 ^ 40) 4 0 ∧ WalksTo largeTables 5 0 2 0x800007 := by
  have h1 : ∀ l, 1 ≤ l → l ≤ 4 → l = 1 ∨ l = 2 ∨ l = 3 ∨ l = 4 := by omega
  refine ⟨⟨by decide, by decide, by decide, by decide +kernel, fun l hl hm => ?_⟩, ⟨by decide, by decide, by decide, by decide +kernel, fun l hl hm => ?_⟩,
    ⟨by decide, by decide, by decide, by decide +kernel, fun l hl hm => ?_⟩⟩ <;>
    rcases h1 l (by omega) hm with rfl | rfl | rfl | rfl <;>
    first | omega | (unfold IsTable; decide +kernel)

/-- The key that the strand's walks are held to (R323). -/
def walkKey : Nat := ((tables 1 none).viewAt (.strand 0 0)).key

/-- Each end of a walk (R233): a leaf that serves, a page without W, a replica to be written, another key, an entry with a
reserved bit, a large leaf out of place, and an entry that is not present. -/
theorem test_meets_ends : WalkEnds (tables 1 none) walkKey 0 1 0x800007 true none ∧ WalkEnds (tables 1 none) walkKey 0 1 0x800003 true (some .protection) ∧
    WalkEnds (tables 1 none) walkKey 0 1 0x800023 true (some .replicaWrite) ∧ WalkEnds { tables 1 none with keyMap := [(4, 3)] } walkKey 0 1 0x800007 false (some .keyMismatch) ∧
    WalkEnds (tables 1 none) walkKey 0 1 0x800047 false (some .malformed) ∧ WalkEnds (tables 1 none) walkKey 0 3 0x800007 false (some .malformed) ∧
    WalkEnds (tables 1 none) walkKey 0 4 0 false (some .notPresent) := by
  have h1 : PageExists (tableOf 0x800007) (leafBytes 1) := .inl (by decide)
  have h2 : PageExists (tableOf 0x800003) (leafBytes 1) := .inl (by decide)
  have h3 : PageExists (tableOf 0x800023) (leafBytes 1) := .inl (by decide)
  have k1 : (tables 1 none).keyOf 0x800000 = walkKey := by decide +kernel
  have k2 : ({ tables 1 none with keyMap := [(4, 3)] } : State).keyOf 0x800000 ≠ walkKey := by decide +kernel
  refine ⟨?_, ?_, ?_, ?_, ?_, ?_, ?_⟩ <;>
    simp [WalkEnds, tableOf, leafBytes, bit, bits, domainBytes] at * <;> simp [*]

/-- R233: the accessed and dirty bits are set; a write to a page without W is held for a record. -/
theorem test_walk : (after (.translationWalk (.strand 0 0)) (tables 1 (some (atWalk 8 true)))).hbmRead 0x602000 8 = 0x80001F ∧
    ((after (.translationWalk (.strand 0 0)) (tables 0 (some (atWalk 8 true)))).regsOf (.strand 0 0)).held = some { atWalk 8 true with phase := .record .protection } := by
  decide +kernel

/-- A record that waits; one that stands in the queue as number 0. -/
def recorded : State := { inGroup { held := some { atWalk 8 true with phase := .record .protection } } with
  dies := [] }.modDie 0 fun x => { x with faultWait := [⟨.strand 0 0, 2 * 2 ^ 32⟩] }
def replied : State := inGroup { held := some { atWalk 8 true with phase := .reply .protection 0 0, lastKey := some (0, 0), lastKind := .protection } }

theorem test_meets_fault_queue : (recorded.die 0).faultWait = ⟨.strand 0 0, 2 * 2 ^ 32⟩ :: [] ∧
    ((recorded.die 0).fqTail + 2 ^ 32 - (recorded.die 0).fqHead) % 2 ^ 32 < 512 ∧ (st.die 0).faultWait = [] ∧
    (recorded.regsOf (.strand 0 0)).held = some { atWalk 8 true with phase := .record .protection } ∧
    (hartsOfDie replied 0).find? (holdsKey replied 0 0) = some (.strand 0 0) ∧ bits (1 * 2 ^ 40) 40 2 = 1 ∧ bits (2 ^ 41) 40 2 = 2 ∧
    (replied.strandAt 0 0).inh = false ∧ (replied.strandAt 0 0).etvec.toNat % 4 = 0 ∧ inHbm 0x602000 8 = true := by
  decide +kernel

/-- R367, R369: the record enters the queue; reply 2 makes the access fail with PROTECTION. -/
theorem test_fault_queue : ((after (.faultRecordWrite 0) recorded).die 0).fqTail = 1 ∧
    ((after (.faultRecordWrite 0) recorded).regsOf (.strand 0 0)).held.map (fun h => (h.va, h.phase, h.lastKey)) = some (8, .reply .protection 0 0, some (0, 0)) ∧
    ((after (.fqreply 0 0x20000000000) replied).strandAt 0 0).ecause = 5 ∧ ((after (.fqreply 0 0x20000000000) replied).strandAt 0 0).eval = 8 := by
  decide +kernel

/-- A revocation under way with an access of the strand still to complete, and without. -/
def revoked (l : List Access) : State := { inGroup { accesses := l } with revoking := [⟨5, 0x10000, [(.strand 0 0, 0)]⟩] }

theorem test_meets_revocation : inHbm 0x602000 8 = true ∧ (revoked [acc .load 0x200000 4]).moves = [] ∧
    (revoked [acc .load 0x200000 4]).revoking = [⟨5, 0x10000, [(.strand 0 0, 0)]⟩] ∧
    ((revoked [acc .load 0x200000 4]).regsOf (.strand 0 0)).accesses.map Access.id = [0] ∧ ((revoked []).regsOf (.strand 0 0)).accesses = [] ∧
    (acc .load 0x200000 4).ctx = 5 := by decide +kernel

/-- R237: the revocation is done only when the access translated before is. -/
theorem test_revocation : (revocationSlot (revoked [acc .load 0x200000 4])).revoking.length = 1 ∧
    (revocationSlot (revoked [])).revoking = [] ∧ (revocationSlot (revoked [])).emitted = [.revoked 5 0x10000] := by decide +kernel

/-- A watch on a line homed at cache die 0, with a firing pending for queue 0, whose ring of two entries is at 0x1000. -/
def watching (p en : Bool) : State := (st.modCache 0 fun x => { x with watches := x.watches.set 0 { en := true, pending := p } }).modHub fun h => { h with
  queues := h.queues.set 0 { qbase := 0x20, size := 1, en := en }, ctxs := [] }

/-- The same watch with a firing on its way. -/
def fired (en : Bool) : State := (watching false en).modCache 0 fun x => { x with watches := x.watches.set 0 { en := true, due := 1 } }

theorem test_meets_watch : (homeSlice 0).1 = 0 ∧ isHbm 0 = true ∧ (((watching true true).cache 0).watches[(0 : Fin 16)]).pending = true ∧
    queueUsable ((watching true true).hub.queues[(0 : Fin 64)]) = true ∧ queueWaiting ((watching true true).hub.queues[(0 : Fin 64)]) < 2 ∧
    inHbm 0x1000 128 = true ∧ ((watching true false).hub.queues[(0 : Fin 64)]).en = false ∧
    (((watching false true).cache 0).watches[(0 : Fin 16)]).pending = false ∧ (((watching false true).cache 0).watches[(0 : Fin 16)]).due = 0 ∧
    (((fired false).cache 0).watches[(0 : Fin 16)]).due = 1 ∧ ((fired false).hub.queues[(0 : Fin 64)]).en = false ∧
    ringReady (watching true true) (cornerSite 0) ((watching true true).hub.queues[(0 : Fin 64)]) 0 = true ∧
    (watching true true).routeOpen (cacheSite 0) (cornerSite 0) = true ∧ (watching true true).failedIn 0x1000 128 = false := by decide +kernel

theorem test_watch : ((after (.watchPendingPush 0 0) (watching true true)).hub.queues[(0 : Fin 64)]).qtail = 1 ∧
    (((after (.watchPendingPush 0 0) (watching true true)).cache 0).watches[(0 : Fin 16)]).fires = 1 ∧
    (((after (.watchPendingPush 0 0) (fired true)).cache 0).watches[(0 : Fin 16)]).fires = 1 ∧
    (((after (.watchPendingPush 0 0) (fired false)).cache 0).watches[(0 : Fin 16)]).pending = true := by decide +kernel

/-! ### The dispatcher -/

/-- The bytes of a standing record of one group for slot 3, context 5. -/
def ringBytes : List Byte := leBytes 2 1 ++ leBytes 2 8 ++ leBytes 2 5 ++ [3, 7] ++ leBytes 8 0x4000 ++ leBytes 8 0 ++ leBytes 2 1 ++ leBytes 2 1 ++ leBytes 2 1 ++ List.replicate 18 0 ++ leBytes 8 0xFFFFFFFFFFFFFFFF ++ List.replicate 16 0 ++ leBytes 4 0xFFFFFFFF ++ List.replicate 12 0 ++ [2, 1]

/-- A queue with that record waiting in its ring at 0x1000. -/
def ringed (en : Bool) : State := { mem := memWrite [] 0x1000 ringBytes, inputs := [], rot := { stage := 3 }, hub := { en := true, queues := (Vector.replicate 64 {}).set 2 { qbase := 0x20, size := 1, qtail := 1, prio := 4, en := en }, slots := (Vector.replicate 32 {}).set 3 { image := 0x4000, w := 2, h := 1, ctx := 5, standing := 1, st := 2, regions := [0] }, ctxs := [(40, 1), (41, 0x400000), (47, 0)] } }

/-- A launch of two groups of 2 × 1 tiles, class 0, the first rank at tile 0, or not placed. -/
def record : Record := { nx := 2, w := 2, h := 1, ctx := 5, dur := 10 }
def launch (ps : List Placed) : Launch := { lnum := 1, r := record, queue := 0, prio := 0, slot := some 3, det := false, active := true, satisfied := true, satisfiedSeq := 0, placed := ps }

/-- The machine with that launch and tiles 0 and 1 as given. -/
def launched (l : Launch) (x : Tile) : State := (({ State.reset with inputs := [], now := 400, hub := { launches := [l], slots := (Vector.replicate 32 {}).set 3 { w := 2, h := 1, ctx := 5, standing := 1, st := 2, regions := [0] } } } : State).setTile 0 x).setTile 1 { x with group := x.group.map fun g => { g with index := 1 } }

def placed0 : Placed := ⟨0, 0, true, 0, 0, false, false, none, false, none⟩

theorem test_meets_records : (ringed true).rot.stage = 3 ∧ mayRead (ringed true) = true ∧ nextQueue (ringed true) = some 2 ∧
    mayRead (ringed false) = false ∧ ((ringed true).hub.queues[(2 : Fin 64)]).en = true ∧
    ((ringed true).hub.queues[(2 : Fin 64)]).eth = false ∧ queueUsable ((ringed true).hub.queues[(2 : Fin 64)]) = true ∧
    (0 + 2 ^ 32 - ((ringed true).hub.queues[(2 : Fin 64)]).qhead) % 2 ^ 32 ≤ 2 ^ 1 ∧ (ringed true).rot.recovery = false ∧
    255 < (parseRecord [1, 0, 0, 0, 0, 1]).ctx ∧
    (ringed true).ctxValid 5 = true ∧ (ringed true).ctxValid 6 = false ∧ bit ((ringed true).ctxWord 5 0) 0 = true ∧
    bits ((ringed true).ctxWord 5 0) 16 4 = (parseRecord (((ringed true).plainRead 0x1000 128).getD [])).bwclass ∧
    (parseRecord (((ringed true).plainRead 0x1000 128).getD [])).status = 0 ∧
    recordOk (((ringed true).plainRead 0x1000 128).getD []) = true ∧ recordOk [] = false ∧
    (parseRecord [1, 0, 1]).detReq = true ∧ ((ringed true).hub.queues[(2 : Fin 64)]).det = false ∧
    ((ringed true).modHub fun h => { h with en := false }).hub.en = false ∧ ((ringed true).modHub fun h => { h with down := true }).hub.down = true ∧
    ((ringed true).modHub fun h => { h with lastRead := some 0 }).hub.lastRead = some (ringed true).dcycle ∧
    ((ringed true).modHub fun h => { h with lastMove := some 0 }).hub.lastMove = some (ringed true).dcycle := by decide +kernel

/-- A machine whose module 0 is up, and one whose module 0 is not. -/
def upState : State := ({ State.reset with inputs := [] } : State).modHub fun h => { h with up := 1 }

theorem test_meets_module : ModuleFree upState 0 ∧ ¬ModuleFree State.reset 0 ∧ DistinctLaunches upState ∧
    (∀ w ∈ upState.hub.heldDone, w.m ≠ 0) ∧ upState.hub.counterWrites = [] ∧ upState.hub.counterBefore = [] ∧ 2 * 5 / 5 ≠ upState.dcycle ∧
    (⟨3, 0, false, 0⟩ : CounterWrite).n = (⟨3, 16, true, 1⟩ : CounterWrite).n ∧ (⟨3, 0, false, 0⟩ : CounterWrite).source < (⟨3, 16, true, 1⟩ : CounterWrite).source := by
  refine ⟨⟨by decide, by decide⟩, fun h => absurd h.1 (by decide), ?_⟩
  unfold DistinctLaunches; decide +kernel

/-- R326: the record is admitted under number 1, with the lower of the two priorities; QHEAD follows. -/
theorem test_record : let u := after .launchRecordRead (ringed true)
    u.hub.launches.map (fun l => (l.lnum, l.prio, l.slot, l.active)) = [(1, 4, some 3, true)] ∧
    (u.hub.queues[(2 : Fin 64)]).qhead = 1 ∧ u.hub.nextLnum = 2 ∧
    ((after .launchRecordRead { ringed true with mem := [] }).hub.queues[(2 : Fin 64)]).refused = 1 := by decide +kernel

/-- R340: of one dispatcher cycle the host's write of 0 applies before the other party's increment, whichever comes first. -/
theorem test_counters : tabGet 0 3 ((upState.counterOp ⟨3, 16, true, 1⟩).counterOp ⟨3, 0, false, 0⟩).hub.counters = 1 := by decide +kernel

/-- A launch whose waits are satisfied stands on the waiting list beside a later one. -/
def waitList : State := launched { launch [] with active := false } {}
def waitTwo : State := waitList.modHub fun h => { h with launches := h.launches ++ [{ launch [] with active := false, lnum := 2 }] }

theorem test_meets_waits : DistinctLaunches (launched (launch [placed0]) {}) ∧ DistinctLaunches waitTwo ∧
    (waitTwo.hub.launches.filter (·.active)).length < 512 ∧ waitTwo.hub.lastRead ≠ some waitTwo.dcycle ∧
    { launch [] with active := false } ∈ waitTwo.hub.launches ∧
    (∀ m ∈ waitTwo.hub.launches, m = { launch [] with active := false } ∨ (0 = m.satisfiedSeq ∧ 1 < m.lnum)) := by
  unfold DistinctLaunches; decide +kernel

/-- R342: of two launches satisfied by one dispatcher cycle the lower number moves first. -/
theorem test_activate : ((after .launchActivate waitTwo).hub.launches.map fun l => (l.lnum, l.active)) = [(1, true), (2, false)] := by decide +kernel

/-- Tiles with an outstanding access, so that a launch that ends does not leave them at once. -/
def undrained : Tile := { (strandTile { active with r := { accesses := [acc .load 0x200000 4] } }) with group := some group, cycle := 70000 }

/-- A launch cancelled in dispatcher cycle 0; the machine stands in dispatcher cycle 160. -/
def cancelled (ps : List Placed) : Launch := { launch ps with cancelAt := some 0 }

theorem still_busy (s : State) (l : Launch) (p : Placed) (hp : p.unmapped = none) (t : TileNo) (ht : t ∈ regionTiles p.origin l.r.w l.r.h)
    (h : (s.strandAt t 0).r.accesses = [acc .load 0x200000 4]) : StillBusy s l p :=
  ⟨hp, t, ht, 0, acc .load 0x200000 4, by rw [h]; exact List.mem_singleton_self _, rfl⟩

theorem test_meets_cancel : OnlyPlaced (launched (cancelled [placed0]) undrained) (cancelled [placed0]) placed0 ∧
    StillBusy (launched (cancelled [placed0]) undrained) (cancelled [placed0]) placed0 ∧
    0 < (launched (cancelled [placed0]) undrained).dcycle ∧ (launched (cancelled []) {}).hub.launches = [cancelled []] ∧
    (cancelled []).frozen = [] ∧ (cancelled []).ending = none ∧ (cancelled []).r.status = 0 ∧
    (∀ l ∈ (launched (launch []) {}).hub.launches, l.cancelAt = none ∨ l.cancelAt = some 160) ∧
    (∀ l ∈ (launched (launch []) {}).hub.launches, l.lnum ≠ (2 : W64).toNat) := by
  refine ⟨?_, still_busy _ _ _ rfl 0 (by decide) (by decide +kernel), ?_⟩
  · unfold OnlyPlaced RegionOnDie; decide +kernel
  · decide +kernel

/-- R344: CANCEL is judged when its dispatcher cycle is over; the launch then ends in state 5, one without a group at once. -/
theorem test_cancel : (after (.cancel 1) (launched (launch [placed0]) undrained)).hub.launches.map (fun l => (l.cancelAt, l.ending.isNone)) = [(some 160, true)] ∧
    (judgeCancels (launched (cancelled [placed0]) undrained)).hub.launches.map (fun l => l.ending.map Ending.code) = [some 0x14] ∧
    (judgeCancels (launched (cancelled []) {})).hub.launches = [] := by decide +kernel

/-! ### Groups -/

/-- A standing launch of slot 3, whose one region is free. -/
def standing1 : Launch := { launch [] with r := { record with standing := true } }

theorem test_meets_place : firstOfPool (launched standing1 {}) (some 3) = some (standing1, [0], false) ∧
    (launched standing1 {}).hub.launches = [standing1] ∧
    findPlaces (launched standing1 {}) [] (some 3) 0 standing1 [0] false = some [(0, 0)] ∧ RegionOnDie 0 2 1 ∧
    firstOfPool State.reset none = none := by
  unfold RegionOnDie; decide +kernel

/-- A group placed and not started, its pages looked at or not. -/
def placing (paged : Bool) : Placed := ⟨0, 0, false, 0, 0, false, false, none, paged, none⟩

theorem test_meets_start : let l := launch [placing true]
    let s := launched l { group := some group }
    s.hub.launches = [l] ∧ l.placed ≠ [] ∧ (∀ p ∈ l.placed, p.started = false ∧ p.restoring = false) ∧ l.ending = none ∧ l.r.standing = false ∧
    (∀ p ∈ l.placed, ∀ q ∈ l.placed, if l.r.gang then p.rank / l.r.gangSize = q.rank / l.r.gangSize else p.rank = q.rank) ∧
    (∀ p ∈ l.placed, p.paged = true) ∧ (∃ m ∈ ({ s with moves := [⟨5, 0, 65536, 0x602000, 0, 0, 0, []⟩] } : State).moves, m.ctx = l.r.ctx) ∧
    (∀ m ∈ s.moves, m.ctx ≠ l.r.ctx) ∧ imageHeld s l.view l.r.image = false ∧ imageFor s l = ([], s) ∧
    (s.tile 0).group = some group := by
  refine ⟨rfl, by decide, by decide, rfl, rfl, by decide, by decide, ⟨_, List.mem_singleton_self _, rfl⟩, by decide, by decide +kernel, rfl, by decide +kernel⟩

/-- R27: the group starts. -/
theorem test_start : ((after (.groupStart 1 0) (launched (launch [placing true]) { group := some group })).tile 0).running = true := by decide +kernel

/-- A tile that meets R30: its one strand retired, its switch halted. -/
def doneTile : Tile := { (strandTile { active with run := .retired }) with group := some group, sw := { run := .halted } }

/-- A launch of one group that counts counter 7 up by 1 when it is done. -/
def lastLaunch : Launch := { launch [placed0] with r := { record with nx := 1, done := some (7, 1) } }

theorem test_meets_finish : OnlyPlaced (launched (launch [placed0]) doneTile) (launch [placed0]) placed0 ∧
    groupDone (launched (launch [placed0]) doneTile) (launch [placed0]) placed0 = true ∧
    groupDone (launched (launch [placed0]) undrained) (launch [placed0]) placed0 = false ∧
    (launch [placed0]).base = placed0.rank ∧ placed0.rank + 1 < groupCount (launch [placed0]).r ∧ (launch [placed0]).retired = [] ∧
    groupDone (launched lastLaunch doneTile) lastLaunch placed0 = true ∧ placed0.rank + 1 = groupCount lastLaunch.r ∧ lastLaunch.r.status = 0 ∧
    (launched lastLaunch doneTile).hub.counterWrites = [] ∧ (launched lastLaunch doneTile).hub.counterBefore = [] := by
  unfold OnlyPlaced RegionOnDie; decide +kernel

/-- R30: the finished group releases its tiles and counts; the last one ends its launch (R343). -/
theorem test_finish : (after (.groupFinish 1 0) (launched (launch [placed0]) doneTile)).hub.launches.map (fun l => (l.base, l.placed)) = [(1, [])] ∧
    ((after (.groupFinish 1 0) (launched (launch [placed0]) doneTile)).tile 1).group = none ∧
    tabGet 0 7 (after (.groupFinish 1 0) (launched lastLaunch doneTile)).hub.counters = 1 := by decide +kernel

/-- The same tiles with OVERRUN received. -/
def overrunTile : Tile := { (strandTile { active with overran := true, r := { accesses := [acc .load 0x200000 4] } }) with group := some group, cycle := 70000 }

theorem in_region {t : TileNo} (ht : t ∈ regionTiles 0 2 1) : t = 0 ∨ t = 1 := by
  have : regionTiles 0 2 1 = [0, 1] := by decide
  simpa [this] using ht

theorem test_meets_overrun : let s := launched (launch [placed0]) overrunTile
    OnlyPlaced s (launch [placed0]) placed0 ∧ StillBusy s (launch [placed0]) placed0 ∧
    overrunDue s (launch [placed0]) placed0 = true ∧ (s.strandAt 0 0).overran = true ∧ 10 + 65536 < (s.tile 0).cycle ∧
    (∀ t ∈ regionTiles 0 2 1, ∃ g, (s.tile t).group = some g ∧ g.lnum = 1) ∧
    overrunDue (launched (launch [placed0]) doneTile) (launch [placed0]) placed0 = false ∧
    ¬(∃ t ∈ regionTiles 0 2 1, ∃ k : Fin 8, ((launched (launch [placed0]) undrained).strandAt t k).overran = true) ∧
    (let s := launched (launch [placed0]) { overrunTile with cycle := 11 }; overrunDue s (launch [placed0]) placed0 = true ∧ (s.tile 0).cycle ≤ 65546) := by
  refine ⟨?_, still_busy _ _ _ rfl 1 (by decide) (by decide +kernel), by decide +kernel, by decide +kernel, by decide +kernel, ?_, by decide +kernel, ?_, by decide +kernel⟩
  · unfold OnlyPlaced RegionOnDie; decide +kernel
  · intro t ht
    rcases in_region ht with rfl | rfl
    · exact ⟨group, by decide +kernel, rfl⟩
    · exact ⟨{ group with index := 1 }, by decide +kernel, rfl⟩
  · rintro ⟨t, ht, k, hk⟩
    have h0 : (List.finRange 8).all (fun k => !((launched (launch [placed0]) undrained).strandAt 0 k).overran && !((launched (launch [placed0]) undrained).strandAt 1 k).overran) = true := by decide +kernel
    have h := List.all_eq_true.1 h0 k (List.mem_finRange k)
    rcases in_region ht with rfl | rfl <;> simp [hk] at h

/-- R364: 65,536 cycles past its duration a group that has received OVERRUN fails its launch with code 0x10; one that has not does not. -/
theorem test_overrun : (after (.overrunDeadline 1 0) (launched (launch [placed0]) overrunTile)).hub.launches.map (fun l => l.ending.map fun e => (e.code, e.detail)) =
      [some (0x10, 0x10B)] ∧
    (after (.overrunDeadline 1 0) (launched (launch [placed0]) undrained)).hub.launches.map (fun l => l.ending.isNone) = [true] ∧
    ((after (.overrun 1 0) (launched (launch [placed0]) undrained)).strandAt 1 0).ovrpend = true := by decide +kernel

/-- A gang of one group with a save area at 0x800000 of one frame, and a gang of another queue that its window keeps out. -/
def ganged : Launch := { launch [placed0] with r := { record with gang := true, gangSize := 1 }, area := 0x800000, slot := none }
def waiting : Launch := { launch [] with r := { record with gang := true, gangSize := 1 }, lnum := 2, queue := 1, slot := none }

/-- A quantum of 100 dispatcher cycles, which has run out at cycle 160. -/
def quantum (rival : Bool) (n : Nat) : State := { launched ganged undrained with
  now := n, mem := memWrite [] 0x800000 (leBytes 8 1 ++ leBytes 8 0x200000) }.modHub fun h => { h with
    queues := h.queues.set 0 { quant := 100 }, launches := if rival then [ganged, waiting] else [ganged] }

theorem test_meets_quantum : DistinctLaunches (quantum true 400) ∧ ganged ∈ (quantum true 400).hub.launches ∧
    (ganged.placed.find? fun q => q.rank == placed0.rank) = some placed0 ∧ (quantum true 400).dcycle = 160 ∧
    ((quantum true 400).hub.queues[(0 : Fin 64)]).quant = 100 ∧
    (quantum true 0).dcycle < placed0.quantumAt + 100 ∧ placed0.quantumAt + 100 ≤ (quantum true 400).dcycle ∧
    groupDone (quantum true 400) ganged placed0 = false ∧ (regionTiles 0 2 1).all (tileAwake (quantum true 400)) = true ∧
    mayFreeze (quantum true 400) none ganged placed0 = true ∧ Rival (quantum true 400) ganged ∧ ¬Rival (quantum false 400) ganged := by
  refine ⟨?_, List.mem_cons_self, by decide +kernel, by decide +kernel, by decide +kernel, by decide +kernel, by decide +kernel, by decide +kernel, by decide +kernel, by decide +kernel,
    ⟨waiting, List.mem_cons_of_mem _ (List.mem_singleton_self _), by decide, by decide, by decide +kernel, ([0], false), by decide +kernel, .inr (by decide +kernel)⟩, ?_⟩
  · unfold DistinctLaunches; decide +kernel
  · rintro ⟨m, hm, hq, -⟩
    have h : m = ganged := List.mem_singleton.1 hm
    exact hq (by rw [h])

/-- R345: with a rival the group is asked to freeze; without one its quantum starts anew. -/
theorem test_quantum : (after (.quantumExpiry 1 0) (quantum true 400)).hub.launches.map (fun l => l.placed.map (·.freezeAsked)) = [[true], []] ∧
    (after (.quantumExpiry 1 0) (quantum false 400)).hub.launches.map (fun l => l.placed.map fun p => (p.freezeAsked, p.quantumAt)) = [[(false, 160)]] := by decide +kernel

/-- A group asked to freeze, at a stage of R373, with a save area of one frame at 0x800000, or none. -/
def asked (u : Option (List (HartId × Nat))) : Placed := { placed0 with freezeAsked := true, unmapped := u }
def freezeLaunch (area : Nat) (u : Option (List (HartId × Nat))) : Launch := { launch [asked u] with area := area }
def freezing (area : Nat) (u : Option (List (HartId × Nat))) (x : Tile) : State := { launched (freezeLaunch area u) { x with stopped := true } with
  mem := memWrite [] 0x800000 (leBytes 8 1 ++ leBytes 8 0x200000) }

theorem test_meets_freeze : let s u x := freezing 0x800000 u x
    let l u := freezeLaunch 0x800000 u
    OnlyPlaced (s none doneTile) (l none) (asked none) ∧ (∀ t ∈ regionTiles 0 2 1, ((s none doneTile).die (tileDie t)).halted = false) ∧
    (∃ t ∈ regionTiles 0 2 1, (((s none doneTile).setDie 0 { halted := true }).die (tileDie t)).halted = true) ∧
    framesFor (freezing 0 none doneTile) (freezeLaunch 0 none) (asked none) = [] ∧ framesFor (s none doneTile) (l none) (asked none) = [0] ∧
    groupIdle (s none undrained) (l none) (asked none) = false ∧ groupIdle (s none doneTile) (l none) (asked none) = true ∧
    groupQuiet (s (some []) undrained) (l (some [])) (asked (some [])) = false ∧
    groupQuiet (s (some []) doneTile) (l (some [])) (asked (some [])) = true ∧ scanOutBad (s (some []) doneTile) (l (some [])) (asked (some [])) = false ∧
    (let x := { doneTile with badLm := [0] }
     let l := { l (some []) with r := { record with saveMask := 2 ^ 64 - 1 } }
     let s := launched l { x with stopped := true }
     groupQuiet s l (asked (some [])) = true ∧ scanOutBad s l (asked (some [])) = true ∧ l.frozen = [] ∧ l.r.status = 0) := by
  refine ⟨?_, fun t ht => by rcases in_region ht with rfl | rfl <;> decide +kernel, ⟨0, by decide, by decide +kernel⟩, by decide +kernel, by decide +kernel, by decide +kernel, by decide +kernel, by decide +kernel, by decide +kernel, by decide +kernel, by decide +kernel⟩
  unfold OnlyPlaced RegionOnDie; decide +kernel

/-- R373: the group is unmapped when it is idle; with no frame the freeze is given up. -/
theorem test_freeze : ((after (.freeze 1 0) (freezing 0x800000 none doneTile)).tile 0).unmapped = true ∧
    ((after (.freeze 1 0) (freezing 0 none doneTile)).tile 0).running = true := by decide +kernel

/-- A group placed to be restored. -/
def frozen : Frozen := ⟨0, 0, [doneTile, doneTile], []⟩
def toRestore : Placed := ⟨0, 0, false, 0, 0, false, true, none, false, none⟩
def restored : Launch := { launch [toRestore] with frozen := [frozen] }

theorem hbmBytes_empty (s : State) (hm : s.mem = []) (h : ∀ a, s.stale a = false) (a n : Nat) : s.hbmBytes a n = List.replicate n 0 := by
  induction n generalizing a with
  | zero => rfl
  | succ n ih => simp [State.hbmBytes, State.hbmByte, h, ih, hm, memGet, tabGet, List.replicate_succ]

theorem crc64_zero (n : Nat) : crc64 (List.replicate n 0) = 0 := by
  unfold crc64
  induction n with
  | zero => rfl
  | succ n ih =>
    have h : (List.range 8).foldl (fun c _ => crcBit c) (0 ^^^ ((0 : Byte).toNat * 2 ^ 56)) = 0 := by decide +kernel
    rw [List.replicate_succ, List.foldl_cons, h]; exact ih

theorem leVal_zero (n : Nat) : leVal (List.replicate n 0) = 0 := by
  induction n with
  | zero => rfl
  | succ n ih => rw [List.replicate_succ]; show 0 + 256 * _ = 0; rw [ih]

theorem areaSound_zero (n : Nat) : areaSound (List.replicate n 0) = true := by
  simp only [areaSound, areaWord, fld, List.take_replicate, List.drop_replicate, crc64_zero, leVal_zero]
  rfl

theorem areaOk_empty (s : State) (hm : s.mem = []) (hf : s.failedLines = []) (h : ∀ a, s.stale a = false) (mask a : Nat) : areaOk s mask a = true := by
  have hb (n) : s.failedIn a n = false := by simp [State.failedIn, hf]
  have hs (n) : areaSound (s.hbmBytes a n) = true := by rw [hbmBytes_empty s hm h]; exact areaSound_zero n
  have hr (c r f) : rowsFailed s c r f = false := by simp [rowsFailed, hf]
  unfold areaOk
  rw [hb, hr, hr, hs]
  rfl

theorem test_meets_restore : let s := launched restored { group := some group }
    OnlyPlaced s restored toRestore ∧ imageHeld s restored.view restored.r.image = false ∧ imageFor s restored = ([], s) ∧
    frozen.tiles.length = 2 * 1 ∧ (∀ a, areaOk s restored.r.saveMask a = true) ∧
    areaOk { s with failedLines := [areaAddr (frameAddr s 0 0) 0 / 128] } restored.r.saveMask (areaAddr (frameAddr s 0 0) 0) = false ∧
    (s.failedIn (restored.area + 8) 8 = false ∧ ({ s with failedLines := [0] } : State).failedIn (restored.area + 8) 8 = true) ∧
    (∀ x ∈ frozen.tiles, x.eng.r.held = none ∧ ∀ k : Fin 8, (x.strands[k]).r.held = none) := by
  refine ⟨?_, by decide +kernel, rfl, rfl, ?_, ?_, ⟨by decide +kernel, by decide +kernel⟩, ?_⟩
  · unfold OnlyPlaced RegionOnDie; decide +kernel
  · refine fun a => areaOk_empty _ rfl rfl (fun a => ?_) _ a
    simp [State.stale, State.epochOf, State.keyOf, launched, State.setTile, State.reset, tabGet]
  · have h : ({ launched restored { group := some group } with failedLines := [areaAddr (frameAddr (launched restored { group := some group }) 0 0) 0 / 128] } : State).failedIn
        (areaAddr (frameAddr (launched restored { group := some group }) 0 0) 0) 0x8000 = true := by decide +kernel
    unfold areaOk; rw [h]; rfl
  · decide +kernel

theorem test_meets_slots : (State.reset.hub.slots[(3 : Fin 32)]).st = 0 ∧ ((launched (launch []) {}).hub.slots[(3 : Fin 32)]).st ≠ 1 ∧
    ((State.reset.modHub fun h => { h with slots := h.slots.set 3 { st := 1, w := 13 } }).hub.slots[(3 : Fin 32)]).st = 1 ∧
    (∃ l ∈ (launched (launch []) {}).hub.launches, l.slot = some 3) ∧ (∀ l ∈ State.reset.hub.launches, l.slot ≠ some 3) ∧
    (launched (launch []) {}).ctxValid 5 = false :=
  ⟨by decide, by decide +kernel, by decide, ⟨launch [], List.mem_singleton_self _, rfl⟩, by decide, by decide +kernel⟩

/-- An image of one tile that loads nothing, and a slot of one region that loads it from 0x4000 of context 5. -/
def img11 : List Byte := leBytes 4 0x4D495A4E ++ leBytes 2 1 ++ leBytes 2 0 ++ [1, 1, 0, 0] ++ leBytes 4 0x60 ++ List.replicate 80 0
def slot11 : Slot := { st := 1, w := 1, h := 1, ctx := 5, standing := 1, image := 0x4000 }
def loading : State := { State.reset with
  inputs := [], mem := memWrite (memWrite (memWrite (memWrite (memWrite [] 0x400000 (leBytes 8 0x600001)) 0x600000 (leBytes 8 0x601001)) 0x601000 (leBytes 8 0x602001)) 0x602000 (leBytes 8 0x80000F)) 0x804000 img11
  hub := { slots := (Vector.replicate 32 {}).set 3 slot11, ctxs := [(40, 1), (41, 0x400000), (47, 0)] } }

/-- The same with other power and another count of values drawn. -/
def withPower (p : Power) (n : Nat) (s : State) : State := { s with power := p, fresh := n }

theorem loading_view (p : Power) (k c : Nat) : (withPower p k loading).viewOf c = loading.viewOf c := rfl

theorem loading_view6 : loading.viewOf 6 = ⟨6, 0, 0, 0⟩ := by decide +kernel

theorem loading_image (p q : Power) (k j : Nat) :
    readImage (withPower p k loading) ((withPower q j loading).viewOf 5) 0x4000 = some (img11, withPower p k loading) := by
  rw [loading_view]; cbv

theorem loading_none (p q : Power) (k j : Nat) : readImage (withPower p k loading) ((withPower q j loading).viewOf 6) 0x4000 = none := by
  rw [loading_view, loading_view6]; cbv

theorem loading_held (p : Power) (k : Nat) : imageHeld (withPower p k loading) ((withPower p k loading).viewOf 5) 0x4000 = false := by
  rw [loading_view]; cbv

theorem loading_free (p : Power) (k : Nat) (t : TileNo) : ((withPower p k loading).tile t).group = none ∧ inStanding (withPower p k loading) t = false ∧
    tileAwake (withPower p k loading) t = true := by
  refine ⟨rfl, ?_, ?_⟩
  · have h : ∀ sl ∈ (withPower p k loading).hub.slots.toList, sl.regions = [] := by
      have : (withPower p k loading).hub = loading.hub := rfl
      rw [this]; decide +kernel
    simp only [inStanding, List.any_eq_false]
    intro sl hs; simp [h sl hs]
  · have : (withPower p k loading).die (tileDie t) = {} := rfl
    have h : ∀ k : Fin 4, ((({} : Die).clusters[k]).st == 0 && (({} : Die).clusters[k]).busy.isNone) = true := by decide
    simp only [tileAwake, this]
    rw [h]; rfl

theorem loading_places (p : Power) (k : Nat) (n : Nat) : (slotPlaces (withPower p k loading) 1 1 1 n).isSome = true := by
  have hf (o : Nat) : regionFree (withPower p k loading) [] none 1 1 o false = true := by
    simp only [regionFree, loading_free, originXY]
    have h2 : o % 144 / 12 + 1 ≤ 12 := by omega
    simp [h2]; omega
  have hr : List.range 1 = [0] := rfl
  unfold slotPlaces
  rw [hr]
  unfold placeRanks
  rw [List.findSome?_isSome_iff]
  refine ⟨(n + 0) % 28800, List.mem_map.2 ⟨0, List.mem_range.2 (by omega), rfl⟩, ?_⟩
  dsimp only
  rw [hf]
  rfl

theorem withPower_next (p : Power) (n : Nat) (s : State) : withPower p (n + 1) s = { withPower p n s with fresh := (withPower p n s).fresh + 1 } := rfl

theorem withPower_fits (b : Nat) (s : State) : (withPower { pbudget := 0 + b } 0 s).power.preserve + b ≤ (withPower { pbudget := 0 + b } 0 s).power.pbudget := Nat.le_refl _

/-- A state and slot that meet every premise of a load that succeeds: the power is just what the slot needs. -/
theorem test_meets_slotload : ∃ s : State, s.rot.recovery = false ∧ s.hub.slots[(3 : Fin 32)] = slot11 ∧ s.ctxValid 5 = true ∧
    s.power.preserve + slotPowerOf slot11 + Config.pfloor.toNat ≤ s.power.pbudget ∧ imageHeld s (s.viewOf 5) 0x4000 = false ∧
    (∃ s' : State, s' = { s with fresh := s.fresh + 1 } ∧ readImage s' (s.viewOf 5) 0x4000 = some (img11, s') ∧ readImage s' (s.viewOf 6) 0x4000 = none ∧
      ∀ n, (slotPlaces s' 1 1 1 n).isSome = true) ∧
    imageOk img11 1 1 = true ∧ imageOk img11 2 1 = false :=
  ⟨withPower { pbudget := 0 + (slotPowerOf slot11 + Config.pfloor.toNat) } 0 loading, rfl, by decide +kernel, by decide +kernel,
    (Nat.add_assoc ..).symm ▸ (withPower_fits (slotPowerOf slot11 + Config.pfloor.toNat) loading), loading_held _ _,
    ⟨_, withPower_next _ 0 loading, loading_image _ _ _ _, loading_none _ _ _ _, loading_places _ _⟩, by decide +kernel, by decide +kernel⟩

/-! ### Seams and links -/

/-- A flit under way on a lane of cache die 0's side 1, sent again r times. -/
def laned (r : Nat) : State := State.reset.modCache 0 fun x => { x with sels := x.sels.set 12 { en := true, credit := 3, resends := r, resentTo := 9, path := [{ from_ := 9 }], returns := [0] } }

theorem test_meets_seams : selBad State.reset 0 1 0 (1 + 3 * 2) = false ∧ laneRuns (launched (launch []) { running := true }) 0 1 0 = laneRuns State.reset 0 1 0 ∧
    (State.reset.modCache 0 fun x => { x with sels := x.sels.set 12 { en := true, side := 2 } }).caches ≠ [] ∧ (laned 0).now < 9 ∧
    ((laned 0).cache 0).sels[selNo 1 0] = { en := true, credit := 3, resends := 0, resentTo := 9, path := [] ++ { from_ := 9 } :: [], returns := [0] } ∧
    (laned 0).now < 9 ∧ (∀ f ∈ ((State.reset.cache 0).sels[selNo 1 0]).path, f.from_ ≤ 0) ∧ ((State.reset.cache 0).sels[selNo 1 0]).en = false ∧
    laneTile 0 1 0 = some (tileOf (1 * 144)) ∨ laneTile 0 1 0 = some 0 := by decide +kernel

/-- R395: joining a free lane gives it 12 credits; R416: a resend delays by 12 cycles, and when eight have failed the lane fails. -/
theorem test_seams : (((after (.seamSelectorWrite 0 1 0 7) State.reset).cache 0).sels[selNo 1 0]).credit = 12 ∧
    (((after (.seamCrcResend 0 1 0) (laned 0)).cache 0).sels[selNo 1 0]).path.map (·.from_) = [21] ∧
    bit (after (.seamCrcResend 0 1 0) (laned 7)).hub.irqcause 2 = false ∧ bit (after (.seamCrcResend 0 1 0) (laned 8)).hub.irqcause 2 = true ∧
    (((after (.seamCreditReturn 0 1 0) (laned 0)).cache 0).sels[selNo 1 0]).credit = 4 := by decide +kernel

/-- The tile at an end of that lane holds an undrained group of a launch. -/
def seamed (t : Nat) : State := { (State.reset.setTile (tileOf t) { undrained with group := some { group with w := 1, origin := t } }) with
  hub := { launches := [{ launch [{ placed0 with origin := t }] with r := { record with w := 1 } }] } }

theorem test_meets_lane_fail : ∃ t, laneTile 0 1 0 = some (tileOf t) ∧ StillBusy (seamed t) { launch [{ placed0 with origin := t }] with r := { record with w := 1 } } { placed0 with origin := t } ∧
    OnlyPlaced (seamed t) { launch [{ placed0 with origin := t }] with r := { record with w := 1 } } { placed0 with origin := t } ∧
    ∃ g, ((seamed t).tile (tileOf t)).group = some g ∧ g.lnum = 1 := by
  cases h : laneTile 0 1 0 with
  | none => exact absurd h (by decide +kernel)
  | some u =>
    have hu : u = tileOf 144 ∨ u = tileOf 0 := by
      have : laneTile 0 1 0 = some (tileOf 144) ∨ laneTile 0 1 0 = some (tileOf 0) := by decide +kernel
      simpa [h] using this
    rcases hu with rfl | rfl
    · exact ⟨144, rfl, still_busy _ _ _ rfl (tileOf 144) (by decide) (by decide +kernel), by unfold OnlyPlaced RegionOnDie; decide +kernel, { group with w := 1, origin := 144 }, by decide +kernel, rfl⟩
    · exact ⟨0, rfl, still_busy _ _ _ rfl (tileOf 0) (by decide) (by decide +kernel), by unfold OnlyPlaced RegionOnDie; decide +kernel, { group with w := 1, origin := 0 }, by decide +kernel, rfl⟩

/-- Port 0 with peer 0 in session and a ring of two entries at 0x1000 whose first is a write of 8 bytes at offset 0x40; a
window of 0x1000 bytes at 0x200000. -/
def linked (y : Peer) : State := { State.reset with
  mem := memWrite [] 0x1000 [1, 8, 0, 0, 0, 0, 0, 0, 0x40], inputs := []
  ports := [(0, { en := true, linkup := true, peers := (Vector.replicate 16 {}).set 0 y
                  windows := (Vector.replicate 16 {}).set 0 { wbase := 0, wlen := 0x1000, wpa := 0x200000, wen := true, wpeers := 1 }
                  rings := (Vector.replicate 16 {}).set 0 { rbase := 0x20, size := 1, ren := true } })] }

def session : Peer := { pmac := 5, valid := true, st := 1, incrok := true, ccount := 8, statuses := [(0xFFFFFFFF, 1)] }
def dataF : Frame := { ver := 1, kindOf := 1, rst := false, seq := 0, status := 0, kind := 1, len := 8, flow := 0, offset := 0x38, incr := 0, data := (List.range 64).map (BitVec.ofNat 8) }
def unacked (r : Nat) : Peer := { session with unacked := [(dataF, 0, 0)], rounds := r }
/-- That link when the time for an answer has run out. -/
def silent (r : Nat) : State := { linked (unacked r) with now := 50000 }

theorem test_meets_post : let x := ((linked session).port 0).rings[(0 : Fin 16)]
    x.ren = true ∧ x.size = 1 ∧ inHbm (x.rbase * 128) (2 ^ x.size * 128) = true ∧ (1 + 2 ^ 32 - x.rhead) % 2 ^ 32 ≤ 2 ^ x.size ∧
    (1 + 2 ^ 32 - x.posted) % 2 ^ 32 = 1 ∧ ((linked session).port 0).peers[fin16 x.peer] = session ∧ ({} : Peer).st = 0 ∧
    bits ((linked session).hbmRead 0x1000 8) 0 8 = 1 ∧ bits ((linked session).hbmRead 0x1000 8) 32 24 = 0 ∧
    bits ((linked session).hbmRead 0x1000 8) 8 8 = 8 ∧ (linked session).hbmRead 0x1008 8 = 0x40 ∧
    ((State.reset.port 0).rings[(0 : Fin 16)]).ren = false := by decide +kernel

theorem test_meets_frames : let x := (linked session).port 0
    x.en = true ∧ session.valid = true ∧ dataF.ver = 1 ∧ dataF.kindOf = 1 ∧ dataF.seq = session.rxseq ∧ dataF.data.length = 64 ∧
    dataF.offset % 64 + dataF.len ≤ 64 ∧ (windowFor x 0 dataF.offset dataF.len).isSome = true ∧ windowFor x 0 0x1000 8 = none ∧
    windowFor x 0 0xFF8 8 = some (x.windows[(0 : Fin 16)]) ∧
    (0 + 2 ^ 32 - 0xFFFFFFFF) % 2 ^ 32 = 1 ∧ session.statuses.lookup 0xFFFFFFFF = some 1 ∧ session.statuses.lookup 7 = none ∧
    ((unacked 0).unacked.find? fun z => z.1.seq == 0) = some (dataF, 0, 0) ∧ ((unacked 0).unacked.find? fun z => z.1.seq == 1) = none ∧
    (unacked 0).since + x.rto ≤ (silent 0).dcycle ∧ (0 < x.retry) ∧ x.retry ≤ (unacked 16).rounds ∧
    (silent 0).dcycle = 20000 ∧ (linked (unacked 0)).dcycle < (unacked 0).since + x.rto := by decide +kernel

/-- A ring of two entries with a first doubleword; a record of 128 bytes for queue 2 of the panel, whose ring is at 0x3000. -/
def ringWord (w off : Nat) : State := { linked session with mem := memWrite (memWrite [] 0x1000 (leBytes 8 w)) 0x1008 (leBytes 8 off) }
def incrF : Frame := { dataF with kind := 2, offset := 3, incr := 5, data := [] }
def launchF : Frame := { dataF with kind := 3, flow := 7, data := List.replicate 128 1 }
def ethState : State := (linked { session with launchok := true }).modHub fun h => { h with
  queues := h.queues.set 2 { qbase := 0x60, size := 1, en := true, eth := true, flow := 7, port := 0 } }

theorem test_meets_link_bytes : dataF.ver < 2 ^ 8 ∧ dataF.kindOf < 2 ^ 8 ∧ dataF.seq < 2 ^ 32 ∧ dataF.status < 2 ^ 8 ∧ dataF.kind < 2 ^ 8 ∧
    dataF.len < 2 ^ 8 ∧ dataF.flow < 2 ^ 16 ∧ dataF.offset < 2 ^ 64 ∧ ([] : List Byte).length < 32 ∧
    ({ dataF with rst := true }.rst = true ∧ session.rstFrame ≠ some { dataF with rst := true }) ∧
    frameHeld (linked session) 0 0 dataF = false ∧ session.unacked = [] ∧ session.pend = [] ∧ ((linked session).port 0).linkup = true ∧
    bits ((ringWord 2 3).hbmRead 0x1000 8) 0 8 = 2 ∧ bits ((ringWord 2 3).hbmRead 0x1000 8) 32 24 = 0 ∧
    bits ((ringWord 3 0).hbmRead 0x1000 8) 0 8 = 3 ∧ bits ((ringWord 4 0).hbmRead 0x1000 8) 0 8 = 4 ∧
    bits ((ringWord 1 0).hbmRead 0x1000 8) 8 8 = 0 ∧ ethQueue (linked session) 0 7 = none ∧ ethQueue ethState 0 7 = some 2 ∧
    queueUsable (ethState.hub.queues[(2 : Fin 64)]) = true ∧ queueWaiting (ethState.hub.queues[(2 : Fin 64)]) < 2 ∧
    inHbm (queueEntry (ethState.hub.queues[(2 : Fin 64)]) 0) 128 = true ∧ frameHeld ethState 0 0 launchF = false ∧
    frameHeld (ethState.modHub fun h => { h with queues := h.queues.set 2 { qbase := 0x1E0000000000, size := 1, en := true, eth := true, flow := 7, port := 0 } }) 0 0 launchF = true ∧
    launchF.data.length = 128 ∧ (session.incrok = true ∧ session.cbase ≤ 3 ∧ 3 < session.cbase + session.ccount) ∧
    ethState.hub.counterWrites = [] ∧ ethState.hub.counterBefore = [] := by decide +kernel

/-- A WRITE of 1 to the tail address of the local ring, which is itself a post; that link while the post stands open, and when
its entry has its status. -/
def postF : Frame := { dataF with data := List.replicate 56 0 ++ 1 :: List.replicate 7 0 }
def posting (es : List Nat) (o : Option OpenRecord) : State := (linked { session with open_ := o }).modPort 0 fun x => { x with
  rings := x.rings.set 0 { rbase := 0x20, size := 1, ren := true, tailpa := 0x200038, openEntries := es } }

theorem test_meets_open : frameRange ((posting [] none).port 0) 0 postF = some (0x200038, 8) ∧ (posting [] none).failedIn 0x200038 8 = false ∧
    (performFrame (posting [] none) 0 0 postF).2.postsOf 0x200038 8 = [(0, 0, 0)] ∧
    (((posting [0] (some ⟨postF, 1, 0x200038, [(0, 0, 0)]⟩)).port 0).peers[(0 : Fin 16)]).open_ = some ⟨postF, 1, 0x200038, [(0, 0, 0)]⟩ ∧
    postDone (posting [0] none) [(0, 0, 0)] = false ∧ postDone (posting [] none) [(0, 0, 0)] = true ∧
    frameHeld (posting [0] (some ⟨postF, 1, 0x200038, [(0, 0, 0)]⟩)) 0 0 dataF = true := by decide +kernel

/-- R412, R413: a WRITE that is a post is acknowledged when the entry it posts has its status. -/
theorem test_open : (after (.dataFrameReceive 0 0 (wire postF)) (posting [] none)).emitted = [] ∧
    (closeFrame (posting [0] (some ⟨postF, 1, 0x200038, [(0, 0, 0)]⟩)) 0 0).emitted = [] ∧
    (closeFrame (posting [] (some ⟨postF, 1, 0x200038, [(0, 0, 0)]⟩)) 0 0).emitted = [.frame 0 5 (wire (ackOf 0 1))] := by decide +kernel

/-- R412, R415: a counter entry and a record leave as one frame each; received, they count up and enter the queue. -/
theorem test_link_kinds : (after (.ringPost 0 0 1) (ringWord 2 3)).emitted.length = 1 ∧ (after (.ringPost 0 0 2) (ringWord 3 0)).emitted.length = 1 ∧
    (after (.ringPost 0 0 1) (ringWord 4 0)).hbmByte 0x1007 = 5 ∧
    tabGet 0 3 (after (.dataFrameReceive 0 0 (wire incrF)) (linked session)).hub.counters = 5 ∧
    ((after (.dataFrameReceive 0 0 (wire launchF)) ethState).hub.queues[(2 : Fin 64)]).qtail = 1 := by decide +kernel

/-- R412-R415: a posted entry leaves as frame 0; a frame in sequence is performed and acknowledged with status 1; rounds
end after RETRY. -/
theorem test_frames : (after (.ringPost 0 0 1) (linked session)).emitted.length = 1 ∧
    (after (.dataFrameReceive 0 0 (wire dataF)) (linked session)).hbmBytes 0x200038 8 = (List.range 8).map (fun i => BitVec.ofNat 8 (0x38 + i)) ∧
    (after (.dataFrameReceive 0 0 (wire dataF)) (linked session)).emitted = [.frame 0 5 (wire (ackOf 0 1))] ∧
    (((after (.ackFrameReceive 0 0 (wire (ackOf 0 1)) []) (linked (unacked 0))).port 0).peers[(0 : Fin 16)]).unacked = [] ∧
    (((after (.retransmitTimeout 0 0) (silent 16)).port 0).peers[(0 : Fin 16)]).st = 2 ∧
    (((after (.retransmitTimeout 0 0) (silent 15)).port 0).peers[(0 : Fin 16)]).rounds = 16 := by decide +kernel

/-! ### Clusters, host, power, debug, boot -/

/-- Cluster 0 of die 0 in a state with a command, after reset; the die halted or waiting for a halt. -/
def clustered (st : Nat) (busy : Option Nat) (halted halt : Bool) : State := State.reset.modDie 0 fun x => { x with
  halted := halted, halt := halt, clusters := x.clusters.set 0 { st := st, busy := busy, pbase := 0x200000 } }

/-- A cluster whose buffer stands outside HBM. -/
def scanless : State := State.reset.modDie 0 fun x => { x with clusters := x.clusters.set 0 { pbase := 0x1E000000000 } }

theorem test_meets_clusters : IsCommand 0 0 true (.quiesce 0 0 true) 1 [0] ∧ IsCommand 0 0 true (.clusterRestore 0 0 true) 5 [1, 2, 4] ∧
    ((clustered 0 none true false).die 0).halted = true ∧ ((clustered 0 (some 1) false false).die 0).clusters[(0 : Fin 4)].busy ≠ none ∧
    (((clustered 0 none false false).die 0).clusters[(0 : Fin 4)].st ∈ [0]) ∧ (¬KeptOut State.reset 0 0) ∧
    KeptOut (launched (launch [{ placed0 with started := false }]) {}) 0 0 ∧ quiesced (clustered 0 (some 1) false false) 0 0 = true ∧
    inHbm 0x200000 (36 * 0x8000) = true ∧ ((clustered 1 (some 5) false true).die 0).clusters[(0 : Fin 4)].st = 1 ∧
    quiesced (State.reset.setTile 0 undrained) 0 0 = false ∧ scanGood scanless 0 0 0 = false ∧
    (∀ i, i < 36 → badIn ((clustered 0 (some 2) false false).tile (clusterTile 0 0 i)).badLm 0 0x8000 = none) ∧
    haltedAfter ((clustered 0 none true false).die 0) 0 ∧ OnlyPlaced (launched (launch [placed0]) undrained) (launch [placed0]) placed0 ∧
    StillBusy (launched (launch [placed0]) undrained) (launch [placed0]) placed0 ∧ inCluster 0 0 0 = true := by
  refine ⟨.inl ⟨rfl, rfl, rfl⟩, .inr (.inr (.inr (.inr ⟨rfl, rfl, rfl⟩))), by decide, by decide, by decide, ?_, ?_, by decide +kernel,
    by decide, by decide, by decide +kernel, ?_, fun i _ => rfl, .inl (by decide), ?_, still_busy _ _ _ rfl 0 (by decide) (by decide +kernel), by decide +kernel⟩
  · have none_ : ∀ x ∈ State.reset.hub.slots.toList, x.regions = [] := by decide +kernel
    rintro (⟨l, h, -⟩ | ⟨x, hx, o, ho, -⟩)
    · exact absurd h (by simp [State.reset])
    · simp [none_ x hx] at ho
  · refine .inl ⟨launch [{ placed0 with started := false }], List.mem_singleton_self _, { placed0 with started := false }, List.mem_singleton_self _, ⟨0, by decide +kernel, by decide +kernel⟩, .inr (.inr (.inr (.inr (.inl rfl))))⟩
  · have h : inHbm 0x1E000000000 (36 * areaBytes) = false := by decide
    show (Config.scanOk 0 && inHbm 0x1E000000000 (36 * areaBytes) && _ && _) = false
    rw [h]; simp
  · unfold OnlyPlaced RegionOnDie; decide +kernel

/-- R431, R439: QUIESCE of an idle cluster begins; a SAVE in state 0 is refused with 1; a waiting halt takes effect at the
end of the command. -/
theorem test_clusters : ((after (.quiesce 0 0 true) (clustered 0 none false false)).die 0).clusters[(0 : Fin 4)].busy = some 1 ∧
    ((after (.save 0 0 true) (clustered 0 none false false)).die 0).clusters[(0 : Fin 4)].err = 1 ∧
    ((after (.clusterCommandEnd 0 0) (clustered 2 (some 3) false true)).die 0).clusters[(0 : Fin 4)].st = 3 ∧
    ((after (.clusterCommandEnd 0 0) (clustered 2 (some 3) false true)).die 0).halted = true ∧
    ((after (.railTimeout 0 0) (clustered 3 (some 4) false false)).die 0).clusters[(0 : Fin 4)].err = 4 ∧
    bits (after (.railTimeout 0 0) (clustered 3 (some 4) false false)).power.pevent 3 1 = 1 := by decide +kernel

/-- Host modules up as given, with causes enabled. -/
def hosted (up irqen : Nat) : State := State.reset.modHub fun h => { h with up := up, irqen := irqen, irqaddr := 0x100 }

theorem test_meets_host : bit (hosted 1 0).hub.up 0 = true ∧ bit (hosted 1 0).hub.up 1 = false ∧ (hosted 1 0).deferred = [] ∧
    (128 ∈ [1, 2, 4, 8, 16, 32, 64, 128] ∧ 0x180 % 128 = 0) ∧ 0x180 % 256 ≠ 0 ∧ 4 * domainBytes < 0x1E000000000 + 8 ∧ paRange 0x1E000000000 ≠ 9 ∧
    windowTile 0x1E000000000 = none ∧ 4 * domainBytes - 8 + 8 ≤ 4 * domainBytes ∧ (hosted 1 0).failedIn 0x180 128 = false ∧
    { hosted 1 0 with failedLines := [3] }.failedIn 0x180 8 = true ∧ (hosted 1 0).tailRings 0x180 128 = [] ∧
    bit (hosted 1 0).hub.irqcause 3 = false ∧ bit (hosted 1 8).hub.irqen 3 = true ∧ (hosted 1 8).hub.irqaddr < 2 ^ 48 := by decide +kernel

/-- R405-R409: a read of HBM, an error completion, and an interrupt that becomes pending while enabled. -/
theorem test_host : (after (.hostRead 0 0x180 4) (hosted 1 0)).emitted = [.readData 0 [0, 0, 0, 0]] ∧
    (after (.hostRead 0 0x182 4) (hosted 1 0)).emitted = [.errorCompletion 0] ∧
    (after (.hostRead 1 0x180 4) (hosted 1 0)).deferred.length = 1 ∧
    (after (.hostWrite 0 0x180 [1, 2]) (hosted 1 0)).hbmBytes 0x180 3 = [1, 2, 0] ∧
    ((hosted 1 8).irq 3).emitted = [.interrupt 0x100 3] := by decide +kernel

/-- An outcome status behind module 0, which is down, with the completion increment that follows it. -/
def heldStatus : State := (hosted 0 0).modHub fun h => { h with heldWrites := [⟨0xF000000000100, [5], some (1, 7, 2)⟩] }

theorem test_meets_held : heldStatus.hub.heldWrites = [⟨0xF000000000100, [5], some (1, 7, 2)⟩] ∧ paRange 0xF000000000100 = 0xF ∧
    heldStatus.hub.irqHeld = [] ∧ (after (.ucieModuleLinkChange 0 true) heldStatus).hostReady 0xF000000000100 1 = true ∧
    heldStatus.hub.counterWrites = [] ∧ heldStatus.hub.counterBefore = [] := by decide +kernel

/-- R272, R343: the status is written when the module comes up, and then the counter counts. -/
theorem test_held : tabGet 0 7 heldStatus.hub.counters = 0 ∧
    (after (.ucieModuleLinkChange 0 true) heldStatus).hostBytes 0xF000000000100 1 = [5] ∧
    tabGet 0 7 (after (.ucieModuleLinkChange 0 true) heldStatus).hub.counters = 2 := by decide +kernel

theorem test_meets_errors : (State.reset.tile 0).group = none ∧ ((launched (launch [placed0]) undrained).tile 0).group = some group ∧
    group.lnum = (launch [placed0]).lnum ∧ (launched (launch [placed0]) undrained).ctxKey 5 = (launched (launch [placed0]) undrained).keyOf 0x200000 ∧
    ({ launched (launch [placed0]) undrained with keyMap := [(1, 3)] }).ctxKey 5 ≠ ({ launched (launch [placed0]) undrained with keyMap := [(1, 3)] }).keyOf 0x200000 ∧
    0x200000 < 4 * domainBytes ∧ (st.strandAt 0 0).inh = false ∧ (∀ k : Fin 80, k.val < 64 ∨ 64 ≤ k.val) := by decide +kernel

/-- R366, R122: an error of g4 marks it; an instruction that consumes it raises the machine check with EVAL naming it, one that
does not goes on, and a write heals it. -/
theorem test_residue : let s := after (.uncorrectableError (.register (.strand 0 0) 4)) st
    s.regs.residue = [4] ∧ unsound s { gs := [4], gd := some 3 } = some 4 ∧ (after (.add 3 4 0) s).me.eval = 0x8000000000000004 ∧
    (after (.add 3 5 0) s).regs.pc = 4 ∧ (after (.addi 4 0 1) s).regs.residue = [] := by decide +kernel

/-- R366: an error in a tile's memory marks its word; one in a line marks the line, and tells the host which. -/
theorem test_errors : ((after (.uncorrectableError (.localMem 0 8)) (launched (launch [placed0]) undrained)).tile 0).badLm = [2] ∧
    (after (.uncorrectableError (.line 0x200000)) (launched (launch [placed0]) undrained)).failedLines = [0x4000] ∧
    (after (.uncorrectableError (.line 0x200000)) (launched (launch [placed0]) undrained)).emitted.contains (.failedLine 0x200000) = true := by decide +kernel

theorem test_meets_registers : (0xA000000000000 + 4) % 8 ≠ 0 ∧ blockOf (0xB000000000000) = none ∧ 0xB000000000000 < 2 ^ 52 ∧
    (0x0000000000000052 : W64).toNat % 256 = 0x52 ∧ 1024 < ((State.reset.hub.bwMin.set 3 1023).set 4 2).toList.sum ∧
    (State.reset.hub.bwMin.set 3 1023).toList.sum ≤ 1024 ∧ (0x200000 * 5) / 0x200000 = 5 := by decide +kernel

/-- R319, R339: writes of QCFG 2 and of counter 7 by their addresses. -/
theorem test_registers : ((after (.registerWrite 0xA000000010220 9) State.reset).hub.queues[(2 : Fin 64)]).prio = 2 ∧
    tabGet 0 7 (after (.registerWrite 0xA000000100038 9) State.reset).hub.counters = 9 := by decide +kernel

/-- R340: within one dispatcher cycle a completion increment of 3 applies before a host write of 5, and a remote increment
of 1 after it, whatever comes first. -/
theorem test_counter_order :
    tabGet 0 7 (((State.reset.counterOp ⟨7, portSource 2, true, 1⟩).counterOp ⟨7, hostSource 1, false, 5⟩).counterOp
      ⟨7, completionSource 1, true, 3⟩).hub.counters = 6 ∧ State.reset.hub.counterWrites = [] := by decide +kernel

/-- Die 0 held at the floor with the one group there, which can be frozen; nothing else on it. -/
def heldGroup : Launch := { launch [placed0] with area := 0x800000 }
def floored : State := ({ launched heldGroup undrained with mem := memWrite [] 0x800000 (leBytes 8 1 ++ leBytes 8 0x200000) } : State).modDie 0 fun x => { x with floorCount := 2, floorHeld := true }

theorem test_meets_floor : (floored.die 0).floorCount = 2 ∧ (floored.die 0).floorHeld = true ∧ (floored.die 0).floorLeft = false ∧
    OnlyPlaced floored heldGroup placed0 ∧ heldGroup.r.latclass = 0 ∧ heldGroup.r.standing = false ∧ mayFreeze floored none heldGroup placed0 = true ∧
    StillBusy floored heldGroup placed0 := by
  refine ⟨by decide +kernel, by decide +kernel, by decide +kernel, ?_, rfl, rfl, by decide +kernel, still_busy _ _ _ rfl 0 (by decide) (by decide +kernel)⟩
  unfold OnlyPlaced RegionOnDie; decide +kernel

/-- A halted die of a machine whose debug policy permits debug, with strand 1 of tile 0 halted at its first instruction. -/
def debugged : State := { (clustered 0 none true false) with rot := { debugOk := true } }
def atBrk : State := { (onTile (strandTile { run := .halted })) with rot := { debugOk := true } }

theorem test_meets_debug : debugged.rot.debugOk = true ∧ (debugged.die 0).halted = true ∧ ((debugged.die 0).clusters[clusterOf 0]).st = 0 ∧
    (atBrk.strandAt 0 0).run = .halted ∧ (atBrk.strandAt 0 0).r.lc[(0 : Fin 2)] = 0 ∧ (atBrk.strandAt 0 0).r.pc.toNat < 0xFFFC ∧
    (0x8000000000000000 : W64).getLsbD 63 = true ∧ bits (0x8000000000000000 : W64).toNat 0 8 < 144 := by decide +kernel

/-- R121, R378: DBGRESUME completes the brk; the chain reads and writes a register, and the saved pc. -/
theorem test_debug : ((after (.dbgresume 0 0x8000000000000000) atBrk).strandAt 0 0).r.pc = 4 ∧ ((after (.dbgresume 0 0x8000000000000000) atBrk).strandAt 0 0).run = .active ∧
    ((after (.jtagInstruction (.chainWrite 0 (.g 1 3) 9)) debugged).strandAt 0 1).r.g[(3 : Reg)] = 9 ∧
    ((after (.jtagInstruction (.chainWrite 0 (.area 0x940) 8)) debugged).strandAt 0 0).r.pc = 8 := by decide +kernel

/-- R439, R442: the debug control register sets HALT and DBGEN under the policy, and nothing without it; DBGEN changes alone while
HALT stands; the chain reaches the switch, the matrix queue, handles, the cache and the die, and a bad word fails the launch. -/
theorem test_debug_register : let p : State := { State.reset with rot := { debugOk := true } }
    let q := after (.registerWrite 0x9000000070000 3) p
    (q.die 0).dbgen = true ∧ (q.die 0).halt = true ∧ (q.die 0).halted = true ∧ exec (.registerWrite 0x9000000070000 3) State.reset = .next State.reset ∧
    ((after (.debugEnableWrite 0 0) q).die 0).halt = true ∧ ((after (.debugEnableWrite 0 0) q).die 0).dbgen = false := by
  refine ⟨by decide +kernel, by decide +kernel, by decide +kernel, rfl, by decide +kernel, by decide +kernel⟩

/-- A halted tile with a matrix instruction queued, an entry of the translation cache and a bad word. -/
def chained : State := debugged.modTile 0 fun x => { x with tlb := [page 0x10000 0x200000 true], badLm := [2] }

theorem test_chain : (after (.jtagInstruction (.chainRead 0 (.tlb 0 4))) chained).emitted = [.jtag 0x200000] ∧
    (after (.jtagInstruction (.chainRead 0 (.matrixOrder 3))) chained).emitted = [.jtag 0] ∧
    ((after (.jtagInstruction (.chainWrite 0 (.switchMode 8) 70)) chained).tile 0).sw.missLen = 70 ∧
    ((after (.jtagInstruction (.chainWrite 0 (.handle 1 2 2) 0x300)) chained).strandAt 0 1).r.h[(2 : Fin 8)].pb = 0x300 ∧
    8 / 4 ∈ (chained.tile 0).badLm ∧ 0 / 4 ∉ (chained.tile 0).badLm := by decide +kernel

theorem test_meets_power : State.reset.power.hot = false ∧ ({ State.reset with power := { hot := true } } : State).power.hot = true ∧
    State.reset.dcycle < State.reset.power.lastRecompute + 1000000 ∧
    ({ State.reset with now := 2500000 } : State).power.lastRecompute + 1000000 ≤ ({ State.reset with now := 2500000 } : State).dcycle ∧
    (8 ≤ (State.reset.die 0).duty ∧ (State.reset.die 0).duty ≤ 64) ∧ ({ State.reset with rot := { debugOk := true } } : State).rot.debugOk = true ∧
    State.reset.rot.debugOk = false ∧ (State.reset.die 0).halt = false ∧ (∀ k : Fin 4, ((State.reset.die 0).clusters[k]).busy = none) ∧
    ((onTile (strandTile { run := .halted })).strandAt 0 0).run = .halted ∧ ((clustered 0 none true false).die (tileDie 0)).halted = true ∧
    bits (0x8000000000000000 : W64).toNat 11 52 = 0 := by decide +kernel

/-- R443, R439, R442: a trip keeps the panel down; a halt takes effect at once; register 0 reads 0 through the chain. -/
theorem test_power : (after (.thermalTrip 110000) State.reset).hub.down = true ∧ (after (.thermalTrip 109999) State.reset).hub.down = false ∧
    ((after (.debugHalt 0) { State.reset with rot := { debugOk := true } }).die 0).halted = true ∧
    (after (.jtagInstruction (.chainRead 0 (.g 0 0))) { clustered 0 none true false with rot := { debugOk := true } }).emitted = [.jtag 0] := by
  decide +kernel

theorem test_meets_boot : State.reset.rot.stage = 0 ∧ State.reset.rot.recovery = false ∧
    ({ State.reset with rot := { recovery := true } } : State).rot.recovery = true ∧ (4 : Fin 8).val = 4 ∧ (List.replicate 48 (0 : Byte)).length = 48 ∧
    bit (hosted 1 0).hub.up (0x4000 / 4096 % 4) = true ∧ bit (hosted 1 0).hub.up (0x5000 / 4096 % 4) = false ∧
    State.reset.keyOf 0 = 0 ∧ ({ State.reset with keyMap := [(0, 3)] } : State).keyOf 0 = (3 : Fin 128).val ∧
    ({ State.reset with keyMap := [(0, 3)], lineEpoch := [(0, 3)] } : State).stale 0 = false ∧
    ({ State.reset with rot := { stage := 3 } } : State).rot.stage = 3 := by decide +kernel

/-- R437, R438: MR0 is not the host's to extend; a regenerated index counts up. -/
theorem test_boot : (after (.mrExtend 3 (List.replicate 48 0)) State.reset).rot.mr = State.reset.rot.mr ∧
    tabGet 0 5 (after (.keyRegenerate 5) State.reset).keyEpoch = 1 ∧ (after (.keyRegenerate 0) State.reset).keyEpoch = [] := by
  decide +kernel

end

end Sys2Proof.Tests
end

section
/-! PROOFS. Every step goes on, and keeps HBM and host memory in canonical form (R4, R9, R220). -/
namespace Sys2Proof.Machine

/-- HBM and host memory keep the canonical form of a byte memory from `s` to `t`: each that has it at `s` has it at `t`
(R4, R220). -/
structure MemKept (s t : State) : Prop where
  hbm : Mem.wf s.mem = true → Mem.wf t.mem = true
  host : Mem.wf s.hostMem = true → Mem.wf t.hostMem = true

/-- The outcome is a next state, to which both memories keep their form. -/
def GoesOn (s : State) (o : Out State) : Prop := ∃ t, o = .next t ∧ MemKept s t

/-- The state of an answer, when there is one. -/
def OptKept (s : State) (o : Option State) : Prop := ∀ ⦃v⦄, o = some v → MemKept s v

/-- The state that comes with a value, when there is one. -/
def FoundKept {α : Type} (s : State) (o : Option (α × State)) : Prop := ∀ ⦃a v⦄, o = some (a, v) → MemKept s v

/-- The state that a walk of the page tables leaves, when it finds a page. -/
def WalkKept (s : State) (x : Except WalkFault (WalkHit × State)) : Prop :=
  ∀ ⦃hit v⦄, x = .ok (hit, v) → MemKept s v

/-- The state that a part of an engine's job leaves, however it comes out. -/
def EngKept {α : Type} (s : State) (x : Eng α) : Prop :=
  match x with
  | .ok _ v | .hold v | .later v | .fail _ _ v => MemKept s v

/-- The same for a part that answers a state: both the answer and what the part leaves. -/
def EngSettled (s : State) (x : Eng State) : Prop :=
  match x with
  | .ok a v => MemKept s a ∧ MemKept s v
  | .hold v | .later v | .fail _ _ v => MemKept s v

/-! ### The shapes that the model's functions are built of -/

section Rules
variable {s u v : State} {α β : Type} {c : Prop} [Decidable c]

theorem MemKept.refl (s : State) : MemKept s s := ⟨id, id⟩

/-- A change of any fields but the two memories. -/
theorem MemKept.same {hart swTile inputs deferred todo now fresh emitted lineEpoch keyEpoch failedLines revoking moves
    keyMap tiles dies caches ports hub power rot} (h : MemKept s u) :
    MemKept s ⟨hart, swTile, inputs, deferred, todo, now, fresh, emitted, u.mem, u.hostMem, lineEpoch, keyEpoch,
      failedLines, revoking, moves, keyMap, tiles, dies, caches, ports, hub, power, rot⟩ :=
  ⟨h.hbm, h.host⟩

/-- What leaves all but one hart alone leaves the memories alone. -/
theorem MemKept.of_local (h : MemKept s u) (l : Local u v) : MemKept s v := by
  refine ⟨?_, ?_⟩
  · rw [l.mem]; exact h.hbm
  · rw [l.hostMem]; exact h.host

theorem MemKept.ite {a b : State} (ha : MemKept s a) (hb : MemKept s b) : MemKept s (if c then a else b) := by
  split <;> assumption

theorem MemKept.ite_snd {a b : α × State} (ha : MemKept s a.2) (hb : MemKept s b.2) :
    MemKept s (if c then a else b).2 := by
  split <;> assumption

theorem MemKept.of_snd {p : α × State} {a : α} (h : MemKept s p.2) (e : p = (a, v)) : MemKept s v := by
  subst e; exact h

theorem MemKept.pair {a : α} (h : MemKept s u) : MemKept s (a, u).2 := h

theorem MemKept.foldl_on {p : β → State} {f : β → α → β} {l : List α} {b : β} (h : MemKept s (p b))
    (hf : ∀ {b a}, MemKept s (p b) → MemKept s (p (f b a))) : MemKept s (p (l.foldl f b)) :=
  List.foldlRecOn (motive := fun b => MemKept s (p b)) l f h fun _ h _ _ => hf h

theorem MemKept.foldl {f : State → α → State} {l : List α} (h : MemKept s u)
    (hf : ∀ {v a}, MemKept s v → MemKept s (f v a)) : MemKept s (l.foldl f u) :=
  MemKept.foldl_on (p := id) h hf

theorem MemKept.foldr {f : α → State → State} {l : List α} (h : MemKept s u)
    (hf : ∀ {v a}, MemKept s v → MemKept s (f a v)) : MemKept s (l.foldr f u) := by
  induction l with
  | nil => exact h
  | cons a l ih => exact hf ih

theorem GoesOn.next (h : MemKept s u) : GoesOn s (.next u) := ⟨u, rfl, h⟩

theorem GoesOn.ite {a b : Out State} (ha : GoesOn s a) (hb : GoesOn s b) : GoesOn s (if c then a else b) := by
  split <;> assumption

theorem OptKept.none : OptKept s none := nofun

theorem OptKept.some (h : MemKept s u) : OptKept s (some u) := fun _ e => Option.some.inj e ▸ h

theorem OptKept.ite {a b : Option State} (ha : OptKept s a) (hb : OptKept s b) : OptKept s (if c then a else b) := by
  split <;> assumption

theorem OptKept.bind {o : Option α} {f : α → Option State} (hf : ∀ a, o = .some a → OptKept s (f a)) :
    OptKept s (o.bind f) := by
  cases o with
  | none => exact .none
  | some a => exact hf a rfl

theorem OptKept.map {o : Option α} {f : α → State} (hf : ∀ a, MemKept s (f a)) : OptKept s (o.map f) := by
  cases o with
  | none => exact .none
  | some a => exact .some (hf a)

theorem OptKept.or {a b : Option State} (ha : OptKept s a) (hb : OptKept s b) : OptKept s (a.or b) := by
  cases a with
  | none => exact hb
  | some => exact ha

theorem OptKept.getD {o : Option State} (ho : OptKept s o) (h : MemKept s u) : MemKept s (o.getD u) := by
  cases o with
  | none => exact h
  | some => exact ho rfl

theorem FoundKept.none : FoundKept s (none : Option (α × State)) := nofun

theorem FoundKept.some {a : α} (h : MemKept s u) : FoundKept s (some (a, u)) := fun _ _ e => by cases e; exact h

theorem FoundKept.ite {a b : Option (α × State)} (ha : FoundKept s a) (hb : FoundKept s b) :
    FoundKept s (if c then a else b) := by
  split <;> assumption

theorem FoundKept.bind {o : Option (α × State)} {f : α × State → Option (β × State)} (ho : FoundKept s o)
    (hf : ∀ {a v}, MemKept s v → FoundKept s (f (a, v))) : FoundKept s (o.bind f) := by
  cases o with
  | none => exact .none
  | some a => exact hf (ho rfl)

theorem FoundKept.map {o : Option α} {f : α → β × State} (hf : ∀ a, MemKept s (f a).2) : FoundKept s (o.map f) := by
  cases o with
  | none => exact .none
  | some a => exact .some (hf a)

theorem WalkKept.error {e : WalkFault} : WalkKept s (.error e) := nofun

theorem WalkKept.ok {hit : WalkHit} (h : MemKept s u) : WalkKept s (.ok (hit, u)) := fun _ _ e => by cases e; exact h

theorem WalkKept.ite {a b : Except WalkFault (WalkHit × State)} (ha : WalkKept s a) (hb : WalkKept s b) :
    WalkKept s (if c then a else b) := by
  split <;> assumption

theorem EngKept.ok {a : α} (h : MemKept s u) : EngKept s (.ok a u) := h
theorem EngKept.hold (h : MemKept s u) : EngKept s (.hold u : Eng α) := h
theorem EngKept.later (h : MemKept s u) : EngKept s (.later u : Eng α) := h
theorem EngKept.fail {e : Nat} {w : W64} (h : MemKept s u) : EngKept s (.fail e w u : Eng α) := h

theorem EngKept.of_ok {x : Eng α} {a : α} (h : EngKept s x) (e : x = .ok a v) : MemKept s v := by
  subst e; exact h

theorem EngKept.ite {a b : Eng α} (ha : EngKept s a) (hb : EngKept s b) : EngKept s (if c then a else b) := by
  split <;> assumption

theorem EngKept.bind {x : Eng α} {f : α → State → Eng β} (hx : EngKept s x)
    (hf : ∀ {a v}, MemKept s v → EngKept s (f a v)) : EngKept s (x.bind f) := by
  cases x with
  | ok a v => exact hf hx
  | hold | later | fail => exact hx

theorem EngSettled.ok (h : MemKept s u) : EngSettled s (.ok u u) := ⟨h, h⟩
theorem EngSettled.hold (h : MemKept s u) : EngSettled s (.hold u) := h
theorem EngSettled.later (h : MemKept s u) : EngSettled s (.later u) := h
theorem EngSettled.fail {e : Nat} {w : W64} (h : MemKept s u) : EngSettled s (.fail e w u) := h

theorem EngSettled.ite {a b : Eng State} (ha : EngSettled s a) (hb : EngSettled s b) :
    EngSettled s (if c then a else b) := by
  split <;> assumption

theorem EngSettled.bind {x : Eng α} {f : α → State → Eng State} (hx : EngKept s x)
    (hf : ∀ {a v}, MemKept s v → EngSettled s (f a v)) : EngSettled s (x.bind f) := by
  cases x with
  | ok a v => exact hf hx
  | hold | later | fail => exact hx

theorem EngSettled.kept {x : Eng State} (hx : EngSettled s x) : EngKept s x := by
  cases x with
  | ok => exact hx.2
  | hold | later | fail => exact hx

end Rules

/-! One lemma for each function of the model that answers a state, in the order of its files and under the function's own
name: `MemKept.modTile` says that `modTile` keeps what its argument keeps. A proof then reads as the function's body:
`h.draw.modHub`, with `.ite` at a test, `.foldl` at a loop and a `split` at a `match`. The writes of `mem` and `hostMem`
themselves are those of `sendIrq`, `refreshLine`, `hbmStore` and `hostStore`. -/

section Operations
variable {s u : State}

/-! ### Named parts of the state -/

theorem MemKept.setTile {t : TileNo} {x : Tile} (h : MemKept s u) : MemKept s (u.setTile t x) := h.same

theorem MemKept.modTile {t : TileNo} {f : Tile → Tile} (h : MemKept s u) : MemKept s (u.modTile t f) := h.setTile

theorem MemKept.setDie {d : DieNo} {x : Die} (h : MemKept s u) : MemKept s (u.setDie d x) := h.same

theorem MemKept.modDie {d : DieNo} {f : Die → Die} (h : MemKept s u) : MemKept s (u.modDie d f) := h.setDie

theorem MemKept.setCache {c : DieNo} {x : CacheDie} (h : MemKept s u) : MemKept s (u.setCache c x) := h.same

theorem MemKept.modCache {c : DieNo} {f : CacheDie → CacheDie} (h : MemKept s u) : MemKept s (u.modCache c f) :=
  h.setCache

theorem MemKept.modPort {p : Nat} {f : Port → Port} (h : MemKept s u) : MemKept s (u.modPort p f) := h.same

theorem MemKept.modHub {f : Hub → Hub} (h : MemKept s u) : MemKept s (u.modHub f) := h.same

theorem MemKept.modStrand {t : TileNo} {k : Fin 8} {f : Strand → Strand} (h : MemKept s u) :
    MemKept s (u.modStrand t k f) := h.modTile

theorem MemKept.modRegsOf {g : HartId} {f : Regs → Regs} (h : MemKept s u) : MemKept s (u.modRegsOf g f) := by
  unfold State.modRegsOf
  split
  · exact h.modStrand
  · exact h.modTile
  · exact h.modDie

theorem MemKept.modRegs {f : Regs → Regs} (h : MemKept s u) : MemKept s (u.modRegs f) := h.modRegsOf

theorem MemKept.modMyTile {f : Tile → Tile} (h : MemKept s u) : MemKept s (u.modMyTile f) := h.modTile

theorem MemKept.modMe {f : Strand → Strand} (h : MemKept s u) : MemKept s (u.modMe f) := h.of_local (.modMe ..)

theorem MemKept.draw (h : MemKept s u) : MemKept s u.draw.2 := h.same

theorem MemKept.push {i : Instr} (h : MemKept s u) : MemKept s (u.push i) := h.same

theorem MemKept.defer {i : Instr} (h : MemKept s u) : MemKept s (u.defer i) := h.same

theorem MemKept.accepts {f : State → State} (h : MemKept s u) (hf : MemKept s (f u)) : MemKept s (u.accepts f) :=
  .ite h hf

theorem MemKept.emit {e : Emit} (h : MemKept s u) : MemKept s (u.emit e) := h.same

theorem MemKept.modLaunch {n : Nat} {f : Launch → Launch} (h : MemKept s u) : MemKept s (u.modLaunch n f) := h.modHub

theorem MemKept.sendIrq {c : Nat} (h : MemKept s u) : MemKept s (u.sendIrq c) :=
  .ite (MemKept.emit ⟨h.hbm, fun w => memWrite_wf _ _ (h.host w)⟩) h.modHub

theorem MemKept.irq {c : Nat} (h : MemKept s u) : MemKept s (u.irq c) := .ite h (.ite h.modHub.sendIrq h.modHub)

/-! ### Physical memory -/

theorem MemKept.refreshLine {pa : Nat} (h : MemKept s u) : MemKept s (u.refreshLine pa) :=
  .ite ⟨fun w => memWrite_wf _ _ (h.hbm w), h.host⟩ h

theorem MemKept.fireLine {line pa n ctx : Nat} (h : MemKept s u) : MemKept s (u.fireLine line pa n ctx) :=
  .ite h h.setCache.same

theorem MemKept.fireWatches {pa n ctx : Nat} (h : MemKept s u) : MemKept s (u.fireWatches pa n ctx) :=
  .foldl h fun h => h.fireLine

theorem MemKept.hbmStore {pa : Nat} {bs : List Byte} {ctx : Nat} (h : MemKept s u) :
    MemKept s (u.hbmStore pa bs ctx) :=
  have h := h.refreshLine.refreshLine
  MemKept.fireWatches ⟨fun w => memWrite_wf _ _ (h.hbm w), h.host⟩

theorem MemKept.hbmWrite {pa : Nat} {bs : List Byte} {ctx : Nat} (h : MemKept s u) :
    MemKept s (u.hbmWrite pa bs ctx) := .foldl h.hbmStore fun h => h.push

theorem MemKept.clearFailed {pa n : Nat} (h : MemKept s u) : MemKept s (u.clearFailed pa n) := .ite h.same h

theorem MemKept.lineWrite {pa : Nat} {bs : List Byte} (h : MemKept s u) : MemKept s (u.lineWrite pa bs) :=
  h.clearFailed.hbmWrite

theorem MemKept.soundWrite {pa : Nat} {bs : List Byte} (h : MemKept s u) : MemKept s (u.soundWrite pa bs) :=
  .ite h h.hbmWrite

theorem MemKept.hostStore {a : Nat} {bs : List Byte} (h : MemKept s u) : MemKept s (u.hostStore a bs) :=
  ⟨h.hbm, fun w => memWrite_wf _ _ (h.host w)⟩

theorem MemKept.holdWrite {pa : Nat} {bs : List Byte} (h : MemKept s u) : MemKept s (u.holdWrite pa bs) := h.modHub

theorem MemKept.hostSend {pa : Nat} {bs : List Byte} (h : MemKept s u) : MemKept s (u.hostSend pa bs) :=
  .ite h.hostStore h.holdWrite

theorem MemKept.plainWrite {pa : Nat} {bs : List Byte} {ctx : Nat} (h : MemKept s u) :
    OptKept s (u.plainWrite pa bs ctx) :=
  .ite (.ite (.some h.holdWrite) (.ite .none (.some h.hbmWrite))) (.ite (.some h.hostSend) .none)

theorem MemKept.modQueue {q : Fin 64} {f : LQueue → LQueue} (h : MemKept s u) : MemKept s (u.modQueue q f) := h.modHub

theorem MemKept.pushRecord {q : Fin 64} {bs : List Byte} (h : MemKept s u) : MemKept s (u.pushRecord q bs) := by
  unfold State.pushRecord
  dsimp only
  split
  · exact (h.plainWrite ‹_›).modQueue
  · exact h

/-! ### Walks and translation -/

theorem MemKept.walkLeaf {c : View} {die : DieNo} {va : Nat} {wr : Bool} {lvl slot e : Nat} (h : MemKept s u) :
    WalkKept s (walkLeaf u c die va wr lvl slot e) :=
  .ite .error (.ite .error (.ite .error (.ite .error (.ite .error (.ok (.ite h h.hbmWrite))))))

theorem MemKept.walkFrom {c : View} {die : DieNo} {va : Nat} {wr : Bool} {lvls : List Nat} {t : Nat}
    (h : MemKept s u) : WalkKept s (walkFrom u c die va wr lvls t) := by
  induction lvls generalizing t with
  | nil => exact .error
  | cons lvl rest ih => exact .ite .error (.ite .error (.ite .error (.ite h.walkLeaf (.ite .error ih))))

theorem MemKept.windowWalk {ctx va : Nat} (h : MemKept s u) : WalkKept s (windowWalk u ctx va) := by
  unfold Machine.windowWalk
  dsimp only
  split
  · exact .error
  · exact .ok h

theorem MemKept.walk {c : View} {die : DieNo} {va : W64} {wr : Bool} (h : MemKept s u) :
    WalkKept s (walk u c die va wr) :=
  .ite h.windowWalk h.walkFrom

theorem MemKept.ctxWalk {c : View} {va : W64} {wr : Bool} (h : MemKept s u) : FoundKept s (ctxWalk u c va wr) := by
  refine .ite .none ?_
  split
  · exact .ite .none (.some h.same)
  · refine .ite .none ?_
    split
    · exact .ite (.some (h.walk ‹_›)) .none
    · exact .none

theorem MemKept.tlbInvalidate {ctx va : Nat} (h : MemKept s u) : MemKept s (u.tlbInvalidate ctx va) := h.same

theorem MemKept.revokeHandles {ctx va : Nat} (h : MemKept s u) : MemKept s (u.revokeHandles ctx va) := h.same

/-! ### What the dispatcher keeps of launches -/

theorem MemKept.statusLost {q : Nat} (h : MemKept s u) : MemKept s (u.statusLost q) := h.modQueue.irq

theorem MemKept.ctxWrite {c : View} {va : W64} {bs : List Byte} (h : MemKept s u) :
    OptKept s (u.ctxWrite c va bs) := by
  refine .bind fun _ q => ?_
  have h := h.ctxWalk q
  exact .ite h.plainWrite (.bind fun _ q => .bind fun _ w => ((h.ctxWalk q).plainWrite w).plainWrite)

theorem MemKept.statusWrite {q : Nat} {c : View} {va : W64} {bs : List Byte} (h : MemKept s u) :
    MemKept s (u.statusWrite q c va bs) :=
  .ite h (h.ctxWrite.getD h.statusLost)

theorem MemKept.judgeWaits (h : MemKept s u) : MemKept s u.judgeWaits := h.modHub

theorem MemKept.judgeOld {c : Nat} (h : MemKept s u) : MemKept s (u.judgeOld c) := .ite h h.judgeWaits

theorem MemKept.noteWrite {c : CounterWrite} (h : MemKept s u) : MemKept s (u.noteWrite c) := h.judgeOld.modHub

theorem MemKept.counterOp {c : CounterWrite} (h : MemKept s u) : MemKept s (u.counterOp c) := h.noteWrite.modHub

theorem MemKept.counterWrite {source n v : Nat} (h : MemKept s u) : MemKept s (u.counterWrite source n v) :=
  h.counterOp

theorem MemKept.counterAdd {source n v : Nat} (h : MemKept s u) : MemKept s (u.counterAdd source n v) := h.counterOp

theorem MemKept.makeHeld {w : HeldWrite} (h : MemKept s u) : MemKept s (u.makeHeld w) := by
  unfold State.makeHeld
  split
  · exact h.hostStore.counterAdd
  · exact h.hostStore

theorem MemKept.releaseHostWrites (h : MemKept s u) : MemKept s u.releaseHostWrites :=
  .foldl h.modHub fun h => h.makeHeld

theorem MemKept.completionAdd {n lnum c v : Nat} (h : MemKept s u) : MemKept s (u.completionAdd n lnum c v) :=
  .ite h.counterAdd h.modHub

theorem MemKept.frameMark {area f : Nat} {on : Bool} (h : MemKept s u) : MemKept s (u.frameMark area f on) :=
  .ite h h.soundWrite

theorem MemKept.freeSeams {t : Nat} (h : MemKept s u) : MemKept s (u.freeSeams t) := by
  unfold State.freeSeams
  refine .foldl h fun h => ?_
  split
  · exact h
  · exact .ite h.modCache h

theorem MemKept.releaseRegion {lnum origin w g : Nat} (h : MemKept s u) :
    MemKept s (u.releaseRegion lnum origin w g) := by
  unfold State.releaseRegion
  exact .modHub (.foldl h fun h => h.freeSeams.modTile.modDie)

theorem MemKept.unmapWindows {ctx rank w g : Nat} (h : MemKept s u) : MemKept s (u.unmapWindows ctx rank w g) :=
  .foldl h fun h => h.tlbInvalidate.revokeHandles

theorem MemKept.stopTiles {ts : List TileNo} (h : MemKept s u) : MemKept s (u.stopTiles ts) :=
  .foldl h fun h => h.modTile.modDie

theorem MemKept.rerequest {t : TileNo} (h : MemKept s u) : MemKept s (rerequest u t) := .ite h.modDie h

theorem MemKept.unmapGroup {l : Launch} {p : Placed} (h : MemKept s u) : MemKept s (unmapGroup l u p) :=
  .modLaunch (.foldl (.ite h.unmapWindows h) fun h => h.modTile)

theorem MemKept.endLaunch {lnum : Nat} (h : MemKept s u) : MemKept s (u.endLaunch lnum) := by
  unfold State.endLaunch
  dsimp only
  split
  · exact h
  · split
    · exact h.statusWrite.modHub.completionAdd
    · exact h.statusWrite.modHub

theorem MemKept.settle {lnum : Nat} (h : MemKept s u) : MemKept s (u.settle lnum) := by
  unfold State.settle
  split
  · exact h
  · refine .ite h ?_
    extract_lets marked unmapped placed gone freed left kept
    have hk : MemKept s kept :=
      .modLaunch (.foldl (.foldl (.foldl h fun h => h.frameMark) fun h => h.unmapGroup) fun h => h.releaseRegion)
    exact .ite hk.endLaunch hk

theorem MemKept.stopLaunch {lnum : Nat} {e : Ending} (h : MemKept s u) : MemKept s (u.stopLaunch lnum e) := by
  unfold State.stopLaunch
  split
  · exact h
  · exact .ite h (.settle (.foldl h.modLaunch fun h => h.stopTiles))

theorem MemKept.failGroup {t : TileNo} {code : Nat} {detail epc eval : W64} {k : Nat} (h : MemKept s u) :
    MemKept s (u.failGroup t code detail epc eval k) := by
  unfold State.failGroup
  split
  · exact h
  · exact h.stopLaunch

theorem MemKept.failAll {p : Launch → Bool} {eval : W64} (h : MemKept s u) : MemKept s (u.failAll p eval) :=
  .foldl h fun h => h.stopLaunch

/-! ### Exceptions and completion -/

theorem MemKept.takeTrap {t : TileNo} {k : Fin 8} {c : Cause} {eval : W64} {async : Bool} {at_ : W64}
    (h : MemKept s u) : MemKept s (takeTrap u t k c eval async at_) :=
  .ite h.modStrand.modTile.failGroup (.ite h.modStrand.modTile.failGroup h.modStrand.modTile.modStrand)

theorem MemKept.endJob {t : TileNo} {err : Nat} {efault : W64} (h : MemKept s u) :
    MemKept s (endJob u t err efault) := h.modTile

theorem MemKept.stopMgmt {d : DieNo} {err : Nat} {val at_ : W64} (h : MemKept s u) :
    MemKept s (stopMgmt u d err val at_) := .ite h h.modDie.irq

theorem MemKept.raiseAt {c : Cause} {eval at_ : W64} (h : MemKept s u) : MemKept s (raiseAt c eval at_ u) := by
  unfold Machine.raiseAt
  split
  · exact h.takeTrap
  · exact h.endJob
  · exact h.stopMgmt

theorem MemKept.onHart {g : HartId} {f : State → State} (h : MemKept s u) (hf : ∀ v, MemKept s v → MemKept s (f v)) :
    MemKept s (onHart g f u) :=
  (hf _ h.same).same

theorem MemKept.raise {c : Cause} {eval : W64} (h : MemKept s u) : MemKept s (raise c eval u) := h.raiseAt

theorem MemKept.returnFromTrap (h : MemKept s u) : MemKept s (returnFromTrap u) := .ite h.raise h.modMe

theorem MemKept.stepOn (h : MemKept s u) : MemKept s (stepOn u) := .ite h.raiseAt h.modRegs

theorem MemKept.complete (h : MemKept s u) : MemKept s (complete u) := .ite h.modRegs h.modRegs.stepOn

theorem MemKept.completeOn (h : MemKept s u) : MemKept s (completeOn u) := h.modRegs.stepOn

theorem MemKept.completeTo {t : W64} (h : MemKept s u) : MemKept s (completeTo t u) := h.modRegs

theorem MemKept.jumpTo {t : W64} {k : State → State} (h : MemKept s u) (hk : MemKept s (k u)) :
    MemKept s (jumpTo t k u) :=
  .ite h.raise hk.completeTo

/-! ### Banks of local memory -/

theorem MemKept.askBank {a : Nat} (h : MemKept s u) : MemKept s (askBank a u).2 := by
  unfold Machine.askBank
  dsimp only
  exact h.modMyTile

theorem MemKept.askBankAmo {a : Nat} (h : MemKept s u) : MemKept s (askBankAmo a u).2 := by
  unfold Machine.askBankAmo
  dsimp only
  exact h.modMyTile

theorem MemKept.busyFor {n : Nat} (h : MemKept s u) : MemKept s (busyFor n u) := h.modRegs

/-! ### Operands and results -/

theorem MemKept.popWords {seen vec : Bool} {q : Fin 8} {n : Nat} (h : MemKept s u) :
    MemKept s (popWords u seen vec q n).2 :=
  h.of_local (popWords_local ..)

theorem MemKept.giveBack {g : HartId} {l : List (Fin 8 × List QEntry)} {old : W64} (h : MemKept s u) :
    MemKept s (giveBack g l old u) := by
  unfold Machine.giveBack
  split
  · exact (MemKept.foldr h fun h => h.modTile).modStrand
  · exact h

theorem MemKept.popG {seen : Bool} {a : Reg} (h : MemKept s u) : MemKept s (popG seen a u).2.2 :=
  h.of_local (popG_local ..)

theorem MemKept.popV {seen : Bool} {a : Reg} (h : MemKept s u) : MemKept s (popV seen a u).2.2 :=
  h.of_local (popV_local ..)

theorem MemKept.writeG {d : Reg} {v : W64} {lat : Nat} (h : MemKept s u) : MemKept s (writeG d v lat u) :=
  h.of_local (writeG_local ..)

theorem MemKept.writeV {d : Reg} {v : V512} {lat : Nat} (h : MemKept s u) : MemKept s (writeV d v lat u) :=
  h.of_local (writeV_local ..)

theorem MemKept.writeM {d : Reg8} {v : W64} {lat : Nat} (h : MemKept s u) : MemKept s (writeM d v lat u) :=
  h.of_local (writeM_local ..)

theorem MemKept.reserve {vec : Bool} {d : Reg} {id : Nat} (h : MemKept s u) : MemKept s (reserve vec d id u).2 := by
  unfold Machine.reserve
  split
  · exact .pair h.modMyTile
  · exact h

theorem MemKept.src1 {a : Reg} (h : MemKept s u) : MemKept s (src1 a u).2 := h.of_local (src1_local ..)

theorem MemKept.src2 {a b : Reg} (h : MemKept s u) : MemKept s (src2 a b u).2.2 := h.of_local (src2_local ..)

theorem MemKept.src3 {a b d : Reg} (h : MemKept s u) : MemKept s (src3 a b d u).2.2.2 := h.of_local (src3_local ..)

/-! ### Held translations, records and replies -/

theorem MemKept.setHeld {g : HartId} {x : Option Held} (h : MemKept s u) : MemKept s (u.setHeld g x) := h.modRegsOf

theorem MemKept.holdWalk {g : HartId} {va : W64} {wr : Bool} (h : MemKept s u) : MemKept s (u.holdWalk g va wr) :=
  h.draw.setHeld

theorem MemKept.queueRecord {g : HartId} {word : Nat} (h : MemKept s u) : MemKept s (u.queueRecord g word) := h.modDie

theorem MemKept.endHeld {g : HartId} {c : Cause} (h : MemKept s u) : MemKept s (endHeld u g c) := by
  unfold Machine.endHeld
  split
  · split
    · exact h.setHeld.takeTrap
    · exact h.setHeld.endJob
    · exact h.setHeld
  · exact h

theorem MemKept.walkHeld {g : HartId} (h : MemKept s u) : MemKept s (walkHeld u g) := by
  unfold Machine.walkHeld
  split
  · refine .ite h.endHeld ?_
    split
    · exact (h.walk ‹_›).modTile.setHeld
    · exact h.setHeld.queueRecord
  · exact h

theorem MemKept.writeRecord {d : DieNo} (h : MemKept s u) : MemKept s (writeRecord u d) := by
  unfold Machine.writeRecord
  dsimp only
  split
  · exact h
  · refine .ite h (.ite (.irq ?_) (.ite (.irq ?_) ?_))
    all_goals
      split
      · exact h.setDie.draw.setHeld
      · exact h.setDie.draw

theorem MemKept.failHeld {g : HartId} (h : MemKept s u) : MemKept s (failHeld u g) := by
  unfold Machine.failHeld
  split
  · exact h.endHeld
  · exact h

theorem MemKept.setReplyList {area : Nat} {l : List Nat} (h : MemKept s u) : MemKept s (u.setReplyList area l) :=
  .foldl h fun h => .ite h h.soundWrite

theorem MemKept.appendReply {d : DieNo} {area w : Nat} (h : MemKept s u) : MemKept s (u.appendReply d area w) :=
  .ite h h.setReplyList

theorem MemKept.lateReply {d : DieNo} {seq : Nat} {fatal : Bool} (h : MemKept s u) :
    MemKept s (lateReply u d seq fatal) := by
  unfold Machine.lateReply
  split
  · exact h
  · exact .ite h h.appendReply

theorem MemKept.retryWalk {g : HartId} {x : Held} (h : MemKept s u) : MemKept s (u.retryWalk g x) := h.draw.setHeld

theorem MemKept.replyWrite {d : DieNo} {v : W64} (h : MemKept s u) : MemKept s (replyWrite u d v) := by
  unfold Machine.replyWrite
  refine .ite h ?_
  split
  · exact h.lateReply
  · refine .ite h.failHeld ?_
    split
    · exact h.retryWalk
    · exact h

theorem MemKept.fqHeadSet {d : DieNo} {v : W64} (h : MemKept s u) : MemKept s (fqHeadSet u d v) := .ite h.setDie h

theorem MemKept.changeLeaf {ctx va slot leaf : Nat} (h : MemKept s u) : MemKept s (changeLeaf u ctx va slot leaf) :=
  .revokeHandles (.tlbInvalidate (.ite h.soundWrite h))

/-! ### Issue and scalar instructions -/

theorem MemKept.raiseFlags {f : FFlags} (h : MemKept s u) : MemKept s (raiseFlags f u) := h.modMe

theorem MemKept.issue {i : Instr} {n : Need} {k : State → State} (h : MemKept s u) (hk : MemKept s (k u)) :
    GoesOn s (issue i n k u) := by
  obtain q | q | ⟨r, q⟩ | ⟨-, -, -, q⟩ := issue_cases i n k u <;> rw [q]
  · exact .next h
  · exact .next h.raise
  · exact .next h.raise
  · exact .next hk

theorem MemKept.issueLocal {i : Instr} {n : Need} {k : State → State} (h : MemKept s u) (hk : MemKept s (k u)) :
    GoesOn s (issueLocal i n k u) :=
  h.issue (.ite hk h)

theorem MemKept.aluOp2 {i : Instr} {lat : Nat} {f : W64 → W64 → W64} {d a b : Reg} (h : MemKept s u) :
    GoesOn s (aluOp2 i lat f d a b u) := h.issue h.src2.writeG.complete

theorem MemKept.aluOp1 {i : Instr} {f : W64 → W64} {d a : Reg} (h : MemKept s u) : GoesOn s (aluOp1 i f d a u) :=
  h.issue h.src1.writeG.complete

theorem MemKept.aluOp3 {i : Instr} {f : W64 → W64 → W64 → W64} {d a b : Reg} (h : MemKept s u) :
    GoesOn s (aluOp3 i f d a b u) := h.issue h.src3.writeG.complete

theorem MemKept.holdDivider (h : MemKept s u) : MemKept s (holdDivider u) := .ite h.modMyTile h

theorem MemKept.divOp {i : Instr} {f : W64 → W64 → W64} {d a b : Reg} (h : MemKept s u) :
    GoesOn s (divOp i f d a b u) := h.issue (.ite h h.holdDivider.src2.writeG.complete)

theorem MemKept.enterLoop {k : Fin 2} {count : W64} {body : Fin 8192} {v : State} (h : MemKept s u)
    (hv : MemKept s v) :
    MemKept s (enterLoop k count body u v) :=
  .ite (.ite h.raise hv.modRegs.completeTo) hv.modRegs.completeOn

theorem MemKept.execBrk (h : MemKept s u) : GoesOn s (execBrk u) := by
  unfold Machine.execBrk
  refine h.issue ?_
  split
  · exact .ite h.modStrand.queueRecord h.complete
  · exact h.complete

theorem MemKept.execRetire (h : MemKept s u) : GoesOn s (execRetire u) := by
  unfold Machine.execRetire
  refine h.issue ?_
  split
  · exact .ite h.raise (.ite h h.modMe)
  · exact h.modRegs.endJob
  · exact h.modDie

theorem MemKept.onBank {read : Bool} {a n : Nat} {k : State → State} (h : MemKept s u)
    (hk : ∀ v, MemKept s v → MemKept s (k v)) : MemKept s (onBank read a n u k) := by
  unfold Machine.onBank
  split
  · exact .of_snd h.askBank ‹_›
  · split
    · exact h.raise
    · exact hk _ (MemKept.of_snd h.askBank ‹_›).busyFor

/-! ### Pages that firmware moves and places -/

theorem MemKept.beginMove {m : Move} (h : MemKept s u) : MemKept s (beginMove u m) := h.changeLeaf.same

theorem MemKept.copyLine {old new : Nat} (h : MemKept s u) : MemKept s (copyLine u old new) := .ite h.same h.lineWrite

theorem MemKept.endMove {m : Move} (h : MemKept s u) : MemKept s (endMove u m) :=
  .emit (.changeLeaf (.foldl h fun h => h.copyLine))

theorem MemKept.revocationSlot (h : MemKept s u) : MemKept s (revocationSlot u) :=
  .foldl (.same (.foldl h.same fun h => h.emit)) fun h => h.endMove

theorem MemKept.claimPages {c : View} {d : DieNo} (h : MemKept s u) : MemKept s (claimPages u c d) := by
  unfold Machine.claimPages
  dsimp only
  refine .foldl h.draw fun h => ?_
  split
  · exact h.draw.beginMove
  · exact h.draw

theorem MemKept.collapse {ctx va slot e : Nat} (h : MemKept s u) : MemKept s (collapse u ctx va slot e) :=
  h.changeLeaf.same

theorem MemKept.placePage {n : Nat} {c : View} {va : Nat} (h : MemKept s u) : MemKept s (placePage n u c va) := by
  unfold Machine.placePage
  split
  · exact .ite h (.ite (.ite h.soundWrite h) (.ite (.soundWrite (.foldl h fun h => h.lineWrite)) h))
  · exact h

theorem MemKept.resolveOwn {g : HartId} {x : Held} (h : MemKept s u) : MemKept s (resolveOwn u g x) := by
  unfold Machine.resolveOwn
  refine .ite h (.ite h.retryWalk ?_)
  split
  · split
    · exact .ite h.collapse h
    · exact h
  · exact .ite h.draw h.draw.placePage
  · exact h

theorem MemKept.firmwareSlot {d : DieNo} (h : MemKept s u) : MemKept s (firmwareSlot d u) := by
  unfold Machine.firmwareSlot
  refine .foldl h fun h => ?_
  split
  · exact .ite h h.resolveOwn
  · exact h

/-! ### The switch -/

theorem MemKept.takeFlit {t : TileNo} {a : Src} (h : MemKept s u) : MemKept s (takeFlit u t a) := by
  unfold Machine.takeFlit
  split
  · split
    · exact h.modTile
    · exact h.modTile.modCache
    · exact h
  · split
    · exact h.modTile
    · exact .ite h.modTile h

theorem MemKept.putOut {t : TileNo} {o : OutPort} {f : Flit} (h : MemKept s u) : MemKept s (putOut u t o f) := by
  unfold Machine.putOut
  split
  · split
    · exact h.modTile
    · exact h.modCache
    · exact h
  · exact h.modTile
  · exact h.modTile

theorem MemKept.modSw {t : TileNo} {f : Switch → Switch} (h : MemKept s u) : MemKept s (u.modSw t f) := h.modTile

theorem MemKept.stopSwitch {t : TileNo} {cause word offset flow partner : Nat} {outs : List (Fin 8)}
    (h : MemKept s u) : MemKept s (stopSwitch u t cause word offset flow partner outs) := by
  unfold Machine.stopSwitch
  dsimp only
  split
  · exact h.modSw.modStrand
  · exact h.modSw.failGroup

theorem MemKept.swWait {t : TileNo} (h : MemKept s u) : MemKept s (swWait u t) := h.modSw

theorem MemKept.swGoto {t : TileNo} {spc : Nat} (h : MemKept s u) : MemKept s (swGoto u t spc) := h.modSw

theorem MemKept.swNext {t : TileNo} {outs : List (Fin 8)} (h : MemKept s u) : MemKept s (swNext u t outs) :=
  .ite h.modSw.stopSwitch h.swGoto

theorem MemKept.swRepDone {t : TileNo} {count : Nat} {stopNow : Bool} {outs : List (Fin 8)} (h : MemKept s u) :
    MemKept s (swRepDone u t count stopNow outs) := .ite h.modSw.swNext h.modSw

theorem MemKept.swRoute {estop : Bool} {count : Nat} {extra : List Src} {r : Route}
    {form : State → TileNo → List (Src × Flit) → XResult} (h : MemKept s u) :
    MemKept s (swRoute estop count extra r form u) := by
  unfold Machine.swRoute
  refine .ite h.swNext (.ite h.stopSwitch (.ite h.swWait ?_))
  split
  · exact h.swWait
  · exact h.modSw.stopSwitch
  · exact .swRepDone (.modSw (.foldl (.foldl h fun h => h.takeFlit) fun h => h.putOut))

theorem MemKept.claimDecode {count : Nat} {a : Src} {r : Route} {t : TileNo} (h : MemKept s u) :
    MemKept s (claimDecode count a r t u) := by
  unfold Machine.claimDecode
  split
  · exact h
  · refine .ite h.failGroup (.ite h ?_)
    split
    · exact h.setTile
    · exact h.setTile

theorem MemKept.swSkip {count : Nat} {a : Src} {r : Route} (h : MemKept s u) : MemKept s (swSkip count a r u) := by
  unfold Machine.swSkip
  dsimp only
  split
  · exact h.swWait
  · exact .ite h.takeFlit.modSw.swNext h.takeFlit.modSw

theorem MemKept.sinjCycle {t : TileNo} {k : Fin 8} (h : MemKept s u) : MemKept s (sinjCycle t u k) := by
  unfold Machine.sinjCycle
  dsimp only
  split
  · exact h
  · refine .ite (.ite h.modTile ?_) (.ite h.modTile ?_)
    · split
      · exact h.setTile
      · exact h.failGroup
      · exact h.setTile.modTile.modStrand
    · split
      · exact h.setTile
      · exact h.failGroup
      · exact .modStrand (.modSw (.foldl h.setTile fun h => h.putOut))

theorem MemKept.sinjSlot {t : TileNo} (h : MemKept s u) : MemKept s (sinjSlot t u) := .foldl h fun h => h.sinjCycle

theorem MemKept.creditReturn {c : DieNo} {i : Fin 48} (h : MemKept s u) : MemKept s (creditReturn c i u) := h.modCache

/-! ### Reading and admitting launch records -/

theorem MemKept.ctxBytes {c : View} {va : W64} {n : Nat} (h : MemKept s u) : FoundKept s (ctxBytes u c va n) :=
  List.foldlRecOn (motive := FoundKept s) _ _ (.some h) fun _ ho _ _ =>
    ho.bind fun h => h.ctxWalk.bind fun h => .map fun _ => h

theorem MemKept.readImage {c : View} {va : W64} (h : MemKept s u) : FoundKept s (readImage u c va) := by
  unfold Machine.readImage
  split
  · exact .none
  · exact (h.ctxBytes ‹_›).ctxBytes

theorem MemKept.refuseRecord {q : Fin 64} {b : List Byte} {code : Nat} (h : MemKept s u) :
    MemKept s (refuseRecord u q b code) := .ite h.modQueue.statusLost h.modQueue.statusWrite

theorem MemKept.acceptRecord {q : Fin 64} {b : List Byte} {slot : Option Nat} {rs : List (Nat × Nat)}
    (h : MemKept s u) : MemKept s (acceptRecord u q b slot rs) := h.draw.modHub.statusWrite

theorem MemKept.execLaunchRecordRead (h : MemKept s u) : GoesOn s (execLaunchRecordRead u) := by
  unfold Machine.execLaunchRecordRead
  dsimp only
  refine .next (.ite h ?_)
  split
  · exact h
  · split
    · exact h.modQueue.modHub.refuseRecord
    · exact h.modQueue.modHub.acceptRecord

theorem MemKept.execLaunchActivate (h : MemKept s u) : GoesOn s (execLaunchActivate u) := by
  unfold Machine.execLaunchActivate
  refine .next ?_
  split
  · exact h
  · exact h.modLaunch.modHub

theorem MemKept.inTurn {held : Bool} {off : Nat} {w : W64} {f : State → State} (h : MemKept s u)
    (hf : MemKept s (f u)) : MemKept s (inTurn held off w f u) :=
  h.accepts (.ite h.defer hf)

theorem MemKept.bellError {q : Fin 64} (h : MemKept s u) : MemKept s (bellError u q) := h.modQueue.irq

theorem MemKept.doorbellWrite {q : Fin 64} {v : W64} (h : MemKept s u) : MemKept s (doorbellWrite u q v) :=
  .ite h.bellError h.modQueue

theorem MemKept.qcfgSet {q : Fin 64} {v : W64} (h : MemKept s u) : MemKept s (qcfgSet u q v) := by
  unfold Machine.qcfgSet
  exact h.modQueue

theorem MemKept.dctlSet {v : W64} (h : MemKept s u) : MemKept s (dctlSet u v) := .ite h.modHub h

/-! ### The work on admitted launches -/

theorem MemKept.relocAdd {lnum o w g : Nat} (h : MemKept s u) : MemKept s (relocAdd u lnum o w g) := by
  unfold Machine.relocAdd
  exact h.modHub

theorem MemKept.takePlace {l : Launch} {frozen : Bool} {p : Nat × Nat} (h : MemKept s u) :
    MemKept s (takePlace l frozen u p) := .modLaunch (.relocAdd (.foldl h fun h => h.modTile))

theorem MemKept.askFreeze {who : Option Nat} {l : Launch} {p : Placed} (h : MemKept s u) :
    MemKept s (askFreeze u who l p) := .modLaunch (.foldl h fun h => h.stopTiles)

theorem MemKept.makeRoom {pool : Option (Fin 32)} {choice : Nat} {l : Launch} {ranks : List Nat} (h : MemKept s u) :
    MemKept s (makeRoom u pool choice l ranks) := .ite h (.foldl h fun h => h.askFreeze)

theorem MemKept.wakeCluster {d : DieNo} {k : Fin 4} (h : MemKept s u) : MemKept s (wakeCluster u d k) := h.modDie

theorem MemKept.wakeClusters {w g : Nat} {places : List (Nat × Nat)} (h : MemKept s u) :
    MemKept s (wakeClusters u w g places) := .foldl h fun h => .foldl h fun h => .ite h h.wakeCluster

theorem MemKept.tryPlace {pool : Option (Fin 32)} {choice : Nat} {c : Launch × List Nat × Bool} (h : MemKept s u) :
    OptKept s (tryPlace u pool choice c) :=
  .map fun _ => (MemKept.foldl h fun h => h.takePlace).modHub

theorem MemKept.openRoom {pool : Option (Fin 32)} {choice : Nat} {c : Launch × List Nat × Bool} (h : MemKept s u) :
    MemKept s (openRoom u pool choice c) := by
  unfold Machine.openRoom
  split
  · exact h.wakeClusters
  · exact h.makeRoom

theorem MemKept.placeFirst {pool : Option (Fin 32)} {choice : Nat} (h : MemKept s u) :
    MemKept s (placeFirst u pool choice) := by
  unfold Machine.placeFirst
  split
  · exact h
  · exact h.tryPlace.getD h.openRoom

theorem MemKept.joinSeams {l : Launch} {rank o : Nat} (h : MemKept s u) : MemKept s (joinSeams u l rank o) := by
  unfold Machine.joinSeams
  refine .foldl h fun h => .foldl h fun h => .ite h ?_
  split
  · exact h
  · exact h.modCache

theorem MemKept.imageFor {l : Launch} (h : MemKept s u) : MemKept s (imageFor u l).2 := by
  unfold Machine.imageFor
  split
  · exact h
  · split
    · exact h.readImage ‹_›
    · exact h

theorem MemKept.startClocks {l : Launch} {ps : List Placed} (h : MemKept s u) : MemKept s (startClocks u l ps) :=
  .modLaunch (.foldl h fun h => .foldl h fun h => h.modTile)

theorem MemKept.claimFor {l : Launch} {ps : List Placed} (h : MemKept s u) : MemKept s (claimFor u l ps) :=
  .ite h (.modLaunch (.foldl h fun h => h.claimPages))

theorem MemKept.startGroup {lnum rank : Nat} (h : MemKept s u) : MemKept s (startGroup u lnum rank) := by
  unfold Machine.startGroup
  split
  · exact h
  · refine .ite h ?_
    extract_lets claimed
    have hc : MemKept s claimed := h.claimFor
    refine .ite hc ?_
    split
    have hi := MemKept.of_snd hc.imageFor ‹_›
    extract_lets loaded joined
    have hl : MemKept s loaded := .foldl hi fun h => .foldl h fun h => h.modTile
    exact .startClocks (.ite (.foldl hl fun h => h.joinSeams) hl)

theorem MemKept.finishGroup {lnum rank : Nat} (h : MemKept s u) : MemKept s (finishGroup u lnum rank) := by
  unfold Machine.finishGroup
  split
  · exact h
  · refine .ite h.settle ?_
    split
    · exact h
    · refine .ite h ?_
      extract_lets fault freed unmapped left
      have hl : MemKept s left := .modLaunch (.ite h.releaseRegion.unmapWindows h.releaseRegion)
      split
      · exact .ite hl.endLaunch hl
      · exact hl

theorem MemKept.cancelLaunch {v : W64} (h : MemKept s u) : MemKept s (cancelLaunch u v) := h.modLaunch

theorem MemKept.judgeCancels (h : MemKept s u) : MemKept s (judgeCancels u) := .foldl h fun h => h.stopLaunch

theorem MemKept.closeCycle (h : MemKept s u) : MemKept s (closeCycle u) := h.judgeOld.judgeCancels

theorem MemKept.onPlaced {lnum rank : Nat} {f : Launch → Placed → State} (h : MemKept s u)
    (hf : ∀ l p, MemKept s (f l p)) : MemKept s (onPlaced u lnum rank f) := by
  unfold Machine.onPlaced
  split
  · exact h
  · split
    · exact h
    · exact hf _ _

theorem MemKept.execOverrunDeadline {lnum rank : Nat} (h : MemKept s u) :
    GoesOn s (execOverrunDeadline lnum rank u) := by
  unfold Machine.execOverrunDeadline
  refine .next (h.onPlaced fun _ _ => .ite h ?_)
  split
  · exact h.failGroup
  · exact h.stopLaunch

theorem MemKept.modSlot {i : Fin 32} {f : Slot → Slot} (h : MemKept s u) : MemKept s (u.modSlot i f) := h.modHub

theorem MemKept.loadSlot {i : Fin 32} (h : MemKept s u) : MemKept s (loadSlot u i) := .ite h.modSlot h

theorem MemKept.slotLoaded {i : Fin 32} {n : Nat} {b : List Byte} {ps : List (Nat × Nat)} (h : MemKept s u) :
    MemKept s (slotLoaded i n b ps u) := .push (.same (.modSlot (.foldl h fun h => .foldl h fun h => h.modTile)))

theorem MemKept.slotFailed {i : Fin 32} (h : MemKept s u) : MemKept s (slotFailed i u) := h.modSlot

theorem MemKept.slotChoice {x : Slot} {n : Nat} {bs : List Byte} {ps : List (Nat × Nat)} {v : State} (h : MemKept s u)
    (q : slotChoice u x n = some (bs, ps, v)) : MemKept s v := by
  unfold Machine.slotChoice at q
  split at q
  · cases q
  · split at q
    · split at q
      · simp only [Option.map_eq_some_iff, Prod.mk.injEq] at q
        obtain ⟨_, _, _, _, rfl⟩ := q
        exact h.readImage ‹_›
      · cases q
    · cases q

theorem MemKept.execSlotLoadEnd {i : Fin 32} (h : MemKept s u) : GoesOn s (execSlotLoadEnd i u) := by
  unfold Machine.execSlotLoadEnd
  dsimp only
  refine .next (.ite h ?_)
  split
  · exact (h.draw.slotChoice ‹_›).slotLoaded.irq
  · exact h.draw.slotFailed.irq

theorem MemKept.unloadSlot {i : Fin 32} (h : MemKept s u) : MemKept s (unloadSlot u i) :=
  .ite h (.ite h.modSlot h.modSlot.same.push)

/-! ### Freezing and restoring -/

theorem MemKept.hbmFill {pa : Nat} {bs : List Byte} (h : MemKept s u) : MemKept s (u.hbmFill pa bs) :=
  .foldl h fun h => h.lineWrite

theorem MemKept.saveRows {m : Mem} {covered : Nat → Bool} {rows at_ : Nat} (h : MemKept s u) :
    MemKept s (u.saveRows m covered rows at_) := .foldl h fun h => .ite h.lineWrite h

theorem MemKept.saveGroup {l : Launch} {p : Placed} {f : Nat} {lanes : List (Nat × List Flit)} (h : MemKept s u) :
    MemKept s (saveGroup u l p f lanes) := by
  unfold Machine.saveGroup
  exact .modHub (.modLaunch (.releaseRegion (.foldl h.frameMark.hbmFill fun h => h.draw.hbmFill.saveRows.saveRows)))

theorem MemKept.saveAll {l : Launch} {ps : List Placed} {fs : List Nat} (h : MemKept s u) :
    MemKept s (saveAll u l ps fs) := .foldl h fun h => h.saveGroup

theorem MemKept.runOn {l : Launch} {ps : List Placed} (h : MemKept s u) : MemKept s (runOn u l ps) :=
  .modLaunch (.foldl h fun h => .foldl h fun h => h.modTile.rerequest)

theorem MemKept.execFreeze {lnum rank : Nat} (h : MemKept s u) : GoesOn s (execFreeze lnum rank u) := by
  refine .next (h.onPlaced fun _ _ => ?_)
  have unmapped {l : Launch} {qs : List Placed} : MemKept s (qs.foldl (Machine.unmapGroup l) u) :=
    .foldl h fun h => h.unmapGroup
  exact .ite h (.ite h.runOn (.ite (.ite unmapped h) (.ite h (.ite h.stopLaunch h.saveAll))))

theorem MemKept.refillLanes {lanes : List (Nat × List Flit)} {t : TileNo} {i : Nat} (h : MemKept s u) :
    MemKept s (refillLanes u lanes t i) := by
  unfold Machine.refillLanes
  refine .foldl h fun h => ?_
  split
  · exact h.modCache
  · exact h

theorem MemKept.resolveTile {t : TileNo} {list : List Nat} (h : MemKept s u) : MemKept s (resolveTile u t list).1 :=
  MemKept.foldl_on (p := Prod.fst) h fun h => .ite h.setHeld.failHeld h.setHeld

theorem MemKept.restoreOne {img : List Byte} {l : Launch} {p : Placed} (h : MemKept s u) :
    MemKept s (restoreOne img l u p) := by
  unfold Machine.restoreOne
  split
  · exact h
  · extract_lets frame ts restored joined filled
    have hr : MemKept s restored := .foldl h fun h => h.modTile
    exact .frameMark (.modLaunch (.foldl (.ite hr.joinSeams hr) fun h => h.refillLanes))

theorem MemKept.resolveGroups {l : Launch} {ps : List Placed} (h : MemKept s u) : MemKept s (resolveGroups u l ps) :=
  .foldl (MemKept.setReplyList (MemKept.foldl_on (p := Prod.fst) h fun h => h.resolveTile)) fun h => h.rerequest

theorem MemKept.execRestore {lnum rank : Nat} (h : MemKept s u) : GoesOn s (execRestore lnum rank u) := by
  refine .next ?_
  split
  · exact h
  · refine .ite h ?_
    split
    · exact h.stopLaunch
    · split
      have hi := MemKept.of_snd h.imageFor ‹_›
      extract_lets restored
      have hr : MemKept s restored := .resolveGroups (.foldl hi fun h => h.restoreOne)
      split
      · exact .ite hr hr.startClocks
      · exact hr

/-! ### Targets of an access -/

theorem MemKept.wakeTile {t : TileNo} {who : Waiter} (h : MemKept s u) : MemKept s (wakeTile u t who) :=
  .ite h h.wakeCluster.modDie

theorem MemKept.voidWaiter {who : Waiter} (h : MemKept s u) : MemKept s (voidWaiter u who) := by
  unfold Machine.voidWaiter
  dsimp only
  split
  · exact h.modLaunch
  · exact h

theorem MemKept.reachTile {t : TileNo} {who : Waiter} {act : Tile → Res × Tile} (h : MemKept s u) :
    MemKept s (reachTile u t who act).2 := by
  unfold Machine.reachTile
  refine .ite_snd h.voidWaiter (.ite_snd h.wakeTile (.ite_snd h ?_))
  split
  · exact h.setTile.failGroup
  · exact .ite_snd h.setTile h.setTile
  · exact h.setTile

theorem MemKept.accessTile {t : TileNo} {off n : Nat} {wr : Option (List Byte)} {who : Waiter} (h : MemKept s u) :
    MemKept s (accessTile u t off n wr who).2 := .ite_snd h.reachTile h

theorem MemKept.deliverTo {w : TileNo} {off : Nat} {bs : List Byte} {b : Fin 32} {lnum : Nat} {who : Waiter}
    (h : MemKept s u) : MemKept s (deliverTo u w off bs b lnum who).2 := h.reachTile

theorem MemKept.targetRead {pa n : Nat} {who : Waiter} (h : MemKept s u) : MemKept s (targetRead u pa n who).2 := by
  unfold Machine.targetRead
  refine .ite_snd h (.ite_snd (.ite_snd h h) ?_)
  split
  · exact h.accessTile
  · exact h

theorem MemKept.targetWrite {pa : Nat} {bs : List Byte} {ctx : Nat} {who : Waiter} (h : MemKept s u) :
    MemKept s (targetWrite u pa bs ctx who).2 := by
  unfold Machine.targetWrite
  refine .ite_snd (.ite_snd h h.hbmWrite) (.ite_snd (.ite_snd h.hostStore h) ?_)
  split
  · exact h.accessTile
  · exact h

/-! ### Global accesses -/

theorem MemKept.translate {va : W64} {wr : Bool} (h : MemKept s u) : MemKept s (translate va wr u).2 := by
  unfold Machine.translate
  split
  · exact h
  · split
    · exact .pair h.modMyTile
    · exact h.holdWalk

theorem MemKept.popAll {l : List (Fin 8 × Bool)} (h : MemKept s u) : MemKept s (popAll u l).2 :=
  MemKept.foldl_on (p := fun q : Bool × List (Fin 8 × List QEntry) × State => q.2.2) h fun h => h.popWords

theorem MemKept.startAccess {nd : Need} {rx acq rel : Bool} {va : W64} {pa n : Nat} {kind : AccKind}
    {dst : Option (Bool × Reg)} {hd : Option (Fin 8)} (h : MemKept s u) :
    MemKept s (startAccess nd rx acq rel va pa n kind dst hd u) := by
  unfold Machine.startAccess
  refine .ite h (.ite (.modRegs (.popAll ?_)) (.complete (.modRegs (.popAll ?_))))
  all_goals
    split
    · exact h.draw.reserve
    · exact h.draw

theorem MemKept.globalAccess {nd : Need} {rx acq rel wr : Bool} {va : W64} {n : Nat} {kind : AccKind}
    {dst : Option (Bool × Reg)} (h : MemKept s u) : MemKept s (globalAccess nd rx acq rel wr va n kind dst u) := by
  unfold Machine.globalAccess
  refine .ite h.raise (.ite h.raise (.ite h.raise ?_))
  split
  · exact (MemKept.of_snd h.translate ‹_›).startAccess
  · exact MemKept.of_snd h.translate ‹_›

theorem MemKept.execLd {z : Size} {rx acq : Bool} {d a : Reg} {imm : BitVec 11} (h : MemKept s u) :
    GoesOn s (execLd z rx acq d a imm u) := by
  unfold Machine.execLd
  exact h.issue (.ite h h.globalAccess)

theorem MemKept.execSt {z : Size} {rx rel : Bool} {d a : Reg} {imm : BitVec 11} (h : MemKept s u) :
    GoesOn s (execSt z rx rel d a imm u) := by
  unfold Machine.execSt
  exact h.issue (.ite h h.globalAccess)

theorem MemKept.handleAccess {nd : Need} {rx acq rel wr : Bool} {k : Reg8} {off : W64} {n : Nat} {kind : AccKind}
    {dst : Option (Bool × Reg)} (h : MemKept s u) : MemKept s (handleAccess nd rx acq rel wr k off n kind dst u) :=
  .ite h.raise (.ite h.raise (.ite h.raise (.ite h.raise h.startAccess)))

theorem MemKept.execLdh {z : Size} {rx acq : Bool} {d : Reg} {g : Reg8} {i : Reg} {imm : BitVec 7} (h : MemKept s u) :
    GoesOn s (execLdh z rx acq d g i imm u) := by
  unfold Machine.execLdh
  exact h.issue (.ite h h.handleAccess)

theorem MemKept.execSth {z : Size} {rx rel : Bool} {d : Reg} {g : Reg8} {i : Reg} {imm : BitVec 7} (h : MemKept s u) :
    GoesOn s (execSth z rx rel d g i imm u) := by
  unfold Machine.execSth
  exact h.issue (.ite h h.handleAccess)

theorem MemKept.execVldG {rx acq : Bool} {d a : Reg} {imm : BitVec 11} (h : MemKept s u) :
    GoesOn s (execVldG rx acq d a imm u) := by
  unfold Machine.execVldG
  exact h.issue (.ite h h.globalAccess)

theorem MemKept.execVstG {rx rel : Bool} {d a : Reg} {imm : BitVec 11} (h : MemKept s u) :
    GoesOn s (execVstG rx rel d a imm u) := by
  unfold Machine.execVstG
  exact h.issue (.ite h h.globalAccess)

theorem MemKept.execXlat {k : Reg8} {a b : Reg} (h : MemKept s u) : GoesOn s (execXlat k a b u) := by
  unfold Machine.execXlat
  refine h.issue (.ite h.raise (.ite h ?_))
  split
  · exact h.holdWalk
  · exact .ite h.raise h.src2.modMyTile.modRegs.complete

theorem MemKept.deliverDest {g : HartId} {d : Dest} {bs : List Byte} (h : MemKept s u) :
    MemKept s (deliverDest g d bs u) := by
  unfold Machine.deliverDest
  split
  · exact h
  · exact h.modRegsOf
  · split
    · exact h.modStrand
    · exact h
  · exact h.modTile

/-! ### Atomic operations -/

theorem MemKept.amoOperands {op : AmoOp} {d a b : Reg} (h : MemKept s u) :
    MemKept s (amoOperands op d a b u).2.2.2 := by
  unfold Machine.amoOperands
  split
  · exact h.src3
  · exact h.src2

theorem MemKept.amoLocal {op : AmoOp} {n : Nat} {d : Reg} {ea : W64} {v c rm : Nat} {pops : State → State}
    (h : MemKept s u) (hp : ∀ v, MemKept s v → MemKept s (pops v)) :
    MemKept s (amoLocal op n d ea v c rm pops u) := by
  unfold Machine.amoLocal
  refine .ite h.raise ?_
  split
  · exact .of_snd h.askBankAmo ‹_›
  · exact h.raise
  · exact (hp _ (.of_snd h.askBankAmo ‹_›)).draw.reserve.modRegs.complete

theorem MemKept.putResult {g : HartId} {d : Dest} {v : W64} {c : Nat} (h : MemKept s u) :
    MemKept s (putResult g d v c u) := by
  unfold Machine.putResult
  split
  · exact h.modRegsOf.modRegsOf
  · exact h.modRegsOf.modTile
  · exact h.modRegsOf

theorem MemKept.amoEnds {g : HartId} {j : LocalAmo} (h : MemKept s u) : MemKept s (amoEnds g j u) := by
  unfold Machine.amoEnds
  dsimp only
  split
  · refine .onHart ?_ fun _ h => h.raiseAt
    split
    · exact h.modRegsOf.modTile
    · exact h.modRegsOf
  · refine .putResult ?_
    split
    · exact h.modRegsOf.modTile
    · exact h.modRegsOf

theorem MemKept.amoCycle {g : HartId} (h : MemKept s u) : MemKept s (amoCycle g u) := by
  unfold Machine.amoCycle
  split
  · exact h
  · refine .ite h (.ite h.amoEnds ?_)
    split
    · exact h.setTile
    · exact h.setTile.modRegsOf

theorem MemKept.amoSlot {t : TileNo} (h : MemKept s u) : MemKept s (amoSlot t u) := .foldl h fun h => h.amoCycle

theorem MemKept.amoGlobal {nd : Need} {op : AmoOp} {ord : Order} {n : Nat} {d : Reg} {ea : W64} {v c rm : Nat}
    (h : MemKept s u) : MemKept s (amoGlobal nd op ord n d ea v c rm u) := by
  unfold Machine.amoGlobal
  refine .ite h.raise (.ite h.raise ?_)
  split
  · exact MemKept.of_snd h.translate ‹_›
  · exact .ite (MemKept.of_snd h.translate ‹_›).raise (MemKept.of_snd h.translate ‹_›).startAccess

/-! ### Streams and barriers -/

theorem MemKept.setBind {k : Fin 8} {b : Option Bind} (h : MemKept s u) : MemKept s (setBind k b u) := h.modMyTile

theorem MemKept.barStore {t : TileNo} {off : Nat} {v : W64} {again : Instr} (h : MemKept s u) :
    MemKept s (barStore t off v again u) := .ite h.accessTile.defer h.accessTile

/-! ### The power arbiter -/

theorem MemKept.setPevent {b : Nat} (h : MemKept s u) : MemKept s (setPevent u b) := h.same.irq

theorem MemKept.floorFreeze {d : DieNo} (h : MemKept s u) : MemKept s (floorFreeze u d) := by
  unfold Machine.floorFreeze
  refine .ite h ?_
  split
  · exact h.askFreeze
  · exact h

theorem MemKept.recomputeDie {n : Nat} {d : DieNo} (h : MemKept s u) : MemKept s (recomputeDie n u d) :=
  .ite h.setDie.setPevent.floorFreeze h.setDie

theorem MemKept.updateDraw {n : Nat} (h : MemKept s u) : MemKept s (updateDraw n u) :=
  .ite h (.ite h.same.setPevent h.same)

theorem MemKept.recompute (h : MemKept s u) : MemKept s (recompute u) :=
  .same (.foldl h.draw.updateDraw fun h => h.recomputeDie)

theorem MemKept.budgetWrite {v : Nat} (h : MemKept s u) : MemKept s (budgetWrite u v).2 :=
  .ite_snd h (.ite_snd h h.same.recompute)

/-! ### The root of trust -/

theorem MemKept.extendMr {i : Fin 8} {digest : List Byte} (h : MemKept s u) : MemKept s (extendMr i digest u) :=
  h.same

theorem MemKept.attest {nonce : List Byte} {hpa : Nat} (h : MemKept s u) : MemKept s (attest u nonce hpa) :=
  .ite h (.ite h.draw.hostStore.emit h.defer)

theorem MemKept.verifyImages {n : Nat} {l : List Nat} (h : MemKept s u) : MemKept s (verifyImages n l u) := by
  induction l generalizing u with
  | nil => exact h.same
  | cons i r ih => exact .ite (ih h.extendMr) h.same

theorem MemKept.bootStage2 {n : Nat} (h : MemKept s u) : MemKept s (bootStage2 n u) := h.verifyImages

theorem MemKept.bootStage1 {n : Nat} {digest : List Byte} (h : MemKept s u) : MemKept s (bootStage1 n digest u) :=
  h.extendMr.same.bootStage2

theorem MemKept.newKey {n : Nat} (h : MemKept s u) : MemKept s (newKey n u) := h.same

theorem MemKept.panelReset (h : MemKept s u) : MemKept s (panelReset u) :=
  .ite h (.bootStage2 (.foldl h.draw.same fun h => h.newKey))

/-! ### Clusters -/

theorem MemKept.modCluster {d : DieNo} {k : Fin 4} {f : Cluster → Cluster} (h : MemKept s u) :
    MemKept s (u.modCluster d k f) := h.modDie

theorem MemKept.refuse {d : DieNo} {k : Fin 4} {e : Nat} (h : MemKept s u) : MemKept s (refuse u d k e) :=
  h.modCluster

theorem MemKept.quiesceBegin {d : DieNo} {k : Fin 4} (h : MemKept s u) : MemKept s (quiesceBegin u d k) := h.stopTiles

theorem MemKept.commandBegin {d : DieNo} {k : Fin 4} {cmd : Nat} (h : MemKept s u) :
    MemKept s (commandBegin u d k cmd) := .ite h.modCluster.quiesceBegin h.modCluster

theorem MemKept.commandWrite {d : DieNo} {k : Fin 4} {cmd : Nat} {aw : Bool} (h : MemKept s u) :
    MemKept s (commandWrite u d k cmd aw) := by
  unfold Machine.commandWrite
  split
  · exact h.refuse
  · exact h.modCluster.commandBegin

theorem MemKept.autowakeWrite {d : DieNo} {k : Fin 4} {aw : Bool} (h : MemKept s u) :
    MemKept s (autowakeWrite u d k aw) := h.modCluster

theorem MemKept.clctlWrite {d : DieNo} {k : Fin 4} {v : Nat} (h : MemKept s u) : MemKept s (clctlWrite u d k v) :=
  .ite h.autowakeWrite (.ite h.commandWrite h.refuse)

theorem MemKept.quiesceEnd {d : DieNo} {k : Fin 4} (h : MemKept s u) : MemKept s (quiesceEnd u d k) :=
  .foldl h fun h => .ite h.modTile h

theorem MemKept.saveCluster {d : DieNo} {k : Fin 4} (h : MemKept s u) : MemKept s (saveCluster u d k) :=
  .foldl h fun h => .setTile (.ite (.hbmFill (.draw (.ite h.failGroup h))) (.draw (.ite h.failGroup h)))

theorem MemKept.resumeCluster {d : DieNo} {k : Fin 4} (h : MemKept s u) : MemKept s (resumeCluster u d k) :=
  .foldl (.foldl h fun h => .ite h (.foldl h fun h => h.modTile.rerequest)) fun h => h.modLaunch

theorem MemKept.scanFault {d : DieNo} {k : Fin 4} (h : MemKept s u) : MemKept s (scanFault u d k) :=
  .foldl h fun h => h.stopLaunch

theorem MemKept.restoreTiles {d : DieNo} {k : Fin 4} (h : MemKept s u) : OptKept s (restoreTiles u d k) :=
  .ite (.some h) (.ite .none (.some (.foldl h.draw fun h => h.modTile)))

theorem MemKept.haltTakes {d : DieNo} (h : MemKept s u) : MemKept s (haltTakes u d) := .ite h h.setDie.modHub

theorem MemKept.commandDone {d : DieNo} {k : Fin 4} {st : Nat} (h : MemKept s u) : MemKept s (commandDone u d k st) :=
  h.modCluster.haltTakes

theorem MemKept.commandFailed {d : DieNo} {k : Fin 4} {st e : Nat} (h : MemKept s u) :
    MemKept s (commandFailed u d k st e) := h.modCluster.haltTakes.setPevent

theorem MemKept.commandEnd {d : DieNo} {k : Fin 4} (h : MemKept s u) : MemKept s (commandEnd u d k) := by
  unfold Machine.commandEnd
  split
  · exact .ite h.quiesceEnd.commandDone h
  · exact h.saveCluster.commandDone
  · exact h.commandDone
  · exact h.commandDone
  · split
    · exact (h.restoreTiles ‹_›).resumeCluster.commandDone
    · exact h.scanFault.commandFailed
  · exact h

theorem MemKept.execClusterCommandEnd {d : DieNo} {k : Fin 4} (h : MemKept s u) :
    GoesOn s (execClusterCommandEnd d k u) := .next h.commandEnd

theorem MemKept.execRailTimeout {d : DieNo} {k : Fin 4} (h : MemKept s u) : GoesOn s (execRailTimeout d k u) :=
  .next (.ite h.commandFailed h)

theorem MemKept.clsaveSet {d : DieNo} {k : Fin 4} {v : Nat} (h : MemKept s u) : MemKept s (clsaveSet u d k v) :=
  .ite h.refuse h.modCluster

theorem MemKept.serveWake {d : DieNo} {k : Fin 4} (h : MemKept s u) : MemKept s (serveWake u d k) :=
  .ite h (.ite h.modCluster.commandBegin (.ite h (.ite h.modCluster (.ite h.modCluster.commandBegin
    (.ite h.modCluster.modCluster.commandBegin h.modCluster)))))

/-! ### The tile engine -/

theorem MemKept.modColl {id : Nat} {f : Collective → Collective} (h : MemKept s u) : MemKept s (u.modColl id f) :=
  h.modHub

theorem MemKept.purgeColls (h : MemKept s u) : MemKept s u.purgeColls := h.modHub

theorem MemKept.leaveColl {t : TileNo} {x : Shared} (h : MemKept s u) : MemKept s (leaveColl t u x) := by
  unfold Machine.leaveColl
  split
  · exact h.modColl.purgeColls
  · exact h

theorem MemKept.modEng {t : TileNo} {f : Engine → Engine} (h : MemKept s u) : MemKept s (u.modEng t f) := h.modTile

theorem MemKept.engProgress {t : TileNo} {n : Nat} (h : MemKept s u) : MemKept s (engProgress t n u) := h.modEng

theorem MemKept.engNext {t : TileNo} {n : Nat} (h : MemKept s u) : MemKept s (engNext t n u) := h.modEng

theorem MemKept.ownDelivery {t : TileNo} {off : Nat} {bs : List Byte} {b : Option (Fin 32)} (h : MemKept s u) :
    MemKept s (ownDelivery t off bs b u).2 := by
  unfold Machine.ownDelivery
  split
  · exact h.setTile
  · exact h.setTile

theorem EngKept.engTranslate {t : TileNo} {va : W64} {wr : Bool} (h : MemKept s u) :
    EngKept s (engTranslate t va wr u) := by
  unfold Machine.engTranslate
  refine .ite (.fail h) ?_
  dsimp only
  split
  · exact .ok h.setTile
  · exact .hold h.holdWalk.modEng

theorem EngKept.engAnswer {va : W64} {r : Res × State} (h : MemKept s r.2) : EngKept s (engAnswer va r) := by
  unfold Machine.engAnswer
  split
  · exact .ok h
  · exact .hold h
  · exact .fail h
  · exact .fail h

theorem EngKept.localPiece {t : TileNo} {a : W64} {k : Nat} (h : MemKept s u) : EngKept s (localPiece t a k u) := by
  unfold Machine.localPiece
  refine .ite (.fail h) ?_
  split
  · exact .later h.setTile
  · exact .ite (.fail h) (.ok h.setTile)

theorem EngKept.readPiece {t : TileNo} {loc : Bool} {a : W64} {k : Nat} (h : MemKept s u) :
    EngKept s (readPiece t loc a k u) :=
  .ite (.ite (.localPiece h) (.later h)) (.bind (.engTranslate h) fun h => .ite (.engAnswer h.targetRead) (.later h))

theorem EngKept.readPieces {t : TileNo} {src loc : Bool} {fuel : Nat} {a : W64} {n : Nat} (h : MemKept s u) :
    EngKept s (readPieces t src loc fuel a n u) := by
  induction fuel generalizing a n u with
  | zero => exact .ok h
  | succ fuel ih =>
    refine .ite (.ok h) (.bind ?_ fun h => ih h.modEng)
    split
    · exact .ok h
    · exact .readPiece h

theorem EngKept.readBytes {t : TileNo} {src loc : Bool} {a : W64} {n : Nat} (h : MemKept s u) :
    EngKept s (readBytes t src loc a n u) :=
  .bind (.readPieces h) fun h => .ok h.modEng

theorem EngKept.engRead {t : TileNo} {loc : Bool} {a : W64} {n : Nat} (h : MemKept s u) :
    EngKept s (engRead t loc a n u) :=
  .readBytes h

theorem EngKept.engDeliver {t : TileNo} {c : Nat} {loc : Bool} {a : W64} {bs : List Byte} {units : Nat}
    (h : MemKept s u) : EngKept s (engDeliver t c loc a bs units u) := by
  refine .ite (.later h) (.ite (.fail h) (.bind (.ite (.ok h) (.engTranslate h)) fun h => .ite ?_
    (.ok h.draw.modEng)))
  split
  · exact .ok (MemKept.of_snd h.draw.ownDelivery ‹_›).engProgress
  · exact .ok (MemKept.of_snd h.draw.ownDelivery ‹_›).modEng

theorem EngKept.retakeHandle {t : TileNo} {i : Fin 8} (h : MemKept s u) : EngKept s (retakeHandle t i u) := by
  refine .bind (.engTranslate h) fun h => ?_
  split
  · exact .ite (.fail h) (.ok h.modEng)
  · exact .hold h

/-- What the engine leaves after its instruction has run or waits. -/
theorem EngSettled.engSettle {t : TileNo} {x : Eng State} (hx : EngSettled s x) : MemKept s (engSettle t x) := by
  unfold Machine.engSettle
  split
  · exact hx.1
  · exact MemKept.modEng hx
  · exact hx
  · exact MemKept.endJob hx

theorem MemKept.engDone {t : TileNo} {d : Reg} {v : Nat} (h : MemKept s u) : MemKept s (engDone t d v u) :=
  .ite h h.modEng.writeG.complete

theorem MemKept.readDesc {t : TileNo} {a : W64} (h : MemKept s u) : MemKept s (readDesc t a u) := by
  unfold Machine.readDesc
  split
  · exact h.setTile
  · exact h.endJob
  · exact h.setTile.modEng

theorem MemKept.engRun {i : Instr} {d a : Reg} {ok : Desc → Bool} {body : TileNo → Desc → State → Eng State}
    (h : MemKept s u) (hb : ∀ t x v, MemKept s v → EngSettled s (body t x v)) :
    GoesOn s (engRun i d a ok body u) := by
  refine h.issue ?_
  split
  · refine .ite h (.ite h.endJob (.ite h.endJob ?_))
    split
    · exact h.readDesc
    · exact .ite h.endJob (hb _ _ _ h.modEng).engSettle
  · exact h

theorem EngSettled.copyPiece {t : TileNo} {c : Nat} {p : Piece} (h : MemKept s u) :
    EngSettled s (copyPiece t c p u) :=
  .bind (.readBytes h) fun h => .bind (.engDeliver h) fun h => .ok h.engNext

theorem EngSettled.moveBody {rd : Reg} {t : TileNo} {d : Desc} (h : MemKept s u) : EngSettled s (moveBody rd t d u) :=
  .ite (.ite (.later h) (.ok (.engDone (.ite h.modTile h)))) (.copyPiece h)

theorem EngSettled.strideBody {rd : Reg} {t : TileNo} {d : Desc} (h : MemKept s u) :
    EngSettled s (strideBody rd t d u) :=
  .ite (.ok h.engDone) (.copyPiece h)

theorem EngSettled.gatherBody {gather : Bool} {rd : Reg} {t : TileNo} {d : Desc} (h : MemKept s u) :
    EngSettled s (gatherBody gather rd t d u) :=
  .ite (.ok h.engDone) (.bind (.engRead h) fun h => .ite (.fail h) (.ite (.fail h) (.copyPiece h)))

theorem EngSettled.streamBody {rd : Reg} {t : TileNo} {d : Desc} (h : MemKept s u) :
    EngSettled s (streamBody rd t d u) :=
  .ite (.ok h.engDone) (.ite (.hold h) (.bind (.readBytes h) fun h => .ok h.modTile.engNext.engProgress))

theorem EngSettled.drainBody {rd : Reg} {t : TileNo} {d : Desc} (h : MemKept s u) :
    EngSettled s (drainBody rd t d u) := by
  refine .ite (.ok h.engDone) ?_
  split
  · exact .hold h
  · exact .bind (.engDeliver h) fun h => .ok h.modTile.engNext.modEng

theorem MemKept.readAhead {i : Instr} {t : TileNo} (h : MemKept s u) : MemKept s (readAhead i t u).2 := by
  unfold Machine.readAhead
  dsimp only
  split
  · split
    · exact h.draw
    · refine .ite_snd h.draw ?_
      split
      · exact .pair (EngKept.of_ok (.readPiece h.draw) ‹_›).modEng
      · exact h.draw
  · exact h.draw

theorem MemKept.execEngineJobEnd {t : TileNo} (h : MemKept s u) : GoesOn s (execEngineJobEnd t u) := by
  unfold Machine.execEngineJobEnd
  refine .next ?_
  split
  · refine .ite h ?_
    split
    · exact h.setTile
    · exact .ite h.setTile.leaveColl.failGroup h.setTile.leaveColl
  · exact h

theorem MemKept.execKick {t : TileNo} {w : W64} (h : MemKept s u) : GoesOn s (execKick t w u) := by
  unfold Machine.execKick
  dsimp only
  exact .next (.ite h.accessTile.defer h.accessTile)

/-! ### Vector forms -/

theorem MemKept.vsrc2 {a b : Reg} (h : MemKept s u) : MemKept s (vsrc2 a b u).2.2 := h.popV.popV

theorem MemKept.vsrc3 {a b d : Reg} (h : MemKept s u) : MemKept s (vsrc3 a b d u).2.2.2 := h.popV.popV.popV

theorem MemKept.illegalNow {i : Instr} (h : MemKept s u) : GoesOn s (illegalNow i u) := h.issue h.raise

theorem MemKept.issueTyped {i : Instr} {t : VType} {cls : Elem → Bool} {nd : Need} {k : Elem → State → State}
    (h : MemKept s u) (hk : ∀ e, MemKept s (k e u)) : GoesOn s (issueTyped i t cls nd k u) := by
  unfold Machine.issueTyped
  split
  · exact .ite (h.issue (hk _)) h.illegalNow
  · exact h.illegalNow

theorem MemKept.finishV {d : Reg} {lat : Nat} {r : V512 × FFlags} (h : MemKept s u) : MemKept s (finishV d lat r u) :=
  h.writeV.raiseFlags.complete

theorem MemKept.lanewise2 {i : Instr} {t : VType} {cls : Elem → Bool} {lat : Nat}
    {f : Elem → RMode → Nat → Nat → Nat × FFlags} {d a b : Reg} {x : Reg8} (h : MemKept s u) :
    GoesOn s (lanewise2 i t cls lat f d a b x u) := h.issueTyped fun _ => h.vsrc2.finishV

theorem MemKept.lanewise1 {i : Instr} {t : VType} {cls : Elem → Bool} {lat : Nat}
    {f : Elem → RMode → Nat → Nat × FFlags} {d a : Reg} {x : Reg8} (h : MemKept s u) :
    GoesOn s (lanewise1 i t cls lat f d a x u) := h.issueTyped fun _ => h.popV.finishV

theorem MemKept.lanewise3 {i : Instr} {t : VType} {cls : Elem → Bool} {lat : Nat}
    {f : Elem → RMode → Nat → Nat → Nat → Nat × FFlags} {d a b : Reg} {x : Reg8} (h : MemKept s u) :
    GoesOn s (lanewise3 i t cls lat f d a b x u) := h.issueTyped fun _ => h.vsrc3.finishV

/-! ### Collectives -/

theorem EngSettled.joinColl {t : TileNo} {g : Group} {d : Desc} {desc : W64} {xs : List Nat} (h : MemKept s u) :
    EngSettled s (joinColl t g d desc xs u) := by
  unfold Machine.joinColl
  dsimp only
  split
  · exact .hold h.draw.modHub.modEng
  · exact .ite (.hold h.draw) (.ite (.fail h.draw.modColl.purgeColls)
      (.ite (.fail h.draw.modColl.purgeColls) (.hold h.draw.modColl.modEng)))

theorem EngSettled.writePiece {t : TileNo} {c : Nat} {dst : W64} {out : List Byte} (h : MemKept s u) :
    EngSettled s (writePiece t c dst out u) :=
  .bind (.engDeliver h) fun h => .ok h.engNext

theorem EngSettled.redBody {rd : Reg} {t : TileNo} {d : Desc} (h : MemKept s u) :
    EngSettled s (redBody rd t d u) := by
  unfold Machine.redBody
  dsimp only
  split
  · exact .hold h
  · split
    · split
      · exact .hold h
      · refine .ite (.fail h.modColl.purgeColls) ?_
        split
        · exact .hold h
        · exact .ok h.modColl.modEng
    · exact .ite (.ite (.later h) (.ok h.modColl.purgeColls.engDone)) (.writePiece h)
    · split
      · exact .fail h.modColl.purgeColls
      · exact .ite (.fail h) (.bind (.engRead h) fun h => .joinColl h)

/-! ### Compares and masks -/

theorem MemKept.compareOp {c : VCmp} {i : Instr} {t : VType} {cls : Elem → Bool} {md : Reg8} {a b : Reg} {x : Reg8}
    (h : MemKept s u) : GoesOn s (compareOp c i t cls md a b x u) := h.issueTyped fun _ => h.vsrc2.writeM.complete

theorem MemKept.maskOp2 {i : Instr} {f : W64 → W64 → W64} {d a b : Reg8} (h : MemKept s u) :
    GoesOn s (maskOp2 i f d a b u) := h.issue h.writeM.complete

theorem MemKept.maskToG {i : Instr} {f : W64 → W64} {d : Reg} {a : Reg8} (h : MemKept s u) :
    GoesOn s (maskToG i f d a u) := h.issue h.writeG.complete

/-! ### The Rhizoid chain and debug -/

theorem MemKept.chainStore {v : Nat} {t : TileNo} {y4 : ChainItem} (h : MemKept s u) :
    MemKept s (chainStore v u t y4) := by
  unfold Machine.chainStore
  split
  · exact h.modDie
  · exact h.modDie
  · exact h.modTile

theorem MemKept.dbgWrite {d : DieNo} {v : Nat} (h : MemKept s u) : MemKept s (dbgWrite u d v).2 :=
  .ite_snd h h.modDie.haltTakes

theorem MemKept.dbgResume {d : DieNo} {v : Nat} (h : MemKept s u) : MemKept s (dbgResume u d v).2 :=
  .ite_snd h (h.modStrand.onHart fun _ h => h.complete)

theorem MemKept.jtagStep {y2 : JtagOp} (h : MemKept s u) : MemKept s (jtagStep u y2) := by
  unfold Machine.jtagStep
  split
  · exact h
  · exact .ite h (.ite h.failGroup (.ite h.emit h.draw.emit))
  · exact .ite h.chainStore h

/-! ### Ethernet ports -/

theorem MemKept.modPeer {p : Nat} {k : Fin 16} {f : Peer → Peer} (h : MemKept s u) : MemKept s (u.modPeer p k f) :=
  h.modPort

theorem MemKept.modRing {p : Nat} {r : Fin 16} {f : Ring → Ring} (h : MemKept s u) : MemKept s (u.modRing p r f) :=
  h.modPort

theorem MemKept.sendFrame {p : Nat} {k : Fin 16} {f : Frame} (h : MemKept s u) : MemKept s (u.sendFrame p k f) :=
  .ite h.emit h

theorem MemKept.endEntry {p r e status : Nat} (h : MemKept s u) : MemKept s (u.endEntry p r e status) :=
  .ite h h.soundWrite.modRing

theorem MemKept.sendOne {p : Nat} {k : Fin 16} (h : MemKept s u) : MemKept s (sendOne u p k) := by
  unfold Machine.sendOne
  dsimp only
  split
  · exact h
  · refine .ite h.modPeer.modRing.endEntry ?_
    split
    · exact h.modPeer.modRing.endEntry
    · exact h.modPeer.modRing.modPeer.sendFrame

theorem MemKept.sendAll {n p : Nat} {k : Fin 16} (h : MemKept s u) : MemKept s (sendAll n u p k) := by
  induction n generalizing u with
  | zero => exact h
  | succ n ih => exact .ite h (ih h.sendOne)

theorem MemKept.flush {p : Nat} {k : Fin 16} (h : MemKept s u) : MemKept s (flush u p k) := h.sendAll

theorem MemKept.postRing {p : Nat} {r : Fin 16} {v : Nat} (h : MemKept s u) : MemKept s (postRing u p r v) :=
  .ite h (.ite h.modRing h.modRing.modPeer.flush)

theorem MemKept.performFrame {p : Nat} {k : Fin 16} {f : Frame} (h : MemKept s u) :
    MemKept s (performFrame u p k f).2 := by
  unfold Machine.performFrame
  dsimp only
  split
  · split
    · exact h
    · exact .ite_snd h h.hbmWrite
  · exact .ite_snd h.counterAdd h
  · split
    · exact h
    · exact .ite_snd h h.pushRecord
  · exact h

theorem MemKept.answerFrame {p : Nat} {k : Fin 16} {f : Frame} {st : Nat} (h : MemKept s u) :
    MemKept s (answerFrame u p k f st) := h.modPeer.sendFrame

theorem MemKept.takeFrame {p : Nat} {k : Fin 16} {f : Frame} (h : MemKept s u) : MemKept s (takeFrame u p k f) := by
  unfold Machine.takeFrame
  dsimp only
  split
  · exact h.performFrame.answerFrame
  · exact .ite h.performFrame.answerFrame h.performFrame.modPeer

theorem MemKept.closeFrame {p : Nat} {k : Fin 16} (h : MemKept s u) : MemKept s (closeFrame u p k) := by
  unfold Machine.closeFrame
  split
  · exact .ite h.answerFrame h
  · exact h

theorem MemKept.dataFrame {p : Nat} {k : Fin 16} {f : Frame} (h : MemKept s u) : MemKept s (dataFrame u p k f) :=
  .ite h (.ite h (.ite h.takeFrame (.ite h.takeFrame (.ite h.modPort.sendFrame h))))

theorem MemKept.execDataFrameReceive {p : Fin 32} {peer : Fin 16} {bytes : List Byte} (h : MemKept s u) :
    GoesOn s (execDataFrameReceive p peer bytes u) := by
  unfold Machine.execDataFrameReceive
  refine .next ?_
  split
  · exact h.dataFrame
  · exact h

theorem MemKept.ackFrame {p : Nat} {k : Fin 16} {seq status : Nat} (h : MemKept s u) :
    MemKept s (ackFrame u p k seq status) := by
  unfold Machine.ackFrame
  dsimp only
  split
  · exact h
  · exact .ite h h.modPeer.endEntry.flush

theorem MemKept.execAckFrameReceive {p : Fin 32} {peer : Fin 16} {bytes padding : List Byte} (h : MemKept s u) :
    GoesOn s (execAckFrameReceive p peer bytes padding u) := by
  unfold Machine.execAckFrameReceive
  refine .next ?_
  split
  · exact .ite h.ackFrame h
  · exact h

theorem MemKept.dropPair {p : Nat} {k : Fin 16} (h : MemKept s u) : MemKept s (dropPair u p k) :=
  .flush (.modPeer (.foldl h.modPeer fun h => h.endEntry))

theorem MemKept.retransmit {p : Nat} {k : Fin 16} (h : MemKept s u) : MemKept s (retransmit u p k) :=
  .ite h (.ite h.dropPair.irq (.foldl h.modPeer fun h => h.sendFrame))

theorem MemKept.peerWrite {p : Nat} {k : Fin 16} {v : Nat} (h : MemKept s u) : MemKept s (peerWrite u p k v) := by
  unfold Machine.peerWrite
  exact .modPeer (.ite h.dropPair h)

/-! ### Seams -/

theorem MemKept.laneArrive {c : DieNo} {i : Fin 48} (h : MemKept s u) : MemKept s (laneArrive c i u) := by
  unfold Machine.laneArrive
  split
  · exact .ite h h.modTile.modCache
  · exact h

theorem MemKept.selWrite {c : DieNo} {q : Fin 4} {l : Fin 12} {v : Nat} (h : MemKept s u) :
    MemKept s (selWrite u c q l v).2 :=
  .ite_snd h (.pair h.modCache)

theorem MemKept.failOn {ts : List TileNo} {eval : W64} (h : MemKept s u) : MemKept s (failOn u ts eval) := h.failAll

theorem MemKept.failLane {c : DieNo} {q : Fin 4} {l : Fin 12} (h : MemKept s u) : MemKept s (failLane u c q l) :=
  h.failOn.irq

/-! ### Watch triggers -/

theorem MemKept.modWatch {c : DieNo} {n : Fin 16} {f : Watch → Watch} (h : MemKept s u) :
    MemKept s (modWatch u c n f) := h.modCache

theorem MemKept.watchControl {c : DieNo} {n : Fin 16} {v : Nat} (h : MemKept s u) :
    MemKept s (watchControl u c n v).2 :=
  .ite_snd (.pair h.modWatch) (.pair h.modWatch)

theorem MemKept.firingPush {c : DieNo} {n : Fin 16} (h : MemKept s u) : MemKept s (firingPush c n u) := by
  unfold Machine.firingPush
  exact h.pushRecord.modWatch

theorem MemKept.pendingPush {c : DieNo} {n : Fin 16} (h : MemKept s u) : MemKept s (pendingPush c n u) := by
  unfold Machine.pendingPush
  exact .ite h.firingPush.modWatch h

theorem MemKept.duePush {c : DieNo} {n : Fin 16} (h : MemKept s u) : MemKept s (duePush c n u) := by
  unfold Machine.duePush
  exact .ite h (.ite h.modWatch.modWatch (.ite h.modWatch.firingPush h.modWatch.modWatch))

/-! ### Control blocks -/

theorem MemKept.clusterWrite {d : DieNo} {k : Fin 4} {r v : Nat} (h : MemKept s u) :
    OptKept s (clusterWrite u d k r v) := by
  unfold Machine.clusterWrite
  split
  · exact .some h.clctlWrite
  · exact .some h.modCluster
  · exact .some h.clsaveSet
  · exact .some (.ite h.wakeCluster h)
  · exact .none

theorem OptKept.onSuccess {r : Bool × State} (h : MemKept s r.2) : OptKept s (onSuccess r) :=
  .ite (.some h) .none

theorem MemKept.dieWrite {p : Party} {d : DieNo} {off v : Nat} (h : MemKept s u) : OptKept s (dieWrite p u d off v) :=
  .ite (.some h.fqHeadSet) (.ite (.some h.replyWrite) (.ite h.clusterWrite (.ite (.onSuccess h.dbgWrite) (.ite
    (.onSuccess h.dbgResume) (.ite (.some h.modDie) (.ite (.some h.modDie) .none))))))

theorem MemKept.dieBytesWrite {p : Party} {d : DieNo} {off : Nat} {bs : List Byte} (h : MemKept s u) :
    OptKept s (dieBytesWrite p u d off bs) :=
  .ite (.some h.modDie) (.ite .none (.ite (.some h.modDie) (.ite (.some h.modDie) .none)))

theorem MemKept.watchWrite {c : DieNo} {n : Fin 16} {r v : Nat} (h : MemKept s u) :
    OptKept s (watchWrite u c n r v) := by
  unfold Machine.watchWrite
  split
  · exact .some h.modWatch
  · exact .some h.modWatch
  · exact .some h.modWatch
  · exact .some h.modWatch
  · exact .onSuccess h.watchControl
  · exact .some h.modWatch
  · exact .none

theorem MemKept.cacheWrite {p : Party} {c : DieNo} {off v : Nat} (h : MemKept s u) :
    OptKept s (cacheWrite p u c off v) := .ite h.watchWrite (.ite (.onSuccess h.selWrite) .none)

theorem MemKept.cacheBytesWrite {c : DieNo} {off : Nat} {bs : List Byte} (h : MemKept s u) :
    OptKept s (cacheBytesWrite u c off bs) := .ite (.some h.modCache) .none

theorem MemKept.whenOff {q : Fin 64} {f : LQueue → LQueue} (h : MemKept s u) : OptKept s (whenOff u q f) :=
  .some h.modQueue

theorem MemKept.queueWrite {q : Fin 64} {r v : Nat} (h : MemKept s u) : OptKept s (queueWrite u q r v) := by
  unfold Machine.queueWrite
  split
  · exact h.whenOff
  · exact h.whenOff
  · exact .some h.doorbellWrite
  · exact .some h.qcfgSet
  · exact h.whenOff
  · exact h.whenOff
  · exact .some h.modQueue
  · exact .none

theorem MemKept.slotWrite {i : Fin 32} {r v : Nat} (h : MemKept s u) : OptKept s (slotWrite u i r v) := by
  unfold Machine.slotWrite
  split
  · exact .some h.modSlot
  · exact .some h.modSlot
  · exact .some (.ite h.loadSlot (.ite h.unloadSlot h))
  · exact .none

theorem MemKept.dispatchWrite {p : Party} {off v : Nat} (h : MemKept s u) : OptKept s (dispatchWrite p u off v) :=
  .ite (.some h.dctlSet) (.ite (.some h.cancelLaunch) (.ite (.some h.modHub) (.ite h.queueWrite
    (.ite h.slotWrite (.ite (.some h.counterWrite) (.ite (.some h.counterAdd) (.ite (.some h.modHub) (.ite
    (.some h.modHub) .none))))))))

theorem MemKept.sendCauses {p : Nat → Bool} (h : MemKept s u) : MemKept s (sendCauses u p) :=
  .foldl h.modHub fun h => h.sendIrq

theorem MemKept.irqenSet {v : Nat} (h : MemKept s u) : MemKept s (irqenSet u v) := h.modHub.sendCauses

theorem MemKept.irqClear {v : Nat} (h : MemKept s u) : MemKept s (irqClear u v) := h.modHub

theorem MemKept.linkWrite {r v : Nat} (h : MemKept s u) : OptKept s (linkWrite u r v) := by
  unfold Machine.linkWrite
  split
  · exact .some h.modHub
  · exact .some h.irqenSet
  · exact .some h.irqClear
  · exact .none

theorem MemKept.powerWrite {r v : Nat} (h : MemKept s u) : OptKept s (powerWrite u r v) :=
  .ite (.onSuccess h.budgetWrite) (.ite (.some h.same) (.ite (.some (.ite h.panelReset h)) .none))

theorem MemKept.modWindow {p : Nat} {n : Fin 16} {f : Window → Window} (h : MemKept s u) :
    MemKept s (modWindow u p n f) := h.modPort

theorem MemKept.entryWrite {p b : Nat} {n : Fin 16} {r v : Nat} (h : MemKept s u) :
    OptKept s (entryWrite u p b n r v) := by
  unfold Machine.entryWrite
  split
  · exact .some h.peerWrite
  · exact .some h.modPeer
  · exact .some h.modWindow
  · exact .some h.modWindow
  · exact .some h.modWindow
  · exact .some h.modWindow
  · exact .some h.modRing
  · exact .some h.modRing
  · exact .some h.modRing
  · exact .none

theorem MemKept.portWrite {p r v : Nat} (h : MemKept s u) : OptKept s (portWrite u p r v) :=
  .ite (.some h.modPort) (.ite (.some h.modPort) (.ite h.entryWrite .none))

theorem MemKept.hubWrite {p : Party} {g : Fin 4} {off v : Nat} (h : MemKept s u) : OptKept s (hubWrite p u g off v) :=
  .ite h.portWrite (.ite .none (.ite h.dispatchWrite (.ite h.linkWrite (.ite h.powerWrite .none))))

theorem MemKept.mailboxWrite {bs : List Byte} (h : MemKept s u) : OptKept s (mailboxWrite u bs) :=
  .ite (.some h.attest) .none

theorem MemKept.regWrite {p : Party} {b : Block} {v : Nat} (h : MemKept s u) : OptKept s (regWrite p u b v) := by
  unfold Machine.regWrite
  split
  · exact h.dieWrite
  · exact h.cacheWrite
  · exact h.hubWrite

theorem MemKept.blockWrite {p : Party} {pa : Nat} {bs : List Byte} (h : MemKept s u) :
    OptKept s (blockWrite p u pa bs) := by
  refine .bind fun _ _ => .or ?_ (.ite h.regWrite .none)
  split
  · exact h.dieBytesWrite
  · exact h.cacheBytesWrite
  · exact .ite h.mailboxWrite .none

theorem MemKept.blockFailed {pa : Nat} {bs : List Byte} (h : MemKept s u) : MemKept s (blockFailed u pa bs) := by
  unfold Machine.blockFailed
  split
  · exact .ite h.watchControl h
  · exact h

theorem MemKept.blockStore {p : Party} {pa : Nat} {bs : List Byte} (h : MemKept s u) :
    MemKept s (blockStore p u pa bs).2 := by
  unfold Machine.blockStore
  split
  · exact h.blockWrite ‹_›
  · exact h.blockFailed

theorem MemKept.controllerWrite {r v : Nat} (h : MemKept s u) : MemKept s (controllerWrite u r v) :=
  .ite h.same (.ite (.ite h h.modHub) h)

theorem MemKept.execErrorCounterClear {c : CounterSite} (h : MemKept s u) : GoesOn s (execErrorCounterClear c u) := by
  unfold Machine.execErrorCounterClear
  refine .next ?_
  split
  · exact h.modDie
  · exact h.modDie
  · exact h.modCache
  · exact h.modCache

/-! ### Performing and completing accesses -/

theorem MemKept.readFor {g : HartId} {a : Access} (h : MemKept s u) : MemKept s (readFor g u a).2 := by
  unfold Machine.readFor
  refine .ite_snd ?_ h.targetRead
  split
  · exact h
  · exact h

theorem MemKept.writeFor {g : HartId} {a : Access} {bs : List Byte} (h : MemKept s u) :
    MemKept s (writeFor g u a bs).2 := .ite_snd h.blockStore h.targetWrite

theorem MemKept.amoFor {g : HartId} {a : Access} {f : Nat → Option Nat} (h : MemKept s u) :
    MemKept s (amoFor g u a f).2 := by
  unfold Machine.amoFor
  split
  · exact h.reachTile
  · split
    · have h := MemKept.of_snd h.readFor ‹_›
      split
      · exact h
      · split
        · exact .of_snd h.writeFor ‹_›
        · exact h.writeFor
    · exact h.readFor

theorem MemKept.storeFor {g : HartId} {a : Access} {bs : List Byte} (h : MemKept s u) :
    MemKept s (storeFor g u a bs).2 := by
  unfold Machine.storeFor
  split
  · refine .ite_snd h.ownDelivery ?_
    split
    · exact h.deliverTo
    · exact h.writeFor
  · exact h.writeFor

theorem MemKept.performAt {g : HartId} {a : Access} (h : MemKept s u) : MemKept s (performAt g u a).2 := by
  unfold Machine.performAt
  split
  · exact h.readFor
  · exact h.storeFor
  · exact h.amoFor

theorem MemKept.dropAccess {g : HartId} {a : Access} (h : MemKept s u) : MemKept s (dropAccess g a u) := h.modRegsOf

theorem MemKept.endDelivery {g : HartId} {a : Access} (h : MemKept s u) : MemKept s (endDelivery g a u) :=
  .ite h (.engProgress (.ite h.modTile h))

theorem MemKept.finishAccess {g : HartId} {a : Access} {bs : List Byte} (h : MemKept s u) :
    MemKept s (finishAccess g a bs u) :=
  .ite (h.dropAccess.deliverDest.endDelivery.onHart fun _ h => h.complete) h.dropAccess.deliverDest.endDelivery

theorem MemKept.failAccess {g : HartId} {a : Access} {c : Cause} (h : MemKept s u) :
    MemKept s (failAccess g a c u) := by
  unfold Machine.failAccess
  refine .onHart ?_ fun _ h => h.raiseAt
  split
  · exact h.dropAccess.giveBack.modTile
  · exact h.dropAccess.giveBack

theorem MemKept.setAccess {g : HartId} {id : Nat} {f : Access → Access} (h : MemKept s u) :
    MemKept s (setAccess g id f u) := h.modRegsOf

theorem MemKept.stepAccess {g : HartId} {a : Access} (h : MemKept s u) : MemKept s (stepAccess g a u) := by
  unfold Machine.stepAccess
  split
  · exact .ite h.finishAccess h
  · split
    all_goals have h := MemKept.of_snd h.performAt ‹_›
    · exact h.setAccess
    · exact h.failAccess
    · exact h.failAccess
    · split
      · exact .ite h.setAccess h.finishAccess
      · exact h.setAccess

theorem MemKept.execAccessComplete {g : HartId} {choice : Nat} (h : MemKept s u) :
    GoesOn s (execAccessComplete g choice u) := by
  unfold Machine.execAccessComplete
  dsimp only
  split
  · exact .next h
  · exact .next h.stepAccess

/-! ### CSRs -/

theorem MemKept.csrOp {i : Instr} {d : Reg} {a : Option Reg} {c : Fin 4096} {f : W64 → W64 → W64} (h : MemKept s u) :
    GoesOn s (csrOp i d a c f u) := by
  unfold Machine.csrOp
  refine .ite (h.issue (.ite h ?_)) h.illegalNow
  split
  · exact h.writeG.complete
  · exact h.src1.modMe.writeG.complete

/-! ### The host -/

theorem MemKept.hostReadAt {pa n : Nat} {again : Instr} (h : MemKept s u) :
    MemKept s (hostReadAt u pa n again).2 := by
  unfold Machine.hostReadAt
  refine .ite_snd h (.ite_snd ?_ ?_)
  · split
    · exact h
    · exact h
  · split
    · exact h.accessTile
    · exact h

theorem MemKept.hostWriteAt {m : Fin 4} {pa : Nat} {bs : List Byte} {again : Instr} (h : MemKept s u) :
    MemKept s (hostWriteAt m u pa bs again).2 := by
  unfold Machine.hostWriteAt
  refine .ite_snd (.ite_snd h.clearFailed h.clearFailed.hbmWrite) (.ite_snd h.blockStore ?_)
  split
  · exact h.accessTile
  · exact h

theorem MemKept.execHostRead {m : Fin 4} {pa n : Nat} (h : MemKept s u) : GoesOn s (execHostRead m pa n u) := by
  unfold Machine.execHostRead
  refine .next (.ite h.defer (.ite h.emit ?_))
  split
  · exact (MemKept.of_snd h.hostReadAt ‹_›).emit
  · exact (MemKept.of_snd h.hostReadAt ‹_›).defer
  · exact (MemKept.of_snd h.hostReadAt ‹_›).emit

theorem MemKept.hostAck {m pa n : Nat} (h : MemKept s u) : MemKept s (hostAck u m pa n) := .ite h.emit h.modHub

theorem MemKept.execHostWrite {m : Fin 4} {pa : Nat} {data : List Byte} (h : MemKept s u) :
    GoesOn s (execHostWrite m pa data u) := by
  unfold Machine.execHostWrite
  refine .next (.ite h.defer (.ite h.emit ?_))
  split
  · exact (MemKept.of_snd h.hostWriteAt ‹_›).hostAck
  · exact (MemKept.of_snd h.hostWriteAt ‹_›).defer
  · exact (MemKept.of_snd h.hostWriteAt ‹_›).emit

theorem MemKept.releaseWrites (h : MemKept s u) : MemKept s (releaseWrites u) := .foldl h.modHub fun h => h.emit

theorem MemKept.failLine {pa : Nat} (h : MemKept s u) : MemKept s (failLine u pa) := h.same.failAll.irq.emit

theorem MemKept.execUncorrectableError {site : ErrSite} (h : MemKept s u) :
    GoesOn s (execUncorrectableError site u) := by
  unfold Machine.execUncorrectableError
  refine .next ?_
  split
  · exact h.modTile
  · exact h.modTile
  · exact .ite h.failLine h
  · refine .ite h.modRegsOf ?_
    split
    · exact h
    · exact h.modTile

/-! ### Permutes, reductions and special functions -/

theorem MemKept.permOp {i : Instr} {t : VType} {d a b : Reg} {x : Reg8}
    {y : Nat → (Nat → Nat) → (Nat → Nat) → Nat → Nat} (h : MemKept s u) : GoesOn s (permOp i t d a b x y u) :=
  h.issueTyped fun _ => h.vsrc2.writeV.complete

theorem MemKept.slideOp {i : Instr} {t : VType} {d a b : Reg} {x : Reg8} {y : Nat → Nat → (Nat → Nat) → Nat → Nat}
    (h : MemKept s u) : GoesOn s (slideOp i t d a b x y u) := h.issueTyped fun _ => h.popV.popG.writeV.complete

theorem MemKept.reduceOp {i : Instr} {t : VType} {cls : Elem → Bool} {g : Elem → RMode → W64 → V512 → W64 × FFlags}
    {d a : Reg} {x : Reg8} (h : MemKept s u) : GoesOn s (reduceOp i t cls g d a x u) :=
  h.issueTyped fun _ => h.popV.writeG.raiseFlags.complete

theorem MemKept.convertOp {i : Instr} {dt st : VType} {sat rtz : Bool} {d a : Reg} {x : Reg8} (h : MemKept s u) :
    GoesOn s (convertOp i dt st sat rtz d a x u) := by
  unfold Machine.convertOp
  split
  · exact h.illegalNow
  · exact h.issueTyped fun _ => h.popV.finishV

theorem MemKept.specialOp {i : Instr} {lat : Nat} {g : RMode → Nat → Nat × FFlags} {d a : Reg} {x : Reg8}
    (h : MemKept s u) : GoesOn s (specialOp i lat g d a x u) := h.lanewise1

theorem MemKept.trigOp {i : Instr} {turn : Nat} {d a : Reg} {x : Reg8} (h : MemKept s u) :
    GoesOn s (trigOp i turn d a x u) := h.issue h.vsrc2.finishV

/-! ### Gathers and scatters -/

theorem MemKept.gatherFault {t : TileNo} {k : Fin 8} (h : MemKept s u) : MemKept s (gatherFault t u k) := by
  unfold Machine.gatherFault
  split
  · refine .onHart ?_ fun _ h => h.raiseAt
    split
    · exact h.modStrand.modTile
    · exact h.modStrand
  · exact h

theorem MemKept.gatherSlot {t : TileNo} (h : MemKept s u) : MemKept s (gatherSlot t u) :=
  .foldl h fun h => h.modTile.gatherFault

theorem MemKept.startGather {j : Gather} (h : MemKept s u) : MemKept s (startGather j u) := by
  unfold Machine.startGather
  split
  · exact h.modStrand.modTile
  · exact h

theorem MemKept.gatherOp {i : Instr} {n : Nat} {d a b : Reg} {x : Reg8} (h : MemKept s u) :
    GoesOn s (gatherOp i n d a b x u) := by
  unfold Machine.gatherOp
  dsimp only
  refine h.issueLocal ?_
  split
  · exact h.raise
  · exact h.raise
  · exact h.popG.popV.draw.reserve.startGather.complete

theorem MemKept.scatterOp {i : Instr} {n : Nat} {d a b : Reg} {x : Reg8} (h : MemKept s u) :
    GoesOn s (scatterOp i n d a b x u) := by
  unfold Machine.scatterOp
  dsimp only
  refine h.issueLocal ?_
  split
  · exact h.raise
  · exact h.popG.popV.popV.startGather.complete

/-! ### The matrix unit -/

theorem MemKept.matIssue {i : Instr} {nd : Need} {a v : Option Reg} {dst : Option (Bool × Reg)} (h : MemKept s u) :
    GoesOn s (matIssue i nd a v dst u) := by
  unfold Machine.matIssue
  refine h.issue ?_
  split
  · refine .ite h (.modStrand (.modTile (.popAll ?_)))
    split
    · exact h.draw.reserve
    · exact h.draw
  · exact h

theorem MemKept.releaseStrand {t : TileNo} {k : Fin 8} (h : MemKept s u) : MemKept s (releaseStrand t k u) :=
  h.modStrand

theorem MemKept.undoOp {t : TileNo} {op : MatOp} (h : MemKept s u) : MemKept s (undoOp t op u) := by
  unfold Machine.undoOp
  refine .giveBack ?_
  split
  · exact h.modTile
  · exact h

theorem MemKept.refuseOp {t : TileNo} {op : MatOp} {rest : List MatOp} {c : Cause} {eval : W64} (h : MemKept s u) :
    MemKept s (refuseOp t op rest c eval u) := h.modTile.undoOp.releaseStrand.onHart fun _ h => h.raiseAt

theorem MemKept.matFault {t : TileNo} {r : MatRun} {eval : W64} (h : MemKept s u) : MemKept s (matFault t r eval u) :=
  h.modTile.undoOp.releaseStrand.onHart fun _ h => h.raiseAt

theorem MemKept.beginNext {late : Bool} {t : TileNo} (h : MemKept s u) : MemKept s (beginNext late t u) := by
  unfold Machine.beginNext
  dsimp only
  split
  · refine .ite h (.ite h.modTile ?_)
    split
    · exact h.refuseOp
    · exact h.modTile
  · exact h

theorem MemKept.matCycle {t : TileNo} (h : MemKept s u) : MemKept s (matCycle t u) := by
  unfold Machine.matCycle
  split
  · split
    · exact h.matFault
    · exact h.setTile
  · exact h

theorem MemKept.matrixLate {t : TileNo} (h : MemKept s u) : MemKept s (matrixLate t u) := h.beginNext

theorem MemKept.matDeliver {t : TileNo} {r : MatRun} {bs : List Byte} (h : MemKept s u) :
    MemKept s (matDeliver t r bs u) := by
  unfold Machine.matDeliver
  split
  · exact h.modTile
  · exact h.deliverDest

theorem MemKept.finishOp {t : TileNo} {r : MatRun} (h : MemKept s u) : MemKept s (finishOp t r u) :=
  h.setTile.releaseStrand.matDeliver.onHart fun _ h => h.raiseFlags.complete

theorem MemKept.execMatrixInstructionEnd {t : TileNo} (h : MemKept s u) :
    GoesOn s (execMatrixInstructionEnd t u) := by
  unfold Machine.execMatrixInstructionEnd
  refine .next (.modTile ?_)
  split
  · refine .ite h ?_
    split
    · exact h.matFault
    · exact h.finishOp
  · exact h

/-! ### The Sorus sampler -/

theorem EngSettled.sorusBody {rd : Reg} {t : TileNo} {d : Desc} (h : MemKept s u) :
    EngSettled s (sorusBody rd t d u) := by
  unfold Machine.sorusBody
  split
  · exact .hold h.modDie.modEng
  · exact .ok h.engDone
  · exact .fail h
  · exact .hold h

theorem EngKept.readLists {t : TileNo} {c : Nat} {r : List (Nat × Nat)} {l : Nat} (h : MemKept s u) :
    EngKept s (readLists t c r l u) := by
  induction r generalizing l u with
  | nil => exact .ok h
  | cons _ r ih => exact .ite (.fail h) (.bind (.engRead h) fun h => .bind (ih h) fun h => .ok h)

theorem EngKept.sortResult {t : TileNo} {d : Desc} (h : MemKept s u) : EngKept s (sortResult t d u) :=
  .ite (.bind (.engRead h) fun h => .ite (.fail h) (.bind (.readLists h) fun h => .ok h))
    (.ite (.fail h) (.bind (.engRead h) fun h => .ok h))

theorem EngKept.sampResult {t : TileNo} {d : Desc} (h : MemKept s u) : EngKept s (sampResult t d u) :=
  .ite (.fail h) (.bind (.engRead h) fun h => .ok h)

theorem MemKept.execSorusRequestStart {d : DieNo} (h : MemKept s u) : GoesOn s (execSorusRequestStart d u) := by
  unfold Machine.execSorusRequestStart
  refine .next ?_
  split
  · exact h.setDie.modEng
  · exact h

theorem EngSettled.sorusWrite {t : TileNo} {c : Nat} {dst : W64} {out : List Byte} {n : Nat} (h : MemKept s u) :
    EngSettled s (sorusWrite t c dst out n u) := by
  induction n generalizing u with
  | zero => exact .ok h
  | succ n ih => exact .ite (.ok h) (.bind (EngSettled.writePiece h).kept fun h => ih h)

theorem MemKept.sorusAnswer {d : DieNo} {t : TileNo} {err : Nat} {efault : W64} {gd : Nat} (h : MemKept s u) :
    MemKept s (sorusAnswer d t err efault gd u) := h.modDie.modEng

theorem MemKept.sorusServe {d : DieNo} {t : TileNo} (h : MemKept s u) : MemKept s (sorusServe d t u) := by
  unfold Machine.sorusServe
  extract_lets v settle
  have hv : MemKept s v := h.modEng
  have settled {x : Eng State} (hx : EngSettled s x) : MemKept s (settle x) := by
    cases x with
    | ok => exact hx.1.modEng
    | hold | later => exact MemKept.modEng hx
    | fail => exact MemKept.modEng (MemKept.sorusAnswer hx)
  split
  · exact settled (.bind (.ite (.sortResult hv) (.sampResult hv)) fun h => .ok h.modEng)
  · exact settled (.bind (EngSettled.sorusWrite hv).kept fun h => .ok (.ite h h.sorusAnswer))
  · exact hv.modDie

theorem MemKept.execSorusRequestEnd {d : DieNo} (h : MemKept s u) : GoesOn s (execSorusRequestEnd d u) := by
  unfold Machine.execSorusRequestEnd
  dsimp only
  refine .next ?_
  split
  · exact h
  · refine .ite h ?_
    split
    · exact .ite h h.sorusAnswer
    · split
      · exact .ite h.sorusServe h.sorusServe.sorusServe
      · exact h.sorusServe

/-! ### Asynchronous traps -/

theorem MemKept.deliverAsync {t : TileNo} {k : Fin 8} (h : MemKept s u) : MemKept s (deliverAsync t k u) :=
  .ite h (.ite h.modStrand.takeTrap h.modStrand.takeTrap)

/-! ### The dispatch -/

/-- Every instruction and every event has a meaning that goes on (R9). -/
theorem MemKept.exec {i : Instr} (h : MemKept s u) : GoesOn s (exec i u) := by
  unfold Machine.exec
  cases i with
  | add | sub | and | or | xor | andn | shl | shr | sra | rot | min | max | minN | maxN | addw | subw | mul
  | mulh | mulhN | seq | sne | slt | sltN | sle | sleN => exact h.aluOp2
  | clz | ctz | popc | sextB | sextH | sextW | zextB | zextH | zextW | addi | andi | ori | xori | shi | ldih
  | slti | sltiN => exact h.aluOp1
  | bfx | bfi | sel => exact h.aluOp3
  | div | divN | rem | remN => exact h.divOp
  | ldi | scnt | sstat => exact h.issue h.writeG.complete
  | j => exact h.issue (h.jumpTo h)
  | jal => exact h.issue (h.jumpTo h.writeG)
  | b => exact h.issue (.ite (.ite h.raise h.src2.completeTo) h.src2.complete)
  | jalr => exact h.issue (.ite h.raise (.ite h.raise h.src1.writeG.completeTo))
  | loop => exact h.issue (h.enterLoop h.src1)
  | loopi => exact h.issue (h.enterLoop h)
  | ldl => exact h.issueLocal (.ite h.raise (.ite h.raise (h.onBank fun _ h => h.src1.writeG.complete)))
  | stl => exact h.issueLocal (.ite h.raise (.ite h.raise (h.onBank fun _ h => h.src2.modMyTile.complete)))
  | ld => exact h.execLd
  | st => exact h.execSt
  | ldh => exact h.execLdh
  | sth => exact h.execSth
  | amo => exact h.issueLocal (.ite h.raise (.ite h.raise (.ite (h.amoLocal fun _ h => h.amoOperands) h.amoGlobal)))
  | xlat => exact h.execXlat
  | xrel => exact h.issue (.ite h h.modRegs.complete)
  | vaddFp | vsubFp | vmulFp | vminFp | vmaxFp | vcpysgn | vaddInt | vsubInt | vmulInt | vmulh | vminInt
  | vmaxInt | vand | vor | vxor | vshl | vshr | vsra => exact h.lanewise2
  | vabsFp | vneg | vabsInt => exact h.lanewise1
  | vfma | vfms | vfnma | vfnms => exact h.lanewise3
  | veq | vne | vlt | vle | vunord => exact h.compareOp
  | vsel => exact h.issueTyped fun _ => h.vsrc2.writeV.complete
  | vswp => exact h.issueTyped fun _ => h.popV.writeV.complete
  | vperm | vzipl | vziph | vuzpe | vuzpo => exact h.permOp
  | vslup | vsldn | vbcast => exact h.slideOp
  | vrsum | vrmax | vrmin | vrsumi => exact h.reduceOp
  | vcvt | vcvtSat | vcvtRtz => exact h.convertOp
  | vrsq | vrcp | vredh | vquad | vexp2 | vlog2 | vsqrt => exact h.specialOp
  | vsin | vcos => exact h.trigOp
  | vldL => exact h.issueLocal (.ite h.raise (.ite h.raise (h.onBank fun _ h => h.src1.writeV.complete)))
  | vldG => exact h.execVldG
  | vstL => exact h.issueLocal (.ite h.raise (.ite h.raise (h.onBank fun _ h => h.popG.popV.modMyTile.complete)))
  | vstG => exact h.execVstG
  | vgathW | vgathH | vgathB => exact h.gatherOp
  | vscatW | vscatH | vscatB => exact h.scatterOp
  | mand | mor | mxor | mnot => exact h.maskOp2
  | mpopc | mfirst | mget => exact h.maskToG
  | mset => exact h.issue h.src1.writeM.complete
  | vldi => exact h.issueTyped fun _ => h.writeV.complete
  | vmovg => exact h.issueTyped fun _ => h.src1.writeV.complete
  | vext => exact h.issueTyped fun _ => h.popV.popG.writeG.complete
  | vins => exact h.issueTyped fun _ => h.src2.writeV.complete
  | mma | mms => exact .ite h.matIssue h.illegalNow
  | mlb | mlarm | mlfree | mrow | mwrow | mst | mzero | mwait | mhdr | mtag => exact h.matIssue
  | sbind | sfree => exact h.issue (.ite h.raise (.ite h h.setBind.complete))
  | speek => exact h.issue (.ite h.raise (.ite h h.modMe.writeG.complete))
  | sinj => exact h.issue (.ite h (.ite h.raise (.ite h.raise (.ite h.raise h.src2.modMe.complete))))
  | side => exact h.issue (.ite h.raise (.ite h.raise (.ite h.raise (.ite h h.src2.modMyTile.complete))))
  | sclr => exact h.issue h.src1.modMyTile.complete
  | sresume | sresumeSkip => exact h.issue (.ite h.raise h.modSw.complete)
  | sbinit => exact h.issue (.ite h.raise (.complete (.ite h.src1.modMyTile.modSw h.src1.modMyTile)))
  | sbexp => exact h.issue (.ite h.raise h.src1.modMyTile.complete)
  | sbarr => exact h.issue (.ite h.raise (.ite h h.modMyTile.complete))
  | sbwait => exact h.issue (.ite h h.src1.complete)
  | ekick =>
    exact h.issue (.ite h.raise (.ite (.ite h h.src1.modEng.complete) (.ite h.raise (.ite h h.src1.modEng.complete))))
  | embox => exact h.issue (.ite h h.writeG.modRegs.complete)
  | ewait | fenceT | fenceD | fenceM | fenceP | fenceS => exact h.issue (.ite h.complete h)
  | csrr | csrw | csrs | csrc => exact h.csrOp
  | trap => exact h.issue h.raise
  | eret => exact h.issue h.returnFromTrap
  | emove => exact h.engRun fun _ _ _ h => .moveBody h
  | estrd => exact h.engRun fun _ _ _ h => .strideBody h
  | egath | escat => exact h.engRun fun _ _ _ h => .gatherBody h
  | estream => exact h.engRun fun _ _ _ h => .streamBody h
  | edrain => exact h.engRun fun _ _ _ h => .drainBody h
  | ered => exact h.engRun fun _ _ _ h => .redBody h
  | esamp | esort => exact h.engRun fun _ _ _ h => .sorusBody h
  | sroute | sxor | sskip => exact .next h.swRoute
  | srtw => exact .next (.ite h.swWait h.modSw.swNext)
  | sjump => exact .next h.swGoto
  | sloop => exact .next h.modSw.swNext
  | sbnz => exact .next (.ite h.swNext h.modSw.swGoto)
  | sdec => exact .next (.ite h.claimDecode.swRoute h.swSkip)
  | ssig => exact .next (.ite h.stopSwitch h.modTile.swNext)
  | shalt => exact .next h.modSw
  | snop => exact .next h.swRepDone
  | matrixInstructionBegin => exact .next h.beginNext.matCycle
  | matrixInstructionEnd => exact h.execMatrixInstructionEnd
  | asyncTrapDelivery => exact .next h.deliverAsync
  | yieldExpiry => exact .next h.modStrand
  | dividerFree | engineJobStart => exact .next h.modTile
  | overrun => exact .next (h.onPlaced fun _ _ => .ite h (.foldl h fun h => h.modStrand))
  | overrunDeadline => exact h.execOverrunDeadline
  | accessComplete => exact h.execAccessComplete
  | translationWalk => exact .next h.walkHeld
  | faultRecordWrite => exact .next h.writeRecord
  | watchPendingPush => exact .next (.ite h.pendingPush.duePush h)
  | engineJobEnd => exact h.execEngineJobEnd
  | collectiveComplete => exact .next h.modHub
  | sorusRequestStart => exact h.execSorusRequestStart
  | sorusRequestEnd => exact h.execSorusRequestEnd
  | slotLoadEnd => exact h.execSlotLoadEnd
  | groupPlace => exact .next h.placeFirst
  | groupStart => exact .next h.startGroup
  | groupFinish => exact .next h.finishGroup
  | quantumExpiry => exact .next (h.onPlaced fun _ _ => .ite h (.ite h (.ite h.askFreeze h.modLaunch)))
  | freeze => exact h.execFreeze
  | restore => exact h.execRestore
  | seamCreditReturn => exact .next h.creditReturn
  | ringPost => exact .next h.postRing
  | retransmitTimeout => exact .next h.retransmit
  | clusterCommandEnd => exact h.execClusterCommandEnd
  | railTimeout => exact h.execRailTimeout
  | illegalInstruction => exact .ite (.next h.raise) (.next h)
  | illegalSwitchWord => exact .next h.stopSwitch
  | hostRead => exact h.execHostRead
  | hostWrite => exact h.execHostWrite
  | attestationRequest => exact .next (h.accepts h.attest)
  | queueInboxWrite | accumulatorWindowAccess => exact .next (.ite h.accessTile.defer h.accessTile)
  | kick => exact h.execKick
  | barrierWindowArrive | barrierWindowDeliver => exact .next h.barStore
  | clusterRestore | ungate | quiesce | save | gate => exact .next h.commandWrite
  | fqreply => exact .next h.replyWrite
  | fqheadWrite => exact .next h.fqHeadSet
  | watchEnableWrite => exact .next h.watchControl
  | launchRecordRead => exact h.execLaunchRecordRead
  | doorbell => exact .next (h.inTurn h.doorbellWrite)
  | qcfgWrite => exact .next (h.accepts h.qcfgSet)
  | dctlWrite => exact .next h.dctlSet
  | cancel => exact .next (h.accepts h.cancelLaunch)
  | timelineCounterWrite => exact .next (h.inTurn h.counterWrite)
  | timelineCounterIncrement => exact .next (h.inTurn h.counterAdd)
  | launchActivate => exact h.execLaunchActivate
  | slotLoad => exact .next (h.accepts h.loadSlot)
  | slotUnload => exact .next (h.accepts h.unloadSlot)
  | seamSelectorWrite => exact .next h.selWrite
  | seamCrcResend => exact .next (.ite h (.ite h.modCache.failLane h.modCache))
  | seamLaneFail => exact .next h.failLane
  | dynamicLinkFail => exact .next h.draw.failAll.modHub.irq.irq
  | uncorrectableError => exact h.execUncorrectableError
  | irqenWrite => exact .next (h.accepts h.irqenSet)
  | irqcauseClear => exact .next (h.accepts h.irqClear)
  | dataFrameReceive => exact h.execDataFrameReceive
  | ackFrameReceive => exact h.execAckFrameReceive
  | peerReset => exact .next h.peerWrite
  | fcsError | ethernetLinkChange => exact .next h.modPort
  | pbudgetWrite => exact .next (h.accepts h.budgetWrite)
  | allowanceRecompute => exact .next h.recompute
  | coolantLimit => exact .next (.ite h.same.setPevent.recompute h.same)
  | thermalTrip => exact .next (.ite h.same h.same.failAll.modHub)
  | autowakeSet => exact .next h.autowakeWrite
  | clctlInvalidCommand => exact .next h.refuse
  | clsaveWrite => exact .next h.clsaveSet
  | clwake => exact .next (.ite h.wakeCluster h)
  | powerOnBoot =>
    exact .next (.ite h (.ite h.draw.extendMr.extendMr.same.bootStage1 h.draw.extendMr.extendMr.same.same))
  | recoveryImageLoad => exact .next (.ite h h.draw.bootStage1)
  | mrExtend => exact .next (h.accepts (.ite h h.extendMr))
  | keyRegenerate => exact .next (h.accepts (.ite h h.newKey))
  | panelReset => exact .next h.panelReset
  | smbusStatusRead => exact .next h.emit
  | jtagInstruction => exact .next h.jtagStep
  | debugHalt | debugResume | debugEnableWrite => exact .next h.dbgWrite
  | dbgresume => exact .next h.dbgResume
  | errorCounterClear => exact h.execErrorCounterClear
  | registerWrite => exact .next (.ite h.controllerWrite (.ite h h.blockStore))
  | revocation => exact .next h.changeLeaf.same
  | ucieModuleLinkChange =>
    exact .next (.ite (.foldl h.modHub.releaseHostWrites.modHub fun h => h.sendIrq) h.modHub.releaseHostWrites)
  | nop => exact h.issue h.complete
  | retire => exact h.execRetire
  | yield => exact h.issue h.modRegs.complete
  | brk => exact h.execBrk

/-! ### The slots of a cycle -/

theorem MemKept.pushAll {l : List Instr} (h : MemKept s u) : MemKept s (u.pushAll l) := h.same

theorem MemKept.perhaps {f : Nat → State → Out State} (h : MemKept s u) (hf : ∀ n v, MemKept s v → GoesOn s (f n v)) :
    GoesOn s (perhaps u f) :=
  .ite (hf _ _ h.draw) (.next h.draw)

theorem GoesOn.mapNext {f : State → State} {o : Out State} (h : GoesOn s o)
    (hf : ∀ v, MemKept s v → MemKept s (f v)) :
    GoesOn s (mapNext f o) := by
  obtain ⟨v, rfl, hv⟩ := h
  exact .next (hf v hv)

theorem MemKept.hasIssued {t : TileNo} {k : Fin 8} (h : MemKept s u) : MemKept s (hasIssued t k u) := h.modTile.same

theorem MemKept.afterAttempt {t : TileNo} {k : Fin 8} {old : Strand} (h : MemKept s u) :
    MemKept s (afterAttempt t k old u) := .ite h (.ite h.hasIssued h.same)

theorem MemKept.attempt {t : TileNo} {k : Fin 8} (h : MemKept s u) : GoesOn s (attempt t k u) :=
  .ite (.next h) (h.same.exec.mapNext fun _ h => h.afterAttempt)

theorem MemKept.tentative {t : TileNo} {k : Fin 8} (h : MemKept s u) : GoesOn s (tentative t k u) := by
  obtain ⟨v, e, -⟩ := h.attempt (t := t) (k := k)
  simp only [Machine.tentative, e]
  exact .ite (.next h) (.next h.same)

theorem MemKept.earlyAttempt {t : TileNo} {k : Fin 8} (h : MemKept s u) : GoesOn s (earlyAttempt t k u) :=
  .ite h.tentative h.attempt

theorem MemKept.issueSlot {t : TileNo} (h : MemKept s u) : MemKept s (issueSlot t u) :=
  .ite h (.ite (.foldl h fun h => h.deliverAsync) (.same (.foldl h fun h => h.deliverAsync)))

theorem MemKept.switchSlot {t : TileNo} (h : MemKept s u) : GoesOn s (switchSlot t u) := .ite (.next h) h.same.exec

theorem MemKept.decodeSlot {t : TileNo} (h : MemKept s u) : GoesOn s (decodeSlot t u) := by
  unfold Machine.decodeSlot
  refine .next (.ite h ?_)
  split
  · exact h.claimDecode
  · exact h

theorem MemKept.signalSlot {t : TileNo} (h : MemKept s u) : GoesOn s (signalSlot t u) :=
  .ite h.same.switchSlot (.next h)

theorem MemKept.engineShows {t : TileNo} (h : MemKept s u) : MemKept s (engineShows t u) := h.modEng

theorem MemKept.engineSlot {t : TileNo} (h : MemKept s u) : GoesOn s (engineSlot t u) := by
  refine .ite (.next h) (.ite h.exec (.ite (.ite h.exec (.next h)) ?_))
  split
  · exact .next (.ite h (EngSettled.bind (.retakeHandle h) fun h => .ok h).engSettle)
  · dsimp only
    split
    · exact .next (.of_snd h.engineShows.readAhead ‹_›)
    · exact (MemKept.of_snd h.engineShows.readAhead ‹_›).same.exec

theorem MemKept.mgmtSlot {d : DieNo} (h : MemKept s u) : GoesOn s (mgmtSlot d u) :=
  .ite (.next h) (h.same.exec.mapNext fun _ h => h.modDie)

theorem MemKept.walkSlot {g : HartId} (h : MemKept s u) : GoesOn s (walkSlot g u) := by
  unfold Machine.walkSlot
  split
  · exact .ite h.exec (.next h)
  · exact .next h

theorem MemKept.accessSlot {g : HartId} {id : Nat} (h : MemKept s u) : GoesOn s (accessSlot g id u) := by
  unfold Machine.accessSlot
  dsimp only
  split
  · exact .next h
  · split
    · exact .ite (.next h) h.exec
    · exact .next h

theorem MemKept.windowStores {high : Bool} (h : MemKept s u) : MemKept s (windowStores high u) := h.same

theorem MemKept.sorusSlot {d : DieNo} (h : MemKept s u) : GoesOn s (sorusSlot d u) :=
  .ite (.next h) (.ite (h.perhaps fun _ _ h => h.exec) (.ite (.next h) h.exec))

theorem MemKept.watchSlot {c : DieNo} (h : MemKept s u) : MemKept s (watchSlot c u) := h.pushAll

theorem MemKept.seamSlot {c : DieNo} (h : MemKept s u) : MemKept s (seamSlot c u) :=
  .foldl h fun h => .ite (.ite h h.creditReturn) (.laneArrive (.ite h h.creditReturn))

theorem MemKept.clusterSlot {d : DieNo} {k : Fin 4} (h : MemKept s u) : GoesOn s (clusterSlot d k u) := by
  unfold Machine.clusterSlot
  split
  · exact h.perhaps fun _ _ h => .ite h.execRailTimeout h.execClusterCommandEnd
  · exact .next h.serveWake

theorem MemKept.linksSlot {p : Fin 32} (h : MemKept s u) : MemKept s (linksSlot p u) :=
  .releaseWrites (.foldl h fun h => h.closeFrame.retransmit)

theorem MemKept.dispatcherSlot {phase : Fin 8} (h : MemKept s u) : MemKept s (dispatcherSlot phase u) :=
  h.closeCycle.draw.pushAll

theorem MemKept.eccSlot (h : MemKept s u) : MemKept s (eccSlot u) := .foldl h.draw fun h => .ite h.modDie h.modCache

theorem MemKept.runSlot {k : SlotKind} (h : MemKept s u) : GoesOn s (runSlot k u) := by
  unfold Machine.runSlot
  split
  · exact .ite h.exec (.next h)
  · exact .ite h.exec (.next h)
  · exact .next h.issueSlot
  · exact h.earlyAttempt
  · exact .next h
  · exact h.attempt
  · exact h.decodeSlot
  · exact .next (.ite h h.gatherSlot.amoSlot)
  · exact h.signalSlot
  · exact h.switchSlot
  · exact .next (.ite h.sinjSlot h)
  · exact .next (.ite h.matrixLate h)
  · exact h.engineSlot
  · exact .next h.modTile
  · exact h.mgmtSlot
  · exact h.walkSlot
  · exact h.accessSlot
  · exact .next h.revocationSlot
  · exact .next h.windowStores
  · exact .next h
  · exact .next h.pushAll
  · exact .next h.eccSlot
  · exact .next h.firmwareSlot
  · exact h.sorusSlot
  · exact h.exec
  · exact .next h.watchSlot
  · exact .next h.seamSlot
  · exact h.clusterSlot
  · exact .next h.linksSlot
  · exact .next (.ite h.push h)
  · exact .next h.dispatcherSlot

theorem MemKept.tick (h : MemKept s u) : MemKept s (tick u) := h.same.same

/-! ### The step -/

theorem MemKept.step (h : MemKept s u) : GoesOn s (step u) := by
  unfold Machine.step
  split
  · exact h.same.exec
  · split
    · exact h.same.runSlot
    · exact .next h.tick

end Operations

/-- Settles O6: a step is an event or a slot of the cycle, whose meanings all go on, or the turn of the clock. -/
theorem stepAlwaysGoesOn : Obligations.StepAlwaysGoesOn := by
  intro s
  obtain ⟨t, e, -⟩ := (MemKept.refl s).step
  exact ⟨t, e⟩

/-- Settles O7: every meaning writes HBM and host memory through `memWrite` only, which keeps the canonical form. -/
theorem stepKeepsMemoryForm : Obligations.StepKeepsMemoryForm := by
  intro s t hm hh e
  obtain ⟨v, q, hv⟩ := (MemKept.refl s).step
  cases e.symm.trans q
  exact ⟨hv.hbm hm, hv.host hh⟩

end Sys2Proof.Machine
end
